-- ==== Sys2Proof/Word.lean ====
section
/-! DEFINITION. The word types of the Eperot Z9 and the sparse table every large piece of state is kept in. -/

namespace Sys2Proof

/-- A lane register, a uniform register, a control register: 64 bits (R12). -/
abbrev Word := BitVec 64

/-- One byte of memory. -/
abbrev Byte := BitVec 8

/-- One word of an instruction stream (R9). -/
abbrev CodeWord := BitVec 32

/-- One bit for each of the 1,024 possible lanes of a team (R80, R102). -/
abbrev LaneMask := BitVec 1024

/-- A sparse table: keys strictly rising, no entry equal to the table's default value. -/
abbrev Store (α : Type) := List (Nat × α)

/-- Memory: bytes by unified key (see `Machine/Memory.lean`), an unlisted byte reads 0. -/
abbrev Memory := Store Byte

end Sys2Proof
end

