-- ==== Sys2Proof/Config.lean ====
section
/-! DEFINITION. What the manual leaves open: free values and choices an implementation fixes. None has a body, so no
proof can rest on a value of one (assumption log 3 to 8). -/

namespace Sys2Proof.Config

/-- Result bits of RSQ, EXP2, LOG2, SIN, COS, TANH on an operand whose result R192 fixes only by its accuracy: operation 2
to 7, format code (R17), operand bits, DAZ, FTZ. -/
opaque transcendental : Nat → Nat → Nat → Bool → Bool → Nat

/-- A value no rule fixes, at one value of the model's counter `Sched.fresh`. -/
opaque freeWord : Nat → BitVec 64

/-- The L1 set of a line (R155). -/
opaque l1Set : Nat → Nat

/-- The directory set of a sector (R158). -/
opaque dirSet : Nat → Nat

/-- The way of the victim an L1 evicts (R155): from the set's occupancy and a counter. -/
opaque victim : Nat → Nat → Nat

/-- The hash that picks the port of a request among the ports that are up (R327). -/
opaque portHash : Nat → Nat

/-- Whether a port was trained at 448 Gb/s per lane, as it may be where both ends are Z9 parts, or at 200 (R322). -/
opaque portFast : Nat → Bool

/-- The chip of the member of rank r of group g where this chip's tree table does not name it (R290): group, rank. -/
opaque memberChip : Nat → Nat → Nat

/-- L2 ways locked for Landing, at most 4 (R296): die, and the number of launches placed so far, since the driver may lock anew
between launches. -/
opaque landingWays : Nat → Nat → Nat

/-- Whether the Landing of a group is counted in the positions of a BF16 group (R296), which no table says. -/
opaque groupBf16 : Nat → Bool

/-- The sign of a NaN that MEPI converts (R226), from the bits of the value and of the scale it is multiplied by (R270): R226 keeps
the input's sign and no rule gives a product that is a NaN one. -/
opaque nanSign : Nat → Nat → Bool

/-- The E8M0 code of a magnitude m × 2^e clamped to a bound below 2^(-127), which no code meets (R217, R224): bound, m, e. -/
opaque e8m0Below : BitVec 32 → Nat → Int → BitVec 8

/-- Bytes that come from outside and that the controller keeps: the digests of guests' chains (R337, R357). -/
opaque controllerByte : Nat → Nat → BitVec 8

/-- The controller's signature of a report under the part's identity key, byte by byte (R357). -/
opaque identitySignature : List (BitVec 8) → Nat → BitVec 8

end Sys2Proof.Config
end

