-- ==== Sys2Proof/Syntax.lean ====
section
/-! DEFINITION. The instruction set Synni and the part's other steps: one constructor of `Instr` per row of the
opcode table. Operand codes are constructors or bit vectors of the field's width; reserved codes have no constructor
or are refused by `WellFormed`. -/

namespace Sys2Proof

/-- Integer sub-element width, field ty and sz (R17): codes 0 to 3. -/
inductive IW | w64 | w32 | w16 | w8
  deriving DecidableEq, Repr

/-- Floating-point format, field ty (R17): codes 0 to 3. -/
inductive FF | f64 | f32 | f16 | bf16
  deriving DecidableEq, Repr

/-- Narrow formats nf 0 to 8 (R216, R219, R217). -/
inductive NF | e4m3 | e5m2 | e2m3 | e3m2 | e2m1 | sm2 | sm4 | sm8 | e8m0
  deriving DecidableEq, Repr

/-- Coherence policies, field pol (R17). -/
inductive Policy | si | wi | own | wt
  deriving DecidableEq, Repr

/-- Rounding modes (R30, R69). -/
inductive Rm | rne | rtz | rup | rdn | rna | rsr
  deriving DecidableEq, Repr

/-- Conditions of CMP and GCMP (R52). -/
inductive CC | eq | ne | lt | ge | ltn | gen | tst
  deriving DecidableEq, Repr

/-- Conditions of FCMP (R194). -/
inductive FCC | eq | ne | lt | le | gt | ge | un | od
  deriving DecidableEq, Repr

/-- How a comparison is combined into its destination (R30). -/
inductive Cmb | set | and | or | xor
  deriving DecidableEq, Repr

/-- Atomic operations aop 0 to 14 (R113). -/
inductive AOp | add | and | or | xor | min | max | minn | maxn | xchg | cas | fadd | fmin | fmax | incn | decn
  deriving DecidableEq, Repr

/-- Reductions fn6 0 to 10 of XRED and XSCAN (R206). -/
inductive RedOp | add | min | max | minn | maxn | and | or | xor | fadd | fmin | fmax
  deriving DecidableEq, Repr

/-- Scopes 0 to 5 (R23, R171). -/
inductive Scope | team | block | gang | device | pod | system
  deriving DecidableEq, Repr

/-- Orderings of an ORD prefix, ord 1 to 3 (R23). -/
inductive OrdKind | acquire | release | acqRel
  deriving DecidableEq, Repr

/-- Kinds of FENCE (R19). -/
inductive FenceKind | acquire | release | acqRel | sc
  deriving DecidableEq, Repr

/-- Queries of PALQ (R137). -/
inductive PalQ | limit | space | policies | default | target | perm | sealed | format
  deriving DecidableEq, Repr

/-- Control registers by number 0x000 to 0x011 (R68). -/
inductive CReg
  | fpctl | fpflags | teamsz | teamid | blockid | gangxy | corexy | chipid | gtc | hbeat | batch | trapvec | trappc
  | trapcode | trapinfo | arminfo | srseed | tstat
  deriving DecidableEq, Repr

/-! Operand formats of the lane side (R14). -/

/-- LR with an integer width. -/
structure LR where
  pg : BitVec 3
  vd : BitVec 6
  va : BitVec 6
  vb : BitVec 6
  ty : IW
  ta : Bool
  tb : Bool
  deriving DecidableEq, Repr

/-- LR with a floating-point format. -/
structure FR where
  pg : BitVec 3
  vd : BitVec 6
  va : BitVec 6
  vb : BitVec 6
  ty : FF
  ta : Bool
  tb : Bool
  deriving DecidableEq, Repr

/-- LR of FDOT and FCVTR, whose ty is f16 or bf16 (R17). -/
structure HR where
  pg : BitVec 3
  vd : BitVec 6
  va : BitVec 6
  vb : BitVec 6
  bf : Bool
  ta : Bool
  tb : Bool
  deriving DecidableEq, Repr

/-- LRF: two sources and a width, the selector fixed by the constructor. -/
structure LF where
  pg : BitVec 3
  vd : BitVec 6
  va : BitVec 6
  vb : BitVec 6
  ty : IW
  deriving DecidableEq, Repr

/-- LU with an integer width. -/
structure LU where
  pg : BitVec 3
  vd : BitVec 6
  va : BitVec 6
  ty : IW
  ta : Bool
  deriving DecidableEq, Repr

/-- LU with a floating-point format. -/
structure FU where
  pg : BitVec 3
  vd : BitVec 6
  va : BitVec 6
  ty : FF
  ta : Bool
  deriving DecidableEq, Repr

/-- LI: ten-bit immediate. -/
structure LI where
  pg : BitVec 3
  vd : BitVec 6
  va : BitVec 6
  imm : BitVec 10
  deriving DecidableEq, Repr

/-- LI of a shift: six-bit count (R18). -/
structure LSh where
  pg : BitVec 3
  vd : BitVec 6
  va : BitVec 6
  c : BitVec 6
  deriving DecidableEq, Repr

/-- MOVI: va is 0 (R18). -/
structure LMov where
  pg : BitVec 3
  vd : BitVec 6
  imm : BitVec 10
  deriving DecidableEq, Repr

/-- LS: SEL (R54). -/
structure LSel where
  pg : BitVec 3
  vd : BitVec 6
  va : BitVec 6
  vb : BitVec 6
  ps : BitVec 3
  inv : Bool
  deriving DecidableEq, Repr

/-- LC of CMP. -/
structure LC where
  pg : BitVec 3
  pd : BitVec 3
  cc : CC
  va : BitVec 6
  vb : BitVec 6
  ty : IW
  cmb : Cmb
  deriving DecidableEq, Repr

/-- LC of FCMP. -/
structure FC where
  pg : BitVec 3
  pd : BitVec 3
  cc : FCC
  va : BitVec 6
  vb : BitVec 6
  ty : FF
  cmb : Cmb
  deriving DecidableEq, Repr

/-- LQ: predicate logic of two sources. -/
structure LQ where
  pg : BitVec 3
  pd : BitVec 3
  pa : BitVec 3
  pb : BitVec 3
  deriving DecidableEq, Repr

/-- FCVT (R196). -/
structure LCvt where
  pg : BitVec 3
  vd : BitVec 6
  va : BitVec 6
  rm : Option Rm
  src : FF
  dst : FF
  ta : Bool
  deriving DecidableEq, Repr

/-- FCVTI and ICVTF (R197, R198): a float format, an integer width, unsigned, rounding override. -/
structure LCvtI where
  pg : BitVec 3
  vd : BitVec 6
  va : BitVec 6
  rm : Option Rm
  uns : Bool
  iw : IW
  ff : FF
  ta : Bool
  deriving DecidableEq, Repr

/-- ICVT (R199). -/
structure LICvt where
  pg : BitVec 3
  vd : BitVec 6
  va : BitVec 6
  sat : Bool
  sgn : Bool
  src : IW
  dst : IW
  ta : Bool
  deriving DecidableEq, Repr

/-- FCVTN (R200): LN format. -/
structure LN where
  pg : BitVec 3
  vd : BitVec 6
  va : BitVec 6
  vb : BitVec 6
  nf : NF
  deriving DecidableEq, Repr

/-- FCVTW (R202). -/
structure LW where
  pg : BitVec 3
  vd : BitVec 6
  va : BitVec 6
  nf : NF
  ty : FF
  ta : Bool
  deriving DecidableEq, Repr

/-- The type field of XRED and XSCAN: read as a width by the integer operations, as a format by the float ones (R206). -/
structure LX where
  pg : BitVec 3
  vd : BitVec 6
  va : BitVec 6
  op : RedOp
  ty : BitVec 2
  ta : Bool
  deriving DecidableEq, Repr

/-- XSCAN, with the exclusive bit (R207). -/
structure LXS where
  pg : BitVec 3
  vd : BitVec 6
  va : BitVec 6
  ex : Bool
  op : RedOp
  ty : BitVec 2
  ta : Bool
  deriving DecidableEq, Repr

/-- BCAST and GETL (R58): one lane register and one uniform register. -/
structure LMv where
  pg : BitVec 3
  rd : BitVec 6
  ra : BitVec 6
  ta : Bool
  deriving DecidableEq, Repr

/-- VOTE.ANY and VOTE.ALL (R58). -/
structure LVote where
  pg : BitVec 3
  qd : BitVec 3
  pa : BitVec 3
  deriving DecidableEq, Repr

/-- VOTE.CNT (R58). -/
structure LVoteC where
  pg : BitVec 3
  gd : BitVec 6
  pa : BitVec 3
  deriving DecidableEq, Repr

/-- LM: loads and stores (R73, R120). -/
structure LM where
  pg : BitVec 3
  vd : BitVec 6
  vo : BitVec 6
  gh : BitVec 6
  pol : Policy
  sz : IW
  deriving DecidableEq, Repr

/-- LA: atomics (R111). -/
structure LA where
  pg : BitVec 3
  vd : BitVec 6
  vo : BitVec 6
  gh : BitVec 6
  aop : AOp
  deriving DecidableEq, Repr

/-! Operand formats of the uniform side (R19, R20). -/

/-- UR. -/
structure UR where
  qg : BitVec 3
  gd : BitVec 6
  ga : BitVec 6
  gb : BitVec 6
  deriving DecidableEq, Repr

/-- UR of the unary forms (gb is 0). -/
structure UU where
  qg : BitVec 3
  gd : BitVec 6
  ga : BitVec 6
  deriving DecidableEq, Repr

/-- UI. -/
structure UI where
  qg : BitVec 3
  gd : BitVec 6
  ga : BitVec 6
  imm : BitVec 10
  deriving DecidableEq, Repr

/-- UI of a shift. -/
structure USh where
  qg : BitVec 3
  gd : BitVec 6
  ga : BitVec 6
  c : BitVec 6
  deriving DecidableEq, Repr

/-- GMOVI and GMOVH (ga is 0). -/
structure UMov where
  qg : BitVec 3
  gd : BitVec 6
  imm : BitVec 10
  deriving DecidableEq, Repr

/-- UC: GCMP. -/
structure UC where
  qg : BitVec 3
  qd : BitVec 3
  cc : CC
  ga : BitVec 6
  gb : BitVec 6
  cmb : Cmb
  deriving DecidableEq, Repr

/-- UQ: uniform predicate logic. -/
structure UQ where
  qg : BitVec 3
  qd : BitVec 3
  qa : BitVec 3
  qb : BitVec 3
  deriving DecidableEq, Repr

/-- GSEL. -/
structure USel where
  qg : BitVec 3
  gd : BitVec 6
  ga : BitVec 6
  gb : BitVec 6
  qs : BitVec 3
  inv : Bool
  deriving DecidableEq, Repr

/-- BAR.ARR and BAR.SYNC: `cnt` is the count register of a c = 1 form (R125). -/
structure UBar where
  qg : BitVec 3
  b : BitVec 5
  cnt : Option (BitVec 6)
  deriving DecidableEq, Repr

/-- CACHE (R129). -/
structure UCache where
  qg : BitVec 3
  gh : BitVec 6
  go : BitVec 6
  gl : BitVec 6
  deriving DecidableEq, Repr

/-! Engine commands (R248, R249): guard, sg, operands, parameter fields. -/

/-- STAT of a command: the status register, when STATEN is 1. -/
abbrev Stat := Option (BitVec 6)

structure CShape where
  qg : BitVec 3
  t : BitVec 4
  gh : BitVec 6
  go : BitVec 6
  stride : BitVec 11
  colsM1 : BitVec 13
  rowsM1 : BitVec 8
  deriving DecidableEq, Repr

structure CTile where
  qg : BitVec 3
  t : BitVec 4
  g : BitVec 6
  deriving DecidableEq, Repr

structure CTFree where
  qg : BitVec 3
  t : BitVec 4
  deriving DecidableEq, Repr

/-- CPY: pairs at gs and gd; FILL: pattern gs and pair gd. -/
structure CCpy where
  qg : BitVec 3
  sg : BitVec 2
  gs : BitVec 6
  gd : BitVec 6
  stat : Stat
  len64 : BitVec 24
  deriving DecidableEq, Repr

structure CCpyv where
  qg : BitVec 3
  gv : BitVec 6
  gs : BitVec 6
  gd : BitVec 6
  stat : Stat
  len64 : BitVec 24
  deriving DecidableEq, Repr

/-- GATH and SCAT. -/
structure CGath where
  qg : BitVec 3
  sg : BitVec 2
  gt : BitVec 6
  gi : BitVec 6
  gx : BitVec 6
  stat : Stat
  iw64 : Bool
  lesz : BitVec 3
  nM1 : BitVec 16
  deriving DecidableEq, Repr

/-- MMA and MMA.H; `hn` is 0 in MMA. -/
structure CMma where
  qg : BitVec 3
  sg : BitVec 2
  a : BitVec 2
  ta : BitVec 4
  tb : BitVec 4
  hn : BitVec 2
  depth : BitVec 4
  deriving DecidableEq, Repr

/-- The MEPI forms. -/
structure CMepi where
  qg : BitVec 3
  a : BitVec 2
  t : BitVec 4
  gs : BitVec 6
  tt : BitVec 4
  clr : Bool
  hn : BitVec 2
  unsc : Bool
  rsr : Bool
  deriving DecidableEq, Repr

/-- MZERO: `tag` is the register of a TAG = 1 form. -/
structure CMzero where
  qg : BitVec 3
  a : BitVec 2
  tag : Option (BitVec 6)
  f64 : Bool
  deriving DecidableEq, Repr

/-- MFENCE gd, MWAIT gN. -/
structure CReg1 where
  qg : BitVec 3
  g : BitVec 6
  deriving DecidableEq, Repr

structure CMget where
  qg : BitVec 3
  vd : BitVec 6
  a : BitVec 2
  gr : BitVec 6
  deriving DecidableEq, Repr

/-- The COLL forms; `root` is 0 but in COLL.BC. -/
structure CColl where
  qg : BitVec 3
  sg : BitVec 2
  t : BitVec 4
  gg : BitVec 6
  stat : Stat
  root : BitVec 10
  deriving DecidableEq, Repr

structure CEasel where
  qg : BitVec 3
  sg : BitVec 2
  gk : BitVec 6
  stat : Stat
  ctile : BitVec 4
  queue : BitVec 4
  site : Bool
  deriving DecidableEq, Repr

structure CBind where
  qg : BitVec 3
  w : BitVec 2
  gh : BitVec 6
  gc : BitVec 6
  sx : Bool
  ls : BitVec 2
  deriving DecidableEq, Repr

structure CUnbind where
  qg : BitVec 3
  w : BitVec 2
  deriving DecidableEq, Repr

/-- What an ORD prefix may stand before (R23). -/
inductive Access
  | ld (f : LM) | lds (f : LM) | st (f : LM) | atom32 (f : LA) | atom64 (f : LA)
  deriving DecidableEq, Repr

/-- What an EXT prefix may stand before (R24). -/
inductive ExtTarget
  | addi (f : LI) | muli (f : LI) | andi (f : LI) | ori (f : LI) | xori (f : LI) | movi (f : LMov)
  | gaddi (f : UI) | gandi (f : UI) | gori (f : UI) | gxori (f : UI) | gmovi (f : UMov) | gmovh (f : UMov)
  deriving DecidableEq, Repr

/-! Names and payloads of the events of agents other than an arm. -/

/-- An arm: the number of its team and whether it is the F arm. -/
structure ArmId where
  team : Nat
  f : Bool
  deriving DecidableEq, Repr

/-- A remote request as it reaches the target chip (R325): what is asked of one 64-byte sector. -/
inductive RemoteOp
  | siRead (lease : Nat)
  | wtRead
  | write (cells : List (Nat × Byte))
  /-- an atomic of the lanes whose bytes fall in the sector, in lane order: the offset and the operands of each (R325) -/
  | atomic (op : AOp) (wide : Bool) (lanes : List (Nat × Word × Word))
  /-- a CPYV takes the sector of its version word at the home, as the head of its queue (R265) -/
  | hold
  /-- it lets the sector go, with the bytes it writes there first, if any -/
  | release (cells : List (Nat × Byte))
  deriving DecidableEq, Repr

/-- A request from chip `chip` with its sequence number (R328), the export and byte offset of its sector (R325), the
batch it is tagged with (R329; loads carry none), whether it is an ORD acquire (R168), and whether its payload passes its tag at the
target (R299; true of one that is not sealed). -/
structure RemoteReq where
  chip : Nat
  seq : Nat
  exp : Nat
  off : Nat
  n : Nat
  op : RemoteOp
  acq : Bool
  batch : Option (Nat × Nat)
  tagOk : Bool
  deriving DecidableEq, Repr

/-- How a target ends a remote request (R325, R328, R332): with its data, 8 bytes for the old value of each lane of an atomic. -/
inductive RemoteEnd
  | done (data : List Byte) (lease : Nat)
  | refusedExport
  | refusedXlate
  | poisoned (data : List Byte)
  /-- a sealed payload failed its tag (R299) -/
  | discarded
  deriving DecidableEq, Repr

/-- The flows of a group's sectors (R298). -/
inductive Flow | allReduce | reduceScatter | allGather | bcast | send | store
  deriving DecidableEq, Repr

/-- A sector of a group on its way (R295). `rank` is the contributor's rank; a partial carries the ranks `a` to `b` it
sums; `len` is the number of bytes each member of a COLL.RS receives, 0 in other flows; `batch` the team and tag of a tagged store; `data` holds 64 bytes, or 128 of a BF16
partial; `down` marks a result on its way to the members; `tagOk` says that a sealed payload passes its tag (R299). -/
structure GroupSec where
  group : Nat
  op : Nat
  flow : Flow
  off : Nat
  rtype : Nat
  rop : Nat
  base : Nat
  exp : Nat
  len : Nat
  src : Nat
  a : Nat
  b : Nat
  bytes : Nat
  batch : Option (Nat × Nat)
  down : Bool
  wide : Bool
  data : List Byte
  tagOk : Bool
  deriving DecidableEq, Repr

/-- What comes up the tree for one lane of a reducing load (R298): a value and whether it is poisoned, or the chip that refused the
read. -/
inductive LoadVal
  | val (w : Word) (poison : Bool)
  | refused (chip : Nat)
  deriving DecidableEq, Repr

/-- A lane's reducing load as the tree knows it (R298): the loading chip, its number there, the group, its element type and
operation. -/
structure GroupLoad where
  chip : Nat
  seq : Nat
  group : Nat
  rtype : Nat
  rop : Nat
  deriving DecidableEq, Repr

/-- A Easel packet that a guest sends (R341): the fields shared with the work packet and the kind's own bytes. -/
structure GuestPkt where
  site : Nat
  queue : Nat
  seq : Nat
  deriving DecidableEq, Repr

/-- The error sources of R317. -/
inductive ErrSource
  -- of a core: one of its 16 datapaths, its part of the register file, the L1, a scratchpad bank, the MAC array, the uniform pipe
  | datapath (core d : Nat) | registerFile (core d : Nat) | l1 (core : Nat) | scratchBank (core b : Nat) | macArray (core : Nat)
  | uniformPipe (core : Nat)
  -- of a 128 KiB page: HBM, L2 data array
  | hbm (page : Nat) | l2Data (page : Nat)
  | portLane (port lane : Nat)
  | combLane (l : Nat)
  -- of the chip
  | l2Slice (u : Nat) | galleryBank (u : Nat) | bridge | atrium (die : Nat) | gtc
  deriving DecidableEq, Repr

/-- The instructions and the part's other steps: one constructor per row of the opcode table. -/
inductive Instr
  | add (f : LR)
  | sub (f : LR)
  | mul (f : LR)
  | mad (f : LR)
  | min (f : LR)
  | max (f : LR)
  | minn (f : LR)
  | maxn (f : LR)
  | and (f : LR)
  | or (f : LR)
  | xor (f : LR)
  | andn (f : LR)
  | shl (f : LR)
  | shr (f : LR)
  | sar (f : LR)
  | mulh (f : LF)
  | mulhn (f : LF)
  | div (f : LF)
  | divn (f : LF)
  | rem (f : LF)
  | remn (f : LF)
  | adds (f : LF)
  | subs (f : LF)
  | addsn (f : LF)
  | subsn (f : LF)
  | bfx (f : LF)
  | bfxn (f : LF)
  | bfi (f : LF)
  | prmb (f : LF)
  | abs (f : LU)
  | neg (f : LU)
  | not (f : LU)
  | popc (f : LU)
  | clz (f : LU)
  | ctz (f : LU)
  | brev (f : LU)
  | sel (f : LSel)
  | addi (f : LI)
  | muli (f : LI)
  | andi (f : LI)
  | ori (f : LI)
  | xori (f : LI)
  | shli (f : LSh)
  | shri (f : LSh)
  | sari (f : LSh)
  | movi (f : LMov)
  | cmp (f : LC)
  | fcmp (f : FC)
  | pand (f : LQ)
  | por (f : LQ)
  | pxor (f : LQ)
  | pandn (f : LQ)
  | pnot (pg pd pa : BitVec 3)
  | pset (pg pd : BitVec 3)
  | pclr (pg pd : BitVec 3)
  | fadd (f : FR)
  | fsub (f : FR)
  | fmul (f : FR)
  | ffma (f : FR)
  | fmin (f : FR)
  | fmax (f : FR)
  | fdiv (f : FR)
  | fdot (f : HR)
  | fscl (f : FR)
  | sqrt (f : FU)
  | rcp (f : FU)
  | rsq (f : FU)
  | exp2 (f : FU)
  | log2 (f : FU)
  | sin (f : FU)
  | cos (f : FU)
  | tanh (f : FU)
  | fabs (f : FU)
  | fneg (f : FU)
  | fclass (f : FU)
  | fcvt (f : LCvt)
  | fcvtn (f : LN)
  | fcvtw (f : LW)
  | fcvtr (f : HR)
  | fcvti (f : LCvtI)
  | icvtf (f : LCvtI)
  | icvt (f : LICvt)
  | shfl (f : LF)
  | shup (f : LF)
  | shdn (f : LF)
  | shxor (f : LF)
  | xred (f : LX)
  | xscan (f : LXS)
  | bcast (f : LMv)
  | getl (f : LMv)
  | voteAny (f : LVote)
  | voteAll (f : LVote)
  | voteCnt (f : LVoteC)
  | laneix (pg : BitVec 3) (vd : BitVec 6)
  | ld (f : LM)
  | lds (f : LM)
  | st (f : LM)
  | stm (f : LM)
  | atom32 (f : LA)
  | atom64 (f : LA)
  | ord (o : OrdKind) (sc : Scope) (a : Access)
  | ext (imm25 : BitVec 25) (t : ExtTarget)
  | nop
  | gadd (f : UR)
  | gsub (f : UR)
  | gmul (f : UR)
  | gmin (f : UR)
  | gmax (f : UR)
  | gminn (f : UR)
  | gmaxn (f : UR)
  | gand (f : UR)
  | gor (f : UR)
  | gxor (f : UR)
  | gshl (f : UR)
  | gshr (f : UR)
  | gsar (f : UR)
  | gmulh (f : UR)
  | gmulhn (f : UR)
  | gdiv (f : UR)
  | gdivn (f : UR)
  | grem (f : UR)
  | gremn (f : UR)
  | gpopc (f : UU)
  | gclz (f : UU)
  | gctz (f : UU)
  | gnot (f : UU)
  | gneg (f : UU)
  | gaddi (f : UI)
  | gandi (f : UI)
  | gori (f : UI)
  | gxori (f : UI)
  | gshli (f : USh)
  | gshri (f : USh)
  | gmovi (f : UMov)
  | gmovh (f : UMov)
  | gcmp (f : UC)
  | qlogPand (f : UQ)
  | qlogPor (f : UQ)
  | qlogPxor (f : UQ)
  | qlogPandn (f : UQ)
  | qlogPnot (qg qd qa : BitVec 3)
  | qlogPset (qg qd : BitVec 3)
  | qlogPclr (qg qd : BitVec 3)
  | gsel (f : USel)
  | bra (qg : BitVec 3) (inv : Bool) (off : BitVec 18)
  | brd (p j : BitVec 3) (inv : Bool) (off : BitVec 18)
  | jset (j p : BitVec 3) (off : BitVec 18)
  | jsetAdd (j p : BitVec 3) (off : BitVec 18)
  | join (j : BitVec 3)
  | call (qg : BitVec 3) (gd : BitVec 6) (off : BitVec 16)
  | ret (qg : BitVec 3) (ga : BitVec 6)
  | loop (ga : BitVec 6) (len : BitVec 16)
  | lbrk (qg : BitVec 3)
  | brw (w f : BitVec 2) (inv : Bool) (off : BitVec 18)
  | exit (p : BitVec 3) (inv : Bool)
  | pause (qg : BitVec 3)
  | pauseWatch (qg : BitVec 3) (gh go : BitVec 6)
  | brx (qg : BitVec 3) (ga : BitVec 6)
  | fence (qg : BitVec 3) (sc : Scope) (k : FenceKind) (eng : Bool)
  | barArr (f : UBar)
  | barWait (qg : BitVec 3) (b : BitVec 5)
  | barSync (f : UBar)
  | barGang (qg : BitVec 3)
  | cachePub (f : UCache)
  | cacheInvl (f : UCache)
  | cacheDrop (f : UCache)
  | cachePref (f : UCache)
  | btag (qg : BitVec 3) (tag : BitVec 2)
  | bclose (qg : BitVec 3) (gd : BitVec 6) (tag : BitVec 2)
  | getc (qg : BitVec 3) (gd : BitVec 6) (c : CReg)
  | setc (qg : BitVec 3) (ga : BitVec 6) (c : CReg)
  | hnarrow (f : UR) (perm : BitVec 4)
  | palq (f : UU) (fn : PalQ)
  | trap (qg : BitVec 3) (imm : BitVec 16)
  | tret
  | tretReplay
  | dlaunch (f : UR)
  | shape (f : CShape)
  | texpect (f : CTile)
  | tfree (f : CTFree)
  | tstate (f : CTile)
  | cpy (f : CCpy)
  | fill (f : CCpy)
  | cpyv (f : CCpyv)
  | gath (f : CGath)
  | scat (f : CGath)
  | mma (f : CMma)
  | mmaH (f : CMma)
  | mepi (f : CMepi)
  | mepiT2 (f : CMepi)
  | mepiSend (f : CMepi)
  | mepiT2Send (f : CMepi)
  | mzero (f : CMzero)
  | mfence (f : CReg1)
  | mwait (f : CReg1)
  | mget (f : CMget)
  | collAr (f : CColl)
  | collRs (f : CColl)
  | collAg (f : CColl)
  | collBc (f : CColl)
  | easel (f : CEasel)
  | bind (f : CBind)
  | unbind (f : CUnbind)
  | lostReconvergenceRelease (team : Nat)
  | teamEnd (team : Nat)
  | pauseTimeout (arm : ArmId)
  | scFenceWaitEnd (arm : ArmId)
  | walkerElementArrival (team w : Nat) (lanes : LaneMask)
  | loadReply (load part : Nat)
  | stmCopyDelivery (msg : Nat)
  | leaseReply (msg : Nat)
  | wiCopyReply (msg : Nat)
  | ownershipGrant (msg : Nat)
  | validityEnd (core sec : Nat)
  | invalidation (msg : Nat)
  | recall (msg : Nat)
  | publishRequest (msg : Nat)
  | forcedPublish (msg : Nat)
  | homeAcknowledgement (msg : Nat)
  | siRead (msg : Nat)
  | wiRead (msg : Nat)
  | wtRead (msg : Nat)
  | homeWrite (msg : Nat)
  | homeAtomic (msg : Nat)
  | ownRequest (msg : Nat)
  | invalidationAcknowledgement (msg : Nat)
  | sharerDropNotice (msg : Nat)
  | ownerDropNotice (msg : Nat)
  | recallAnswer (msg : Nat)
  | publishWriteBack (msg : Nat)
  | publishAnswer (msg : Nat)
  | evictionWriteBack (msg : Nat)
  | narrowReleaseNotice (msg : Nat)
  | forcedPublishAnswer (msg : Nat)
  | leaseExpires (sec : Nat)
  | directoryEntryReuse (sec : Nat)
  | watchRegistration (chip exp off token : Nat)
  | wake (chip : Nat) (arm : ArmId)
  | streamerRound (cluster : Nat)
  | engineCommandComplete (cmd : Nat)
  | matrixCommandComplete (cmd : Nat)
  | collectiveComplete (cmd : Nat)
  | sgPromotion (cmd : Nat)
  | sectorAccept (cmd off : Nat)
  | sectorRefuse (cmd off : Nat)
  | acceptSignal (group op a b : Nat)
  | groupSector (sec : GroupSec)
  | resultSector (sec : GroupSec)
  | groupError (group chip : Nat)
  | groupStallTimeout (group op a b : Nat)
  | reducingLoadRequest (q : GroupLoad) (exp off n a b : Nat)
  | reducingLoadValue (q : GroupLoad) (ranks : Nat × Nat) (v : LoadVal)
  | treeTableWrite (group : Nat) (words : List Word)
  | flitReceive (port : Nat) (ok : Bool) (dst hops : Nat)
  | replayRequest (port flit : Nat)
  | idleFlit (port : Nat)
  | portDown (port : Nat)
  | linkRekey (port : Nat)
  | remoteRequest (r : RemoteReq)
  | receipt (seq : Nat)
  | remoteAcknowledgement (seq : Nat) (e : RemoteEnd)
  | resendTimeout (seq : Nat)
  | duplicateRecordExpiry (chip seq : Nat)
  | closeRequest (chip team tag count : Nat)
  | summaryReply (team tag chip : Nat) (poison xlate bounds : Bool)
  | endNotice (chip team : Nat)
  | deadPeerDeclaration (chip : Nat)
  | heartbeatTick
  | timeMessage (port : Nat) (offset : Int)
  | timeBoundLoss
  | timeBoundTimeout
  | gtcLoad
  | uetWrite (exp off : Nat) (data : List Byte)
  | uetDelivery (cmd : Nat) (data : List Byte)
  | doorbell (ring : Nat) (tail : BitVec 32)
  | enableClear (ring : Nat)
  | instanceStart (die : Nat)
  | launchNode (inst node : Nat)
  | condNode (inst node : Nat)
  | whileNode (inst node : Nat)
  | copyNode (inst node : Nat)
  | waitNode (inst node : Nat)
  | signalNode (inst node : Nat)
  | launchNodeComplete (inst node : Nat)
  | nodeComplete (inst node : Nat)
  | dlaunchDescriptor (arm : ArmId)
  | dlaunchStatus (arm : ArmId)
  | launchPlacement
  | preemption
  | armStopDeadline (arm : ArmId)
  | launchSuspended (launch : Nat)
  | launchResume (launch : Nat)
  | tableWalk (ctx page : Nat)
  | faultResolve (ctx page : Nat)
  | faultFatal (ctx page : Nat)
  | xinvctlGo (ctl : Word)
  | xinvComplete
  | complete (p : GuestPkt) (code : BitVec 32)
  | fault (p : GuestPkt) (va : Nat) (write internal : Bool)
  | stopped (p : GuestPkt) (buf saved : Nat) (done : Bool)
  | invack (site num : Nat)
  | xlreq (p : GuestPkt) (va : Nat) (write atomic : Bool)
  | rdcurr (p : GuestPkt) (va : Nat)
  | rdshared (p : GuestPkt) (va : Nat)
  | wrcur (p : GuestPkt) (va : Nat) (cells : List (Nat × Byte))
  | faultReportDeadline (p : GuestPkt)
  | invackDeadline (site : Nat)
  | stoppedDeadline (p : GuestPkt)
  | linkSilent (site : Nat)
  | hostWrite (pa : Nat) (data : List Byte)
  | hostRead (pa n : Nat)
  | hostAtomic (pa : Nat) (wide : Bool) (op : AOp) (b c : Word)
  | attest (nonce : List Byte)
  | keyload (ctx : Nat) (group : Bool) (name : Nat) (wrapped : List Byte)
  | abortRecordRead (die : Nat)
  | timectlWrite (v : Word)
  | pwrcapWrite (v : Word)
  | fthreshWrite (v : Word)
  | registerWrite (off : Nat) (v : Word)
  | powerWindow (watts : Nat)
  | coreCurrentTrip
  | temperatureTrip (die : Nat)
  | powerGood
  | stageB (image : List Byte) (sigOk hbmOk : Bool)
  | stageC (badCores badPorts : List Nat) (guest0 guest1 : Option Nat)
  | stageD (ok : Bool)
  | hostReset
  | correctedError (src : ErrSource)
  | uncorrectedError (src : ErrSource) (sectors : List Nat)
  | errorWindowRoll
  | summaryExpiry (sec : Nat)
  | splitPoint (cmd : Nat)
  | portRetrain (port : Nat)
  | deadPeerClear (chip : Nat)
  | guestSiteReset (site : Nat) (guest : Option Nat)
  | unlistedContractKind (site : Nat) (opcode : BitVec 16)
  deriving DecidableEq, Repr

end Sys2Proof
end

