-- ==== Sys2Proof/WellFormed.lean ====
section
/-! DEFINITION. Which terms of `Instr` a decoded word can be (R17 to R32, R248, R249), and for the events of other
agents the ranges of their numbers. Restrictions on register numbers (R13) depend on the team and are checked at
issue. -/

namespace Sys2Proof

/-- Registers that SETC may name (R68). -/
def CReg.writable : CReg → Bool
  | .fpctl | .fpflags | .batch | .trapvec | .srseed | .tstat => true
  | .teamsz | .teamid | .blockid | .gangxy | .corexy | .chipid | .gtc | .hbeat | .trappc | .trapcode | .trapinfo
  | .arminfo => false

/-- R30: sz 3 is reserved in LDS. -/
def LM.wfLds (f : LM) : Bool := f.sz != .w64

/-- R23: orderings that suit the access, and the access's own fields. -/
def Access.wf (o : OrdKind) : Access → Bool
  | .ld _ => o == .acquire
  | .lds f => o == .acquire && f.wfLds
  | .st _ => o == .release
  | .atom32 _ | .atom64 _ => true

/-- R248, R249: the parameter fields a MEPI form leaves zero. -/
def CMepi.wfPlain (f : CMepi) : Bool := f.tt == 0

/-- Number ranges of the events' operands. -/
def ArmId.wf (a : ArmId) : Bool := a.team < 2 ^ 64

def GroupLoad.wf (q : GroupLoad) : Bool := q.chip < 1024 && q.group < 256 && q.rtype < 4 && q.rop < 3

def GuestPkt.wf (p : GuestPkt) : Bool := p.site < 2 && p.queue < 16 && p.seq < 2 ^ 32


/-- The check the decoder's output meets and a malformed term fails. -/
def Instr.wf : Instr → Bool
  | .add _ => true
  | .sub _ => true
  | .mul _ => true
  | .mad _ => true
  | .min _ => true
  | .max _ => true
  | .minn _ => true
  | .maxn _ => true
  | .and _ => true
  | .or _ => true
  | .xor _ => true
  | .andn _ => true
  | .shl _ => true
  | .shr _ => true
  | .sar _ => true
  | .mulh _ => true
  | .mulhn _ => true
  | .div _ => true
  | .divn _ => true
  | .rem _ => true
  | .remn _ => true
  | .adds _ => true
  | .subs _ => true
  | .addsn _ => true
  | .subsn _ => true
  | .bfx _ => true
  | .bfxn _ => true
  | .bfi _ => true
  | .prmb _ => true
  | .abs _ => true
  | .neg _ => true
  | .not _ => true
  | .popc _ => true
  | .clz _ => true
  | .ctz _ => true
  | .brev _ => true
  | .sel _ => true
  | .addi _ => true
  | .muli _ => true
  | .andi _ => true
  | .ori _ => true
  | .xori _ => true
  | .shli _ => true
  | .shri _ => true
  | .sari _ => true
  | .movi _ => true
  | .cmp _ => true
  | .fcmp _ => true
  | .pand _ => true
  | .por _ => true
  | .pxor _ => true
  | .pandn _ => true
  | .pnot _ _ _ => true
  | .pset _ _ => true
  | .pclr _ _ => true
  | .fadd _ => true
  | .fsub _ => true
  | .fmul _ => true
  | .ffma _ => true
  | .fmin _ => true
  | .fmax _ => true
  | .fdiv _ => true
  | .fdot _ => true
  | .fscl _ => true
  | .sqrt _ => true
  | .rcp _ => true
  | .rsq _ => true
  | .exp2 _ => true
  | .log2 _ => true
  | .sin _ => true
  | .cos _ => true
  | .tanh _ => true
  | .fabs _ => true
  | .fneg _ => true
  | .fclass _ => true
  | .fcvt _ => true
  | .fcvtn f => f.nf != .e8m0
  | .fcvtw _ => true
  | .fcvtr _ => true
  | .fcvti _ => true
  | .icvtf _ => true
  | .icvt _ => true
  | .shfl _ => true
  | .shup _ => true
  | .shdn _ => true
  | .shxor _ => true
  | .xred _ => true
  | .xscan _ => true
  | .bcast _ => true
  | .getl _ => true
  | .voteAny _ => true
  | .voteAll _ => true
  | .voteCnt _ => true
  | .laneix _ _ => true
  | .ld _ => true
  | .lds f => f.wfLds
  | .st _ => true
  | .stm _ => true
  | .atom32 _ => true
  | .atom64 _ => true
  | .ord o _ a => a.wf o
  | .ext _ _ => true
  | .nop => true
  | .gadd _ => true
  | .gsub _ => true
  | .gmul _ => true
  | .gmin _ => true
  | .gmax _ => true
  | .gminn _ => true
  | .gmaxn _ => true
  | .gand _ => true
  | .gor _ => true
  | .gxor _ => true
  | .gshl _ => true
  | .gshr _ => true
  | .gsar _ => true
  | .gmulh _ => true
  | .gmulhn _ => true
  | .gdiv _ => true
  | .gdivn _ => true
  | .grem _ => true
  | .gremn _ => true
  | .gpopc _ => true
  | .gclz _ => true
  | .gctz _ => true
  | .gnot _ => true
  | .gneg _ => true
  | .gaddi _ => true
  | .gandi _ => true
  | .gori _ => true
  | .gxori _ => true
  | .gshli _ => true
  | .gshri _ => true
  | .gmovi _ => true
  | .gmovh _ => true
  | .gcmp _ => true
  | .qlogPand _ => true
  | .qlogPor _ => true
  | .qlogPxor _ => true
  | .qlogPandn _ => true
  | .qlogPnot _ _ _ => true
  | .qlogPset _ _ => true
  | .qlogPclr _ _ => true
  | .gsel _ => true
  | .bra qg inv _ => !(inv && qg == 0)
  | .brd p _ _ _ => p != 0
  | .jset _ _ _ => true
  | .jsetAdd _ _ _ => true
  | .join _ => true
  | .call _ _ _ => true
  | .ret _ _ => true
  | .loop _ len => len != 0
  | .lbrk _ => true
  | .brw _ _ _ _ => true
  | .exit _ _ => true
  | .pause _ => true
  | .pauseWatch _ _ _ => true
  | .brx _ _ => true
  | .fence _ sc k _ => k != .sc || sc == .team
  | .barArr _ => true
  | .barWait _ _ => true
  | .barSync _ => true
  | .barGang _ => true
  | .cachePub _ => true
  | .cacheInvl _ => true
  | .cacheDrop _ => true
  | .cachePref _ => true
  | .btag _ _ => true
  | .bclose _ _ _ => true
  | .getc _ _ _ => true
  | .setc _ _ c => c.writable
  | .hnarrow _ perm => !(perm.getLsbD 3) || perm == 8
  | .palq _ _ => true
  | .trap _ _ => true
  | .tret => true
  | .tretReplay => true
  | .dlaunch _ => true
  | .shape _ => true
  | .texpect _ => true
  | .tfree _ => true
  | .tstate _ => true
  | .cpy _ => true
  | .fill _ => true
  | .cpyv f => f.len64.toNat ≤ 16384
  | .gath _ => true
  | .scat _ => true
  | .mma f => f.hn == 0
  | .mmaH f => f.hn != 3
  | .mepi f => f.wfPlain
  | .mepiT2 _ => true
  | .mepiSend f => f.wfPlain
  | .mepiT2Send _ => true
  | .mzero _ => true
  | .mfence _ => true
  | .mwait _ => true
  | .mget _ => true
  | .collAr f => f.root == 0
  | .collRs f => f.root == 0
  | .collAg f => f.root == 0
  | .collBc _ => true
  | .easel f => f.stat.isNone || f.ctile == 0
  | .bind _ => true
  | .unbind _ => true
  | .lostReconvergenceRelease team => team < 2 ^ 64
  | .teamEnd team => team < 2 ^ 64
  | .pauseTimeout arm => arm.wf
  | .scFenceWaitEnd arm => arm.wf
  | .walkerElementArrival team w _ => team < 2 ^ 64 && w < 4
  | .loadReply _ _ => true
  | .stmCopyDelivery _ => true
  | .leaseReply _ => true
  | .wiCopyReply _ => true
  | .ownershipGrant _ => true
  | .validityEnd core _ => core < 192
  | .invalidation _ => true
  | .recall _ => true
  | .publishRequest _ => true
  | .forcedPublish _ => true
  | .homeAcknowledgement _ => true
  | .siRead _ => true
  | .wiRead _ => true
  | .wtRead _ => true
  | .homeWrite _ => true
  | .homeAtomic _ => true
  | .ownRequest _ => true
  | .invalidationAcknowledgement _ => true
  | .sharerDropNotice _ => true
  | .ownerDropNotice _ => true
  | .recallAnswer _ => true
  | .publishWriteBack _ => true
  | .publishAnswer _ => true
  | .evictionWriteBack _ => true
  | .narrowReleaseNotice _ => true
  | .forcedPublishAnswer _ => true
  | .leaseExpires _ => true
  | .directoryEntryReuse _ => true
  | .watchRegistration chip exp _ _ => chip < 1024 && exp < 65536
  | .wake chip arm => chip < 1024 && arm.wf
  | .streamerRound cluster => cluster < 48
  | .engineCommandComplete _ => true
  | .matrixCommandComplete _ => true
  | .collectiveComplete _ => true
  | .sgPromotion _ => true
  | .sectorAccept _ _ => true
  | .sectorRefuse _ _ => true
  | .acceptSignal group _ _ _ => group < 256
  | .groupSector sec => sec.group < 256
  | .resultSector sec => sec.group < 256
  | .groupError group chip => group < 256 && chip < 1024
  | .groupStallTimeout group _ _ _ => group < 256
  | .reducingLoadRequest q exp _ _ a b => q.wf && exp < 65536 && a ≤ b && b < 1024
  | .reducingLoadValue q ranks _ => q.wf && ranks.1 ≤ ranks.2 && ranks.2 < 1024
  | .treeTableWrite group words => group < 256 && words.length == 8
  | .flitReceive port _ dst _ => port < 48 && dst < 1024
  | .replayRequest port _ => port < 48
  | .idleFlit port => port < 48
  | .portDown port => port < 48
  | .linkRekey port => port < 48
  | .remoteRequest r => r.chip < 1024 && r.exp < 65536
  | .receipt _ => true
  | .remoteAcknowledgement _ _ => true
  | .resendTimeout _ => true
  | .duplicateRecordExpiry chip _ => chip < 1024 || (2048 <= chip && chip < 3072)
  | .closeRequest chip _ tag _ => chip < 1024 && tag < 4
  | .summaryReply team tag chip _ _ _ => team < 2 ^ 64 && tag < 4 && chip < 1024
  | .endNotice chip _ => chip < 1024
  | .deadPeerDeclaration chip => chip < 1024
  | .heartbeatTick => true
  | .timeMessage port _ => port < 48
  | .timeBoundLoss => true
  | .timeBoundTimeout => true
  | .gtcLoad => true
  | .uetWrite exp off data => exp < 65536 && off % 64 + data.length ≤ 64
  | .uetDelivery _ _ => true
  | .doorbell ring _ => ring < 64
  | .enableClear ring => ring < 64
  | .instanceStart die => die < 2
  | .launchNode _ _ => true
  | .condNode _ _ => true
  | .whileNode _ _ => true
  | .copyNode _ _ => true
  | .waitNode _ _ => true
  | .signalNode _ _ => true
  | .launchNodeComplete _ _ => true
  | .nodeComplete _ _ => true
  | .dlaunchDescriptor arm => arm.wf
  | .dlaunchStatus arm => arm.wf
  | .launchPlacement => true
  | .preemption => true
  | .armStopDeadline arm => arm.wf
  | .launchSuspended _ => true
  | .launchResume _ => true
  | .tableWalk ctx page => ctx < 65536 && page < 2 ^ 40
  | .faultResolve ctx page => ctx < 65536 && page < 2 ^ 40
  | .faultFatal ctx page => ctx < 65536 && page < 2 ^ 40
  | .xinvctlGo _ => true
  | .xinvComplete => true
  | .complete p _ => p.wf
  | .fault p va _ _ => p.wf && va < 2 ^ 57
  | .stopped p _ _ _ => p.wf
  | .invack site _ => site < 2
  | .xlreq p va _ _ => p.wf && va < 2 ^ 57
  | .rdcurr p va => p.wf && va < 2 ^ 57
  | .rdshared p va => p.wf && va < 2 ^ 57
  | .wrcur p va _ => p.wf && va < 2 ^ 57
  | .faultReportDeadline p => p.wf
  | .invackDeadline site => site < 2
  | .stoppedDeadline p => p.wf
  | .linkSilent site => site < 2
  | .hostWrite pa _ => pa < 2 ^ 57
  | .hostRead pa _ => pa < 2 ^ 57
  | .hostAtomic pa _ _ _ _ => pa < 2 ^ 57
  | .attest nonce => nonce.length == 32
  | .keyload ctx _ _ _ => ctx < 65536
  | .abortRecordRead die => die < 2
  | .timectlWrite _ => true
  | .pwrcapWrite _ => true
  | .fthreshWrite _ => true
  | .registerWrite off _ => off < 16777216 && off % 8 == 0
  | .powerWindow _ => true
  | .coreCurrentTrip => true
  | .temperatureTrip die => die < 2
  | .powerGood => true
  | .stageB _ _ _ => true
  | .stageC _ _ _ _ => true
  | .stageD _ => true
  | .hostReset => true
  | .correctedError _ => true
  | .uncorrectedError _ _ => true
  | .errorWindowRoll => true
  | .summaryExpiry _ => true
  | .splitPoint _ => true
  | .portRetrain port => port < 48
  | .deadPeerClear chip => chip < 1024
  | .guestSiteReset site _ => site < 2
  | .unlistedContractKind site _ => site < 2

/-- The check as a proposition. -/
abbrev Instr.WellFormed (i : Instr) : Prop := i.wf = true

end Sys2Proof
end

