-- ==== Sys2Proof/Decode.lean ====
section
/-! DEFINITION. The decoder (R9, R14 to R33, R248, R249), total on any words, and after it the encoder, both written
from the format tables of 01_instruction_word.md. Words are natural numbers below 2^32; a field at [hi:lo] is
`w / 2^lo % 2^(hi-lo+1)`. -/

namespace Sys2Proof

/-! ## Codes of the selector fields -/

def IW.code : IW → Nat
  | .w64 => 0 | .w32 => 1 | .w16 => 2 | .w8 => 3

def IW.ofCode (n : Nat) : IW :=
  match n % 4 with | 0 => .w64 | 1 => .w32 | 2 => .w16 | _ => .w8

/-- The code of an access width in LM's sz field, which counts upward (R17): 0 = 8, 1 = 16, 2 = 32, 3 = 64 bits. -/
def IW.szCode : IW → Nat
  | .w8 => 0 | .w16 => 1 | .w32 => 2 | .w64 => 3

/-- The access width of LM's sz field (R17). -/
def IW.ofSz (n : Nat) : IW :=
  match n % 4 with | 0 => .w8 | 1 => .w16 | 2 => .w32 | _ => .w64

def FF.code : FF → Nat
  | .f64 => 0 | .f32 => 1 | .f16 => 2 | .bf16 => 3

def FF.ofCode (n : Nat) : FF :=
  match n % 4 with | 0 => .f64 | 1 => .f32 | 2 => .f16 | _ => .bf16

def NF.code : NF → Nat
  | .e4m3 => 0 | .e5m2 => 1 | .e2m3 => 2 | .e3m2 => 3 | .e2m1 => 4 | .sm2 => 5 | .sm4 => 6 | .sm8 => 7 | .e8m0 => 8

def NF.ofCode : Nat → Option NF
  | 0 => some .e4m3 | 1 => some .e5m2 | 2 => some .e2m3 | 3 => some .e3m2 | 4 => some .e2m1
  | 5 => some .sm2 | 6 => some .sm4 | 7 => some .sm8 | 8 => some .e8m0 | _ => none

def Policy.code : Policy → Nat
  | .si => 0 | .wi => 1 | .own => 2 | .wt => 3

def Policy.ofCode (n : Nat) : Policy :=
  match n % 4 with | 0 => .si | 1 => .wi | 2 => .own | _ => .wt

/-- The three-bit rounding override (R30): 0 is none, 7 is reserved. -/
def rmCode : Option Rm → Nat
  | none => 0 | some .rne => 1 | some .rtz => 2 | some .rup => 3 | some .rdn => 4 | some .rna => 5 | some .rsr => 6

def rmOfCode : Nat → Option (Option Rm)
  | 0 => some none | 1 => some (some .rne) | 2 => some (some .rtz) | 3 => some (some .rup) | 4 => some (some .rdn)
  | 5 => some (some .rna) | 6 => some (some .rsr) | _ => none

def CC.code : CC → Nat
  | .eq => 0 | .ne => 1 | .lt => 2 | .ge => 3 | .ltn => 4 | .gen => 5 | .tst => 6

def CC.ofCode : Nat → Option CC
  | 0 => some .eq | 1 => some .ne | 2 => some .lt | 3 => some .ge | 4 => some .ltn | 5 => some .gen | 6 => some .tst
  | _ => none

def FCC.code : FCC → Nat
  | .eq => 0 | .ne => 1 | .lt => 2 | .le => 3 | .gt => 4 | .ge => 5 | .un => 6 | .od => 7

def FCC.ofCode (n : Nat) : FCC :=
  match n % 8 with
  | 0 => .eq | 1 => .ne | 2 => .lt | 3 => .le | 4 => .gt | 5 => .ge | 6 => .un | _ => .od

def Cmb.code : Cmb → Nat
  | .set => 0 | .and => 1 | .or => 2 | .xor => 3

def Cmb.ofCode (n : Nat) : Cmb :=
  match n % 4 with | 0 => .set | 1 => .and | 2 => .or | _ => .xor

def AOp.code : AOp → Nat
  | .add => 0 | .and => 1 | .or => 2 | .xor => 3 | .min => 4 | .max => 5 | .minn => 6 | .maxn => 7 | .xchg => 8
  | .cas => 9 | .fadd => 10 | .fmin => 11 | .fmax => 12 | .incn => 13 | .decn => 14

def AOp.ofCode : Nat → Option AOp
  | 0 => some .add | 1 => some .and | 2 => some .or | 3 => some .xor | 4 => some .min | 5 => some .max
  | 6 => some .minn | 7 => some .maxn | 8 => some .xchg | 9 => some .cas | 10 => some .fadd | 11 => some .fmin
  | 12 => some .fmax | 13 => some .incn | 14 => some .decn | _ => none

def RedOp.code : RedOp → Nat
  | .add => 0 | .min => 1 | .max => 2 | .minn => 3 | .maxn => 4 | .and => 5 | .or => 6 | .xor => 7 | .fadd => 8
  | .fmin => 9 | .fmax => 10

def RedOp.ofCode : Nat → Option RedOp
  | 0 => some .add | 1 => some .min | 2 => some .max | 3 => some .minn | 4 => some .maxn | 5 => some .and
  | 6 => some .or | 7 => some .xor | 8 => some .fadd | 9 => some .fmin | 10 => some .fmax | _ => none

def Scope.code : Scope → Nat
  | .team => 0 | .block => 1 | .gang => 2 | .device => 3 | .pod => 4 | .system => 5

def Scope.ofCode : Nat → Option Scope
  | 0 => some .team | 1 => some .block | 2 => some .gang | 3 => some .device | 4 => some .pod | 5 => some .system
  | _ => none

def OrdKind.code : OrdKind → Nat
  | .acquire => 1 | .release => 2 | .acqRel => 3

def OrdKind.ofCode : Nat → Option OrdKind
  | 1 => some .acquire | 2 => some .release | 3 => some .acqRel | _ => none

def FenceKind.code : FenceKind → Nat
  | .acquire => 0 | .release => 1 | .acqRel => 2 | .sc => 3

def FenceKind.ofCode (n : Nat) : FenceKind :=
  match n % 4 with | 0 => .acquire | 1 => .release | 2 => .acqRel | _ => .sc

def PalQ.code : PalQ → Nat
  | .limit => 0 | .space => 1 | .policies => 2 | .default => 3 | .target => 4 | .perm => 5 | .sealed => 6
  | .format => 7

def PalQ.ofCode : Nat → Option PalQ
  | 0 => some .limit | 1 => some .space | 2 => some .policies | 3 => some .default | 4 => some .target
  | 5 => some .perm | 6 => some .sealed | 7 => some .format | _ => none

def CReg.code : CReg → Nat
  | .fpctl => 0 | .fpflags => 1 | .teamsz => 2 | .teamid => 3 | .blockid => 4 | .gangxy => 5 | .corexy => 6
  | .chipid => 7 | .gtc => 8 | .hbeat => 9 | .batch => 10 | .trapvec => 11 | .trappc => 12 | .trapcode => 13
  | .trapinfo => 14 | .arminfo => 15 | .srseed => 16 | .tstat => 17

def CReg.ofCode : Nat → Option CReg
  | 0 => some .fpctl | 1 => some .fpflags | 2 => some .teamsz | 3 => some .teamid | 4 => some .blockid
  | 5 => some .gangxy | 6 => some .corexy | 7 => some .chipid | 8 => some .gtc | 9 => some .hbeat
  | 10 => some .batch | 11 => some .trapvec | 12 => some .trappc | 13 => some .trapcode | 14 => some .trapinfo
  | 15 => some .arminfo | 16 => some .srseed | 17 => some .tstat | _ => none

def bit1 (b : Bool) : Nat := if b then 1 else 0

/-! ## Field extraction -/

/-- Bits [lo + n - 1 : lo] of a word. -/
def fld (w lo n : Nat) : Nat := w / 2 ^ lo % 2 ^ n

/-- One bit of a word. -/
def fbit (w lo : Nat) : Bool := fld w lo 1 == 1

/-- A three-bit, a six-bit field. -/
def f3 (w lo : Nat) : BitVec 3 := BitVec.ofNat 3 (fld w lo 3)
def f6 (w lo : Nat) : BitVec 6 := BitVec.ofNat 6 (fld w lo 6)

def dLR (w : Nat) : LR := ⟨f3 w 22, f6 w 16, f6 w 10, f6 w 4, IW.ofCode (fld w 2 2), fbit w 1, fbit w 0⟩
def dFR (w : Nat) : FR := ⟨f3 w 22, f6 w 16, f6 w 10, f6 w 4, FF.ofCode (fld w 2 2), fbit w 1, fbit w 0⟩
def dHR (w : Nat) : HR := ⟨f3 w 22, f6 w 16, f6 w 10, f6 w 4, fbit w 2, fbit w 1, fbit w 0⟩
def dLF (w : Nat) : LF := ⟨f3 w 22, f6 w 16, f6 w 10, f6 w 4, IW.ofCode (fld w 2 2)⟩
def dLU (w : Nat) : LU := ⟨f3 w 22, f6 w 16, f6 w 10, IW.ofCode (fld w 2 2), fbit w 1⟩
def dFU (w : Nat) : FU := ⟨f3 w 22, f6 w 16, f6 w 10, FF.ofCode (fld w 2 2), fbit w 1⟩
def dLI (w : Nat) : LI := ⟨f3 w 22, f6 w 16, f6 w 10, BitVec.ofNat 10 (fld w 0 10)⟩
def dLMov (w : Nat) : LMov := ⟨f3 w 22, f6 w 16, BitVec.ofNat 10 (fld w 0 10)⟩
def dLM (w : Nat) : LM :=
  ⟨f3 w 22, f6 w 16, f6 w 10, f6 w 4, Policy.ofCode (fld w 2 2), IW.ofSz (fld w 0 2)⟩
def dUR (w : Nat) : UR := ⟨f3 w 22, f6 w 16, f6 w 10, f6 w 4⟩
def dUU (w : Nat) : UU := ⟨f3 w 22, f6 w 16, f6 w 10⟩
def dUI (w : Nat) : UI := ⟨f3 w 22, f6 w 16, f6 w 10, BitVec.ofNat 10 (fld w 0 10)⟩
def dUMov (w : Nat) : UMov := ⟨f3 w 22, f6 w 16, BitVec.ofNat 10 (fld w 0 10)⟩
def dUCache (w : Nat) : UCache := ⟨f3 w 22, f6 w 14, f6 w 8, f6 w 2⟩
def off18 (w : Nat) : BitVec 18 := BitVec.ofNat 18 (fld w 0 18)

/-- `some x` when the check holds. -/
def guardSome {α : Type} (b : Bool) (x : α) : Option α := if b then some x else none

/-! ## The lane side (R30) -/

def decodeIun (w : Nat) : Option Instr :=
  if fld w 0 1 != 0 then none else
  match fld w 4 6 with
  | 0 => some (.abs (dLU w)) | 1 => some (.neg (dLU w)) | 2 => some (.not (dLU w)) | 3 => some (.popc (dLU w))
  | 4 => some (.clz (dLU w)) | 5 => some (.ctz (dLU w)) | 6 => some (.brev (dLU w)) | _ => none

def decodeShI (w : Nat) : Option LSh :=
  guardSome (fld w 6 4 == 0) ⟨f3 w 22, f6 w 16, f6 w 10, f6 w 0⟩

def decodePlog (w : Nat) : Option Instr :=
  if fld w 4 9 != 0 then none else
  let f : LQ := ⟨f3 w 22, f3 w 19, f3 w 16, f3 w 13⟩
  match fld w 0 4 with
  | 0 => some (.pand f) | 1 => some (.por f) | 2 => some (.pxor f) | 3 => some (.pandn f)
  | 4 => guardSome (f.pb == 0) (.pnot f.pg f.pd f.pa)
  | 5 => guardSome (f.pa == 0 && f.pb == 0) (.pset f.pg f.pd)
  | 6 => guardSome (f.pa == 0 && f.pb == 0) (.pclr f.pg f.pd)
  | _ => none

def decodeFun (w : Nat) : Option Instr :=
  if fld w 0 1 != 0 then none else
  match fld w 4 6 with
  | 0 => some (.sqrt (dFU w)) | 1 => some (.rcp (dFU w)) | 2 => some (.rsq (dFU w)) | 3 => some (.exp2 (dFU w))
  | 4 => some (.log2 (dFU w)) | 5 => some (.sin (dFU w)) | 6 => some (.cos (dFU w)) | 7 => some (.tanh (dFU w))
  | 8 => some (.fabs (dFU w)) | 9 => some (.fneg (dFU w)) | 10 => some (.fclass (dFU w)) | _ => none

def decodeCvtI (w : Nat) : Option LCvtI :=
  if fld w 0 1 != 0 then none else
  (rmOfCode (fld w 7 3)).map fun r =>
    ⟨f3 w 22, f6 w 16, f6 w 10, r, fbit w 6, IW.ofCode (fld w 4 2), FF.ofCode (fld w 2 2), fbit w 1⟩

/-- XMOVE (R58): ty and bit 0 are zero. -/
def decodeXmove (w : Nat) : Option Instr :=
  if fld w 2 2 != 0 || fld w 0 1 != 0 then none else
  let m : LMv := ⟨f3 w 22, f6 w 16, f6 w 10, fbit w 1⟩
  match fld w 4 6 with
  | 0 => some (.bcast m) | 1 => some (.getl m)
  | 2 => guardSome (fld w 19 3 == 0 && fld w 13 3 == 0 && fld w 1 1 == 0) (.voteAny ⟨f3 w 22, f3 w 16, f3 w 10⟩)
  | 3 => guardSome (fld w 19 3 == 0 && fld w 13 3 == 0 && fld w 1 1 == 0) (.voteAll ⟨f3 w 22, f3 w 16, f3 w 10⟩)
  | 4 => guardSome (fld w 13 3 == 0 && fld w 1 1 == 0) (.voteCnt ⟨f3 w 22, f6 w 16, f3 w 10⟩)
  | 5 => guardSome (fld w 10 6 == 0 && fld w 1 1 == 0) (.laneix (f3 w 22) (f6 w 16))
  | _ => none

def decodeLA (w : Nat) : Option LA :=
  (AOp.ofCode (fld w 0 4)).map fun a => ⟨f3 w 22, f6 w 16, f6 w 10, f6 w 4, a⟩

/-- A lane-side word that is no prefix (R30). -/
def decodeLane (w : Nat) : Option Instr :=
  match fld w 25 6 with
  | 0x01 => some (.add (dLR w)) | 0x02 => some (.sub (dLR w)) | 0x03 => some (.mul (dLR w))
  | 0x04 => some (.mad (dLR w)) | 0x05 => some (.min (dLR w)) | 0x06 => some (.max (dLR w))
  | 0x07 => some (.minn (dLR w)) | 0x08 => some (.maxn (dLR w)) | 0x09 => some (.and (dLR w))
  | 0x0A => some (.or (dLR w)) | 0x0B => some (.xor (dLR w)) | 0x0C => some (.andn (dLR w))
  | 0x0D => some (.shl (dLR w)) | 0x0E => some (.shr (dLR w)) | 0x0F => some (.sar (dLR w))
  | 0x10 => match fld w 0 2 with
            | 0 => some (.mulh (dLF w)) | 1 => some (.mulhn (dLF w)) | _ => none
  | 0x11 => match fld w 0 2 with
            | 0 => some (.div (dLF w)) | 1 => some (.divn (dLF w)) | 2 => some (.rem (dLF w))
            | _ => some (.remn (dLF w))
  | 0x12 => match fld w 0 2 with
            | 0 => some (.adds (dLF w)) | 1 => some (.subs (dLF w)) | 2 => some (.addsn (dLF w))
            | _ => some (.subsn (dLF w))
  | 0x13 => match fld w 0 2 with
            | 0 => some (.bfx (dLF w)) | 1 => some (.bfxn (dLF w)) | 2 => some (.bfi (dLF w))
            | _ => some (.prmb (dLF w))
  | 0x14 => decodeIun w
  | 0x15 => some (.sel ⟨f3 w 22, f6 w 16, f6 w 10, f6 w 4, f3 w 1, fbit w 0⟩)
  | 0x16 => some (.addi (dLI w)) | 0x17 => some (.muli (dLI w)) | 0x18 => some (.andi (dLI w))
  | 0x19 => some (.ori (dLI w)) | 0x1A => some (.xori (dLI w))
  | 0x1B => (decodeShI w).map .shli | 0x1C => (decodeShI w).map .shri | 0x1D => (decodeShI w).map .sari
  | 0x1E => guardSome (fld w 10 6 == 0) (.movi (dLMov w))
  | 0x1F => (CC.ofCode (fld w 16 3)).map fun c =>
      .cmp ⟨f3 w 22, f3 w 19, c, f6 w 10, f6 w 4, IW.ofCode (fld w 2 2), Cmb.ofCode (fld w 0 2)⟩
  | 0x20 => some (.fcmp ⟨f3 w 22, f3 w 19, FCC.ofCode (fld w 16 3), f6 w 10, f6 w 4, FF.ofCode (fld w 2 2),
      Cmb.ofCode (fld w 0 2)⟩)
  | 0x21 => decodePlog w
  | 0x22 => some (.fadd (dFR w)) | 0x23 => some (.fsub (dFR w)) | 0x24 => some (.fmul (dFR w))
  | 0x25 => some (.ffma (dFR w)) | 0x26 => some (.fmin (dFR w)) | 0x27 => some (.fmax (dFR w))
  | 0x28 => some (.fdiv (dFR w))
  | 0x29 => guardSome (fbit w 3) (.fdot (dHR w))
  | 0x2A => some (.fscl (dFR w))
  | 0x2B => decodeFun w
  | 0x2C => if fld w 0 1 != 0 || fld w 9 1 != 0 then none else
      (rmOfCode (fld w 6 3)).map fun r =>
        .fcvt ⟨f3 w 22, f6 w 16, f6 w 10, r, FF.ofCode (fld w 4 2), FF.ofCode (fld w 2 2), fbit w 1⟩
  | 0x2D => if fld w 3 1 != 0 then none else
      (NF.ofCode (fld w 0 3)).map fun n => .fcvtn ⟨f3 w 22, f6 w 16, f6 w 10, f6 w 4, n⟩
  | 0x2E => if fld w 0 1 != 0 || fld w 8 2 != 0 then none else
      (NF.ofCode (fld w 4 4)).map fun n => .fcvtw ⟨f3 w 22, f6 w 16, f6 w 10, n, FF.ofCode (fld w 2 2), fbit w 1⟩
  | 0x2F => guardSome (fbit w 3) (.fcvtr (dHR w))
  | 0x30 => (decodeCvtI w).map .fcvti
  | 0x31 => (decodeCvtI w).map .icvtf
  | 0x32 => guardSome (fld w 0 1 == 0 && fld w 8 2 == 0)
      (.icvt ⟨f3 w 22, f6 w 16, f6 w 10, fbit w 7, fbit w 6, IW.ofCode (fld w 4 2), IW.ofCode (fld w 2 2), fbit w 1⟩)
  | 0x33 => match fld w 0 2 with
            | 0 => some (.shfl (dLF w)) | 1 => some (.shup (dLF w)) | 2 => some (.shdn (dLF w))
            | _ => some (.shxor (dLF w))
  | 0x34 => if fld w 0 1 != 0 then none else
      (RedOp.ofCode (fld w 4 6)).map fun o =>
        .xred ⟨f3 w 22, f6 w 16, f6 w 10, o, BitVec.ofNat 2 (fld w 2 2), fbit w 1⟩
  | 0x35 => if fld w 0 1 != 0 then none else
      (RedOp.ofCode (fld w 4 5)).map fun o =>
        .xscan ⟨f3 w 22, f6 w 16, f6 w 10, fbit w 9, o, BitVec.ofNat 2 (fld w 2 2), fbit w 1⟩
  | 0x36 => decodeXmove w
  | 0x37 => some (.ld (dLM w))
  | 0x38 => guardSome (dLM w).wfLds (.lds (dLM w))
  | 0x39 => some (.st (dLM w))
  | 0x3A => some (.stm (dLM w))
  | 0x3B => (decodeLA w).map .atom32
  | 0x3C => (decodeLA w).map .atom64
  | _ => none

/-! ## The uniform side (R31), one-word forms -/

def decodeGmisc (w : Nat) : Option Instr :=
  let z := fld w 4 6 == 0
  match fld w 0 4 with
  | 0 => some (.gmulh (dUR w)) | 1 => some (.gmulhn (dUR w)) | 2 => some (.gdiv (dUR w))
  | 3 => some (.gdivn (dUR w)) | 4 => some (.grem (dUR w)) | 5 => some (.gremn (dUR w))
  | 6 => guardSome z (.gpopc (dUU w)) | 7 => guardSome z (.gclz (dUU w)) | 8 => guardSome z (.gctz (dUU w))
  | 9 => guardSome z (.gnot (dUU w)) | 10 => guardSome z (.gneg (dUU w)) | _ => none

def decodeUShI (w : Nat) : Option USh :=
  guardSome (fld w 6 4 == 0) ⟨f3 w 22, f6 w 16, f6 w 10, f6 w 0⟩

def decodeQlog (w : Nat) : Option Instr :=
  if fld w 4 9 != 0 then none else
  let f : UQ := ⟨f3 w 22, f3 w 19, f3 w 16, f3 w 13⟩
  match fld w 0 4 with
  | 0 => some (.qlogPand f) | 1 => some (.qlogPor f) | 2 => some (.qlogPxor f) | 3 => some (.qlogPandn f)
  | 4 => guardSome (f.qb == 0) (.qlogPnot f.qg f.qd f.qa)
  | 5 => guardSome (f.qa == 0 && f.qb == 0) (.qlogPset f.qg f.qd)
  | 6 => guardSome (f.qa == 0 && f.qb == 0) (.qlogPclr f.qg f.qd)
  | _ => none

/-- The count form of BAR.ARR and BAR.SYNC: c = 0 needs ga = 0 (R20). -/
def decodeBarCnt (w : Nat) : Option (Option (BitVec 6)) :=
  if fbit w 8 then some (some (f6 w 9)) else guardSome (fld w 9 6 == 0) none

def decodeBar (w : Nat) : Option Instr :=
  if fld w 0 8 != 0 then none else
  let b : BitVec 5 := BitVec.ofNat 5 (fld w 15 5)
  match fld w 20 2 with
  | 0 => (decodeBarCnt w).map fun c => .barArr ⟨f3 w 22, b, c⟩
  | 1 => guardSome (fld w 8 7 == 0) (.barWait (f3 w 22) b)
  | 2 => (decodeBarCnt w).map fun c => .barSync ⟨f3 w 22, b, c⟩
  | _ => guardSome (fld w 8 12 == 0) (.barGang (f3 w 22))

/-- A uniform-side word that is neither a prefix nor part of an engine command (R31). -/
def decodeUni (w : Nat) : Option Instr :=
  let ur (c : UR → Instr) : Option Instr := guardSome (fld w 0 4 == 0) (c (dUR w))
  match fld w 25 6 with
  | 0x00 => guardSome (fld w 0 25 == 0) .nop
  | 0x01 => ur .gadd | 0x02 => ur .gsub | 0x03 => ur .gmul | 0x04 => ur .gmin | 0x05 => ur .gmax
  | 0x06 => ur .gminn | 0x07 => ur .gmaxn | 0x08 => ur .gand | 0x09 => ur .gor | 0x0A => ur .gxor
  | 0x0B => ur .gshl | 0x0C => ur .gshr | 0x0D => ur .gsar
  | 0x0E => decodeGmisc w
  | 0x0F => some (.gaddi (dUI w)) | 0x10 => some (.gandi (dUI w)) | 0x11 => some (.gori (dUI w))
  | 0x12 => some (.gxori (dUI w))
  | 0x13 => (decodeUShI w).map .gshli | 0x14 => (decodeUShI w).map .gshri
  | 0x15 => guardSome (fld w 10 6 == 0) (.gmovi (dUMov w))
  | 0x16 => guardSome (fld w 10 6 == 0) (.gmovh (dUMov w))
  | 0x17 => if fld w 2 2 != 0 then none else
      (CC.ofCode (fld w 16 3)).map fun c =>
        .gcmp ⟨f3 w 22, f3 w 19, c, f6 w 10, f6 w 4, Cmb.ofCode (fld w 0 2)⟩
  | 0x18 => decodeQlog w
  | 0x19 => some (.gsel ⟨f3 w 22, f6 w 16, f6 w 10, f6 w 4, f3 w 0, fbit w 3⟩)
  | 0x1A => guardSome (fld w 18 3 == 0 && !(fbit w 21 && fld w 22 3 == 0)) (.bra (f3 w 22) (fbit w 21) (off18 w))
  | 0x1B => guardSome (fld w 22 3 != 0) (.brd (f3 w 22) (f3 w 19) (fbit w 18) (off18 w))
  | 0x1C => some (if fbit w 18 then .jsetAdd (f3 w 22) (f3 w 19) (off18 w) else .jset (f3 w 22) (f3 w 19) (off18 w))
  | 0x1D => guardSome (fld w 0 22 == 0) (.join (f3 w 22))
  | 0x1E => some (.call (f3 w 22) (f6 w 16) (BitVec.ofNat 16 (fld w 0 16)))
  | 0x1F => guardSome (fld w 16 6 == 0 && fld w 0 10 == 0) (.ret (f3 w 22) (f6 w 10))
  | 0x20 => guardSome (fld w 22 3 == 0 && fld w 0 16 != 0) (.loop (f6 w 16) (BitVec.ofNat 16 (fld w 0 16)))
  | 0x21 => guardSome (fld w 0 22 == 0) (.lbrk (f3 w 22))
  | 0x22 => guardSome (fld w 18 2 == 0)
      (.brw (BitVec.ofNat 2 (fld w 23 2)) (BitVec.ofNat 2 (fld w 21 2)) (fbit w 20) (off18 w))
  | 0x23 => guardSome (fld w 0 21 == 0) (.exit (f3 w 22) (fbit w 21))
  | 0x24 => if fld w 0 9 != 0 then none
      else if fbit w 9 then some (.pauseWatch (f3 w 22) (f6 w 16) (f6 w 10))
      else guardSome (fld w 10 12 == 0) (.pause (f3 w 22))
  | 0x25 => guardSome (fld w 16 6 == 0 && fld w 0 10 == 0) (.brx (f3 w 22) (f6 w 10))
  | 0x26 => if fld w 7 15 != 0 || fld w 0 1 != 0 then none else
      (Scope.ofCode (fld w 4 3)).bind fun sc =>
        let k := FenceKind.ofCode (fld w 2 2)
        guardSome (k != .sc || sc == .team) (.fence (f3 w 22) sc k (fbit w 1))
  | 0x27 => decodeBar w
  | 0x28 => if fld w 0 2 != 0 then none else
      match fld w 20 2 with
      | 0 => some (.cachePub (dUCache w)) | 1 => some (.cacheInvl (dUCache w))
      | 2 => some (.cacheDrop (dUCache w)) | _ => some (.cachePref (dUCache w))
  | 0x29 => guardSome (fld w 0 20 == 0) (.btag (f3 w 22) (BitVec.ofNat 2 (fld w 20 2)))
  | 0x2A => guardSome (fld w 0 14 == 0) (.bclose (f3 w 22) (f6 w 16) (BitVec.ofNat 2 (fld w 14 2)))
  | 0x2B => if fld w 0 6 != 0 then none else (CReg.ofCode (fld w 6 10)).map (.getc (f3 w 22) (f6 w 16))
  | 0x2C => if fld w 0 6 != 0 then none else
      (CReg.ofCode (fld w 6 10)).bind fun c => guardSome c.writable (.setc (f3 w 22) (f6 w 16) c)
  | 0x2D => guardSome (!(fbit w 3) || fld w 0 3 == 0) (.hnarrow (dUR w) (BitVec.ofNat 4 (fld w 0 4)))
  | 0x2E => if fld w 4 6 != 0 then none else (PalQ.ofCode (fld w 0 4)).map (.palq (dUU w))
  | 0x2F => guardSome (fld w 16 6 == 0) (.trap (f3 w 22) (BitVec.ofNat 16 (fld w 0 16)))
  | 0x30 => guardSome (fld w 0 24 == 0) (if fbit w 24 then .tretReplay else .tret)
  | 0x31 => guardSome (fld w 0 4 == 0) (.dlaunch (dUR w))
  | _ => none

/-! ## Engine commands (R248, R249) -/

/-- STAT and STATEN of a parameter word: STATEN 0 needs STAT 0. -/
def decodeStat (pw : Nat) : Option Stat :=
  if fbit pw 25 then some (some (f6 pw 26)) else guardSome (fld pw 26 6 == 0) none

/-- A tile name in a six-bit operand field: [5:4] zero. -/
def tileAt (w lo : Nat) : Option (BitVec 4) := guardSome (fld w (lo + 4) 2 == 0) (BitVec.ofNat 4 (fld w lo 4))

/-- A set or walker in a six-bit operand field: [5:2] zero. -/
def setAt (w lo : Nat) : Option (BitVec 2) := guardSome (fld w (lo + 2) 4 == 0) (BitVec.ofNat 2 (fld w lo 2))

def decodeCpy (w pw : Nat) : Option CCpy :=
  if fld pw 24 1 != 0 then none else
  match fld w 0 2 with
  | 0 => if fld w 14 6 != 0 then none else
      (decodeStat pw).map fun s =>
        ⟨f3 w 22, BitVec.ofNat 2 (fld w 20 2), f6 w 8, f6 w 2, s, BitVec.ofNat 24 (fld pw 0 24)⟩
  | _ => if fld w 8 6 != 0 then none else
      (decodeStat pw).map fun s =>
        ⟨f3 w 22, BitVec.ofNat 2 (fld w 20 2), f6 w 14, f6 w 2, s, BitVec.ofNat 24 (fld pw 0 24)⟩

def decodeGath (w pw : Nat) : Option CGath :=
  if fld pw 20 5 != 0 then none else
  (decodeStat pw).map fun s =>
    ⟨f3 w 22, BitVec.ofNat 2 (fld w 20 2), f6 w 14, f6 w 8, f6 w 2, s, fbit pw 19, BitVec.ofNat 3 (fld pw 16 3),
      BitVec.ofNat 16 (fld pw 0 16)⟩

def decodeMma (w pw : Nat) : Option CMma :=
  if fld pw 6 26 != 0 then none else
  (setAt w 14).bind fun a => (tileAt w 8).bind fun ta => (tileAt w 2).map fun tb =>
    ⟨f3 w 22, BitVec.ofNat 2 (fld w 20 2), a, ta, tb, BitVec.ofNat 2 (fld pw 4 2), BitVec.ofNat 4 (fld pw 0 4)⟩

def decodeMepi (w pw : Nat) : Option CMepi :=
  if fld pw 12 20 != 0 || fld pw 5 3 != 0 || fld w 20 2 != 0 then none else
  (setAt w 14).bind fun a => (tileAt w 8).map fun t =>
    ⟨f3 w 22, a, t, f6 w 2, BitVec.ofNat 4 (fld pw 8 4), fbit pw 4, BitVec.ofNat 2 (fld pw 2 2), fbit pw 1,
      fbit pw 0⟩

def decodeColl (w pw : Nat) : Option CColl :=
  if fld pw 10 15 != 0 || fld w 2 6 != 0 then none else
  (tileAt w 14).bind fun t => (decodeStat pw).map fun s =>
    ⟨f3 w 22, BitVec.ofNat 2 (fld w 20 2), t, f6 w 8, s, BitVec.ofNat 10 (fld pw 0 10)⟩

/-- A command word and its parameter word (R27, R29). -/
def decodeCmd (w pw : Nat) : Option Instr :=
  let k := fld w 0 2
  let sg0 := fld w 20 2 == 0
  match fld w 25 6 with
  | 0x33 => if k != 0 || !sg0 then none else
      (tileAt w 14).map fun t =>
        .shape ⟨f3 w 22, t, f6 w 8, f6 w 2, BitVec.ofNat 11 (fld pw 21 11), BitVec.ofNat 13 (fld pw 8 13),
          BitVec.ofNat 8 (fld pw 0 8)⟩
  | 0x34 => if pw != 0 || !sg0 || fld w 2 6 != 0 then none else
      (tileAt w 14).bind fun t =>
        match k with
        | 0 => some (.texpect ⟨f3 w 22, t, f6 w 8⟩)
        | 1 => guardSome (fld w 8 6 == 0) (.tfree ⟨f3 w 22, t⟩)
        | 2 => some (.tstate ⟨f3 w 22, t, f6 w 8⟩)
        | _ => none
  | 0x35 => match k with
      | 0 => (decodeCpy w pw).map .cpy
      | 1 => (decodeCpy w pw).map .fill
      | _ => none
  | 0x36 => if k != 0 || !sg0 || fld pw 24 1 != 0 || fld pw 0 24 > 16384 then none else
      (decodeStat pw).map fun s => .cpyv ⟨f3 w 22, f6 w 14, f6 w 8, f6 w 2, s, BitVec.ofNat 24 (fld pw 0 24)⟩
  | 0x37 => match k with
      | 0 => (decodeGath w pw).map .gath
      | 1 => (decodeGath w pw).map .scat
      | _ => none
  | 0x38 => (decodeMma w pw).bind fun f =>
      match k with
      | 0 => guardSome (f.hn == 0) (.mma f)
      | 1 => guardSome (f.hn != 3) (.mmaH f)
      | _ => none
  | 0x39 => (decodeMepi w pw).bind fun f =>
      match k with
      | 0 => guardSome f.wfPlain (.mepi f)
      | 1 => some (.mepiT2 f)
      | 2 => guardSome f.wfPlain (.mepiSend f)
      | _ => some (.mepiT2Send f)
  | 0x3A => if !sg0 then none else
      match k with
      | 0 => if fld pw 2 30 != 0 || fld w 2 6 != 0 then none else
          (setAt w 14).bind fun a =>
            if fbit pw 1 then some (.mzero ⟨f3 w 22, a, some (f6 w 8), fbit pw 0⟩)
            else guardSome (fld w 8 6 == 0) (.mzero ⟨f3 w 22, a, none, fbit pw 0⟩)
      | 1 => guardSome (pw == 0 && fld w 2 12 == 0) (.mfence ⟨f3 w 22, f6 w 14⟩)
      | 2 => guardSome (pw == 0 && fld w 2 6 == 0 && fld w 14 6 == 0) (.mwait ⟨f3 w 22, f6 w 8⟩)
      | _ => if pw != 0 then none else (setAt w 8).map fun a => .mget ⟨f3 w 22, f6 w 14, a, f6 w 2⟩
  | 0x3B => (decodeColl w pw).bind fun f =>
      match k with
      | 0 => guardSome (f.root == 0) (.collAr f)
      | 1 => guardSome (f.root == 0) (.collRs f)
      | 2 => guardSome (f.root == 0) (.collAg f)
      | _ => some (.collBc f)
  | 0x3C => if k != 0 || fld w 14 6 != 0 || fld w 2 6 != 0 || fld pw 9 16 != 0 then none else
      (decodeStat pw).bind fun s =>
        guardSome (s.isNone || fld pw 5 4 == 0)
          (.easel ⟨f3 w 22, BitVec.ofNat 2 (fld w 20 2), f6 w 8, s, BitVec.ofNat 4 (fld pw 5 4),
            BitVec.ofNat 4 (fld pw 1 4), fbit pw 0⟩)
  | 0x3D => if !sg0 then none else
      (setAt w 14).bind fun n =>
        match k with
        | 0 => guardSome (fld pw 3 29 == 0)
            (.bind ⟨f3 w 22, n, f6 w 8, f6 w 2, fbit pw 2, BitVec.ofNat 2 (fld pw 0 2)⟩)
        | 1 => guardSome (pw == 0 && fld w 2 12 == 0) (.unbind ⟨f3 w 22, n⟩)
        | _ => none
  | _ => none

/-! ## Units (R26, R27, R33) -/

/-- Side and major of a word. -/
def sideOf (w : Nat) : Bool := fld w 31 1 == 1
def majorOf (w : Nat) : Nat := fld w 25 6

/-- The word is a prefix: ORD or EXT (R23, R24). -/
def isPrefix (w : Nat) : Bool := majorOf w == 0x3E || (!sideOf w && majorOf w == 0x3D)

/-- The word is the first of an engine command (R27). -/
def isCmd (w : Nat) : Bool := sideOf w && 0x33 ≤ majorOf w && majorOf w ≤ 0x3D

/-- Bytes of the unit that starts with this word. -/
def unitLen (w : Nat) : Nat := if isPrefix w || isCmd w then 8 else 4

/-- Why a unit does not decode, with TRAPINFO (R33). `more` says that the second word of the unit is needed. -/
inductive DecodeErr
  | illop (info : Word)
  | prefixBad (info : Word)
  | more
  deriving DecidableEq, Repr

/-- Both words of a pair, the first in [63:32]. -/
def pairInfo (w0 w1 : Nat) : Word := BitVec.ofNat 64 (w0 % 2 ^ 32 * 2 ^ 32 + w1 % 2 ^ 32)

def oneInfo (w : Nat) : Word := BitVec.ofNat 64 (w % 2 ^ 32)

/-- ORD is eligible before LD, LDS, ST, ATOM32 and ATOM64 (R23). -/
def ordEligible (w : Nat) : Bool :=
  !sideOf w && (majorOf w == 0x37 || majorOf w == 0x38 || majorOf w == 0x39 || majorOf w == 0x3B || majorOf w == 0x3C)

/-- EXT is eligible before these majors (R24). -/
def extEligible (w0 w1 : Nat) : Bool :=
  if sideOf w0 then sideOf w1 && ((0x0F ≤ majorOf w1 && majorOf w1 ≤ 0x12) || majorOf w1 == 0x15 || majorOf w1 == 0x16)
  else !sideOf w1 && ((0x16 ≤ majorOf w1 && majorOf w1 ≤ 0x1A) || majorOf w1 == 0x1E)

/-- R23: an ordering that does not suit the access of that major. -/
def ordUnsuited (o : OrdKind) (w1 : Nat) : Bool :=
  match majorOf w1 with
  | 0x37 | 0x38 => o != .acquire
  | 0x39 => o != .release
  | _ => false

def toAccess : Instr → Option Access
  | .ld f => some (.ld f) | .lds f => some (.lds f) | .st f => some (.st f)
  | .atom32 f => some (.atom32 f) | .atom64 f => some (.atom64 f)
  | _ => none

def toExtTarget : Instr → Option ExtTarget
  | .addi f => some (.addi f) | .muli f => some (.muli f) | .andi f => some (.andi f) | .ori f => some (.ori f)
  | .xori f => some (.xori f) | .movi f => some (.movi f)
  | .gaddi f => some (.gaddi f) | .gandi f => some (.gandi f) | .gori f => some (.gori f) | .gxori f => some (.gxori f)
  | .gmovi f => some (.gmovi f) | .gmovh f => some (.gmovh f)
  | _ => none

/-- The fields of an ORD prefix: kind, scope, [19:0] zero (R23). -/
def ordFields (w : Nat) : Option (OrdKind × Scope) :=
  if fld w 0 20 != 0 then none else
  (OrdKind.ofCode (fld w 23 2)).bind fun o => (Scope.ofCode (fld w 20 3)).map fun s => (o, s)

def decodeOrd (w0 : Nat) (w1 : Option Nat) : Except DecodeErr Instr :=
  match ordFields w0 with
  | none => .error (.illop (oneInfo w0))
  | some (o, s) =>
    match w1 with
    | none => .error .more
    | some x =>
      if !ordEligible x then .error (.prefixBad (pairInfo w0 x))
      else if ordUnsuited o x then .error (.illop (pairInfo w0 x))
      else
        match (decodeLane x).bind toAccess with
        | some a => .ok (.ord o s a)
        | none => .error (.illop (oneInfo x))

def decodeExt (w0 : Nat) (w1 : Option Nat) : Except DecodeErr Instr :=
  match w1 with
  | none => .error .more
  | some x =>
    if !extEligible w0 x then .error (.prefixBad (pairInfo w0 x))
    else
      match (if sideOf x then decodeUni x else decodeLane x).bind toExtTarget with
      | some t => .ok (.ext (BitVec.ofNat 25 (fld w0 0 25)) t)
      | none => .error (.illop (oneInfo x))

/-- The unit that starts with word `w0`, its second word being `w1` where the segment holds one. Checks in the order
of R33; register checks (step 5) come at issue. -/
def decode (w0 : Nat) (w1 : Option Nat) : Except DecodeErr Instr :=
  if majorOf w0 == 0x3E then decodeExt w0 w1
  else if !sideOf w0 then
    if majorOf w0 == 0x3D then decodeOrd w0 w1
    else match decodeLane w0 with
      | some i => .ok i
      | none => .error (.illop (oneInfo w0))
  else if isCmd w0 then
    match w1 with
    | none => .error .more
    | some x =>
      match decodeCmd w0 x with
      | some i => .ok i
      | none => .error (.illop (pairInfo w0 x))
  else match decodeUni w0 with
    | some i => .ok i
    | none => .error (.illop (oneInfo w0))

/-! ## Bytes and words (R5, R9) -/

/-- A natural number from bytes, least significant first. -/
def bytesToNat : List Byte → Nat
  | [] => 0
  | b :: bs => b.toNat + 256 * bytesToNat bs

/-- The `n` low bytes of a natural number, least significant first. -/
def natToBytes : Nat → Nat → List Byte
  | 0, _ => []
  | n + 1, x => BitVec.ofNat 8 x :: natToBytes n (x / 256)

/-- The decoder on bytes as they lie in memory: at least one whole word is needed. -/
def decodeBytes (bs : List Byte) : Except DecodeErr Instr :=
  if bs.length < 4 then .error .more
  else decode (bytesToNat (bs.take 4)) (if 8 ≤ bs.length then some (bytesToNat ((bs.drop 4).take 4)) else none)

/-- What the decoder reads from an instruction whose bits are `w`, the first word in bits 31..0; bits above `nbits`
are zero. -/
def decodeTableWord (nbits w : Nat) : Option Instr :=
  match decodeBytes (natToBytes 8 (w % 2 ^ nbits)) with
  | .ok i => some i
  | .error _ => none

/-! ## The encoder, from the same tables -/

/-- A word: side, major and the bits below. -/
def mkWord (side : Bool) (op rest : Nat) : Nat := (if side then 2147483648 else 0) + op * 33554432 + rest

def eLR (f : LR) : Nat :=
  f.pg.toNat * 4194304 + f.vd.toNat * 65536 + f.va.toNat * 1024 + f.vb.toNat * 16 + f.ty.code * 4 + bit1 f.ta * 2 + bit1 f.tb
def eFR (f : FR) : Nat :=
  f.pg.toNat * 4194304 + f.vd.toNat * 65536 + f.va.toNat * 1024 + f.vb.toNat * 16 + f.ty.code * 4 + bit1 f.ta * 2 + bit1 f.tb
def eHR (f : HR) : Nat :=
  f.pg.toNat * 4194304 + f.vd.toNat * 65536 + f.va.toNat * 1024 + f.vb.toNat * 16 + 8 + bit1 f.bf * 4 + bit1 f.ta * 2 + bit1 f.tb
def eLF (f : LF) (fn : Nat) : Nat :=
  f.pg.toNat * 4194304 + f.vd.toNat * 65536 + f.va.toNat * 1024 + f.vb.toNat * 16 + f.ty.code * 4 + fn
def eLU (f : LU) (fn : Nat) : Nat :=
  f.pg.toNat * 4194304 + f.vd.toNat * 65536 + f.va.toNat * 1024 + fn * 16 + f.ty.code * 4 + bit1 f.ta * 2
def eFU (f : FU) (fn : Nat) : Nat :=
  f.pg.toNat * 4194304 + f.vd.toNat * 65536 + f.va.toNat * 1024 + fn * 16 + f.ty.code * 4 + bit1 f.ta * 2
def eLI (f : LI) : Nat := f.pg.toNat * 4194304 + f.vd.toNat * 65536 + f.va.toNat * 1024 + f.imm.toNat
def eLSh (f : LSh) : Nat := f.pg.toNat * 4194304 + f.vd.toNat * 65536 + f.va.toNat * 1024 + f.c.toNat
def eLMov (f : LMov) : Nat := f.pg.toNat * 4194304 + f.vd.toNat * 65536 + f.imm.toNat
def eLSel (f : LSel) : Nat :=
  f.pg.toNat * 4194304 + f.vd.toNat * 65536 + f.va.toNat * 1024 + f.vb.toNat * 16 + f.ps.toNat * 2 + bit1 f.inv
def eLC (f : LC) : Nat :=
  f.pg.toNat * 4194304 + f.pd.toNat * 524288 + f.cc.code * 65536 + f.va.toNat * 1024 + f.vb.toNat * 16 + f.ty.code * 4 + f.cmb.code
def eFC (f : FC) : Nat :=
  f.pg.toNat * 4194304 + f.pd.toNat * 524288 + f.cc.code * 65536 + f.va.toNat * 1024 + f.vb.toNat * 16 + f.ty.code * 4 + f.cmb.code
def eLQ (pg pd pa pb : BitVec 3) (fn : Nat) : Nat :=
  pg.toNat * 4194304 + pd.toNat * 524288 + pa.toNat * 65536 + pb.toNat * 8192 + fn
def eLCvt (f : LCvt) : Nat :=
  f.pg.toNat * 4194304 + f.vd.toNat * 65536 + f.va.toNat * 1024 + rmCode f.rm * 64 + f.src.code * 16 + f.dst.code * 4 + bit1 f.ta * 2
def eLCvtI (f : LCvtI) : Nat :=
  f.pg.toNat * 4194304 + f.vd.toNat * 65536 + f.va.toNat * 1024 + rmCode f.rm * 128 + bit1 f.uns * 64 + f.iw.code * 16 + f.ff.code * 4 + bit1 f.ta * 2
def eLICvt (f : LICvt) : Nat :=
  f.pg.toNat * 4194304 + f.vd.toNat * 65536 + f.va.toNat * 1024 + bit1 f.sat * 128 + bit1 f.sgn * 64 + f.src.code * 16 + f.dst.code * 4 + bit1 f.ta * 2
def eLN (f : LN) : Nat := f.pg.toNat * 4194304 + f.vd.toNat * 65536 + f.va.toNat * 1024 + f.vb.toNat * 16 + f.nf.code
def eLW (f : LW) : Nat :=
  f.pg.toNat * 4194304 + f.vd.toNat * 65536 + f.va.toNat * 1024 + f.nf.code * 16 + f.ty.code * 4 + bit1 f.ta * 2
def eLX (f : LX) : Nat :=
  f.pg.toNat * 4194304 + f.vd.toNat * 65536 + f.va.toNat * 1024 + f.op.code * 16 + f.ty.toNat * 4 + bit1 f.ta * 2
def eLXS (f : LXS) : Nat :=
  f.pg.toNat * 4194304 + f.vd.toNat * 65536 + f.va.toNat * 1024 + bit1 f.ex * 512 + f.op.code * 16 + f.ty.toNat * 4 + bit1 f.ta * 2
def eLMv (f : LMv) (fn : Nat) : Nat :=
  f.pg.toNat * 4194304 + f.rd.toNat * 65536 + f.ra.toNat * 1024 + fn * 16 + bit1 f.ta * 2
def eLM (f : LM) : Nat :=
  f.pg.toNat * 4194304 + f.vd.toNat * 65536 + f.vo.toNat * 1024 + f.gh.toNat * 16 + f.pol.code * 4 + f.sz.szCode
def eLA (f : LA) : Nat := f.pg.toNat * 4194304 + f.vd.toNat * 65536 + f.vo.toNat * 1024 + f.gh.toNat * 16 + f.aop.code
def eUR (f : UR) (fn : Nat) : Nat :=
  f.qg.toNat * 4194304 + f.gd.toNat * 65536 + f.ga.toNat * 1024 + f.gb.toNat * 16 + fn
def eUU (f : UU) (fn : Nat) : Nat := f.qg.toNat * 4194304 + f.gd.toNat * 65536 + f.ga.toNat * 1024 + fn
def eUI (f : UI) : Nat := f.qg.toNat * 4194304 + f.gd.toNat * 65536 + f.ga.toNat * 1024 + f.imm.toNat
def eUSh (f : USh) : Nat := f.qg.toNat * 4194304 + f.gd.toNat * 65536 + f.ga.toNat * 1024 + f.c.toNat
def eUMov (f : UMov) : Nat := f.qg.toNat * 4194304 + f.gd.toNat * 65536 + f.imm.toNat
def eUC (f : UC) : Nat :=
  f.qg.toNat * 4194304 + f.qd.toNat * 524288 + f.cc.code * 65536 + f.ga.toNat * 1024 + f.gb.toNat * 16 + f.cmb.code
def eUSel (f : USel) : Nat :=
  f.qg.toNat * 4194304 + f.gd.toNat * 65536 + f.ga.toNat * 1024 + f.gb.toNat * 16 + bit1 f.inv * 8 + f.qs.toNat
def eBarCnt : Option (BitVec 6) → Nat
  | none => 0
  | some g => 256 + g.toNat * 512
def eUBar (f : UBar) (fn : Nat) : Nat := f.qg.toNat * 4194304 + fn * 1048576 + f.b.toNat * 32768 + eBarCnt f.cnt
def eUCache (f : UCache) (fn : Nat) : Nat :=
  f.qg.toNat * 4194304 + fn * 1048576 + f.gh.toNat * 16384 + f.go.toNat * 256 + f.gl.toNat * 4
/-- Guard, sg, a, b, c and k of a command word. -/
def eUK (qg sg a b c k : Nat) : Nat := qg * 4194304 + sg * 1048576 + a * 16384 + b * 256 + c * 4 + k
def eStat : Stat → Nat
  | none => 0
  | some g => g.toNat * 67108864 + 33554432
def eCCpy (f : CCpy) : Nat := eStat f.stat + f.len64.toNat
def eGathPw (f : CGath) : Nat := eStat f.stat + bit1 f.iw64 * 524288 + f.lesz.toNat * 65536 + f.nM1.toNat
def eMmaW (f : CMma) (k : Nat) : Nat := eUK f.qg.toNat f.sg.toNat f.a.toNat f.ta.toNat f.tb.toNat k
def eMmaPw (f : CMma) : Nat := f.hn.toNat * 16 + f.depth.toNat
def eMepiW (f : CMepi) (k : Nat) : Nat := eUK f.qg.toNat 0 f.a.toNat f.t.toNat f.gs.toNat k
def eMepiPw (f : CMepi) : Nat :=
  f.tt.toNat * 256 + bit1 f.clr * 16 + f.hn.toNat * 4 + bit1 f.unsc * 2 + bit1 f.rsr
def eCollW (f : CColl) (k : Nat) : Nat := eUK f.qg.toNat f.sg.toNat f.t.toNat f.gg.toNat 0 k
def eCollPw (f : CColl) : Nat := eStat f.stat + f.root.toNat

/-- The word of an access under a prefix, and of an extended instruction. -/
def Access.encode : Access → Nat
  | .ld f => mkWord false 0x37 (eLM f) | .lds f => mkWord false 0x38 (eLM f) | .st f => mkWord false 0x39 (eLM f)
  | .atom32 f => mkWord false 0x3B (eLA f) | .atom64 f => mkWord false 0x3C (eLA f)

def ExtTarget.encode : ExtTarget → Nat
  | .addi f => mkWord false 0x16 (eLI f) | .muli f => mkWord false 0x17 (eLI f) | .andi f => mkWord false 0x18 (eLI f)
  | .ori f => mkWord false 0x19 (eLI f) | .xori f => mkWord false 0x1A (eLI f) | .movi f => mkWord false 0x1E (eLMov f)
  | .gaddi f => mkWord true 0x0F (eUI f) | .gandi f => mkWord true 0x10 (eUI f) | .gori f => mkWord true 0x11 (eUI f)
  | .gxori f => mkWord true 0x12 (eUI f) | .gmovi f => mkWord true 0x15 (eUMov f) | .gmovh f => mkWord true 0x16 (eUMov f)

/-- The target's side, which is its EXT prefix's side (R24). -/
def ExtTarget.uniform : ExtTarget → Bool
  | .addi _ | .muli _ | .andi _ | .ori _ | .xori _ | .movi _ => false
  | .gaddi _ | .gandi _ | .gori _ | .gxori _ | .gmovi _ | .gmovh _ => true

/-- The words of an instruction; the other agents' events have none. -/
def encode : Instr → List Nat
  | .add f => [mkWord false 0x1 (eLR f)]
  | .sub f => [mkWord false 0x2 (eLR f)]
  | .mul f => [mkWord false 0x3 (eLR f)]
  | .mad f => [mkWord false 0x4 (eLR f)]
  | .min f => [mkWord false 0x5 (eLR f)]
  | .max f => [mkWord false 0x6 (eLR f)]
  | .minn f => [mkWord false 0x7 (eLR f)]
  | .maxn f => [mkWord false 0x8 (eLR f)]
  | .and f => [mkWord false 0x9 (eLR f)]
  | .or f => [mkWord false 0xa (eLR f)]
  | .xor f => [mkWord false 0xb (eLR f)]
  | .andn f => [mkWord false 0xc (eLR f)]
  | .shl f => [mkWord false 0xd (eLR f)]
  | .shr f => [mkWord false 0xe (eLR f)]
  | .sar f => [mkWord false 0xf (eLR f)]
  | .mulh f => [mkWord false 0x10 (eLF f 0)]
  | .mulhn f => [mkWord false 0x10 (eLF f 1)]
  | .div f => [mkWord false 0x11 (eLF f 0)]
  | .divn f => [mkWord false 0x11 (eLF f 1)]
  | .rem f => [mkWord false 0x11 (eLF f 2)]
  | .remn f => [mkWord false 0x11 (eLF f 3)]
  | .adds f => [mkWord false 0x12 (eLF f 0)]
  | .subs f => [mkWord false 0x12 (eLF f 1)]
  | .addsn f => [mkWord false 0x12 (eLF f 2)]
  | .subsn f => [mkWord false 0x12 (eLF f 3)]
  | .bfx f => [mkWord false 0x13 (eLF f 0)]
  | .bfxn f => [mkWord false 0x13 (eLF f 1)]
  | .bfi f => [mkWord false 0x13 (eLF f 2)]
  | .prmb f => [mkWord false 0x13 (eLF f 3)]
  | .abs f => [mkWord false 0x14 (eLU f 0)]
  | .neg f => [mkWord false 0x14 (eLU f 1)]
  | .not f => [mkWord false 0x14 (eLU f 2)]
  | .popc f => [mkWord false 0x14 (eLU f 3)]
  | .clz f => [mkWord false 0x14 (eLU f 4)]
  | .ctz f => [mkWord false 0x14 (eLU f 5)]
  | .brev f => [mkWord false 0x14 (eLU f 6)]
  | .sel f => [mkWord false 0x15 (eLSel f)]
  | .addi f => [mkWord false 0x16 (eLI f)]
  | .muli f => [mkWord false 0x17 (eLI f)]
  | .andi f => [mkWord false 0x18 (eLI f)]
  | .ori f => [mkWord false 0x19 (eLI f)]
  | .xori f => [mkWord false 0x1a (eLI f)]
  | .shli f => [mkWord false 0x1b (eLSh f)]
  | .shri f => [mkWord false 0x1c (eLSh f)]
  | .sari f => [mkWord false 0x1d (eLSh f)]
  | .movi f => [mkWord false 0x1E (eLMov f)]
  | .cmp f => [mkWord false 0x1F (eLC f)]
  | .fcmp f => [mkWord false 0x20 (eFC f)]
  | .pand f => [mkWord false 0x21 (eLQ f.pg f.pd f.pa f.pb 0)]
  | .por f => [mkWord false 0x21 (eLQ f.pg f.pd f.pa f.pb 1)]
  | .pxor f => [mkWord false 0x21 (eLQ f.pg f.pd f.pa f.pb 2)]
  | .pandn f => [mkWord false 0x21 (eLQ f.pg f.pd f.pa f.pb 3)]
  | .pnot pg pd pa => [mkWord false 0x21 (eLQ pg pd pa 0 4)]
  | .pset pg pd => [mkWord false 0x21 (eLQ pg pd 0 0 5)]
  | .pclr pg pd => [mkWord false 0x21 (eLQ pg pd 0 0 6)]
  | .fadd f => [mkWord false 0x22 (eFR f)]
  | .fsub f => [mkWord false 0x23 (eFR f)]
  | .fmul f => [mkWord false 0x24 (eFR f)]
  | .ffma f => [mkWord false 0x25 (eFR f)]
  | .fmin f => [mkWord false 0x26 (eFR f)]
  | .fmax f => [mkWord false 0x27 (eFR f)]
  | .fdiv f => [mkWord false 0x28 (eFR f)]
  | .fdot f => [mkWord false 0x29 (eHR f)]
  | .fscl f => [mkWord false 0x2A (eFR f)]
  | .sqrt f => [mkWord false 0x2B (eFU f 0)]
  | .rcp f => [mkWord false 0x2B (eFU f 1)]
  | .rsq f => [mkWord false 0x2B (eFU f 2)]
  | .exp2 f => [mkWord false 0x2B (eFU f 3)]
  | .log2 f => [mkWord false 0x2B (eFU f 4)]
  | .sin f => [mkWord false 0x2B (eFU f 5)]
  | .cos f => [mkWord false 0x2B (eFU f 6)]
  | .tanh f => [mkWord false 0x2B (eFU f 7)]
  | .fabs f => [mkWord false 0x2B (eFU f 8)]
  | .fneg f => [mkWord false 0x2B (eFU f 9)]
  | .fclass f => [mkWord false 0x2B (eFU f 10)]
  | .fcvt f => [mkWord false 0x2c (eLCvt f)]
  | .fcvtn f => [mkWord false 0x2d (eLN f)]
  | .fcvtw f => [mkWord false 0x2e (eLW f)]
  | .fcvtr f => [mkWord false 0x2f (eHR f)]
  | .fcvti f => [mkWord false 0x30 (eLCvtI f)]
  | .icvtf f => [mkWord false 0x31 (eLCvtI f)]
  | .icvt f => [mkWord false 0x32 (eLICvt f)]
  | .shfl f => [mkWord false 0x33 (eLF f 0)]
  | .shup f => [mkWord false 0x33 (eLF f 1)]
  | .shdn f => [mkWord false 0x33 (eLF f 2)]
  | .shxor f => [mkWord false 0x33 (eLF f 3)]
  | .xred f => [mkWord false 0x34 (eLX f)]
  | .xscan f => [mkWord false 0x35 (eLXS f)]
  | .bcast f => [mkWord false 0x36 (eLMv f 0)]
  | .getl f => [mkWord false 0x36 (eLMv f 1)]
  | .voteAny f => [mkWord false 0x36 (f.pg.toNat * 4194304 + f.qd.toNat * 65536 + f.pa.toNat * 1024 + 32)]
  | .voteAll f => [mkWord false 0x36 (f.pg.toNat * 4194304 + f.qd.toNat * 65536 + f.pa.toNat * 1024 + 48)]
  | .voteCnt f => [mkWord false 0x36 (f.pg.toNat * 4194304 + f.gd.toNat * 65536 + f.pa.toNat * 1024 + 64)]
  | .laneix pg vd => [mkWord false 0x36 (pg.toNat * 4194304 + vd.toNat * 65536 + 80)]
  | .ld f => [mkWord false 0x37 (eLM f)]
  | .lds f => [mkWord false 0x38 (eLM f)]
  | .st f => [mkWord false 0x39 (eLM f)]
  | .stm f => [mkWord false 0x3a (eLM f)]
  | .atom32 f => [mkWord false 0x3b (eLA f)]
  | .atom64 f => [mkWord false 0x3c (eLA f)]
  | .ord o sc a => [mkWord false 0x3D (o.code * 8388608 + sc.code * 1048576), a.encode]
  | .ext imm25 t => [mkWord t.uniform 0x3E imm25.toNat, t.encode]
  | .nop => [mkWord true 0 0]
  | .gadd f => [mkWord true 0x1 (eUR f 0)]
  | .gsub f => [mkWord true 0x2 (eUR f 0)]
  | .gmul f => [mkWord true 0x3 (eUR f 0)]
  | .gmin f => [mkWord true 0x4 (eUR f 0)]
  | .gmax f => [mkWord true 0x5 (eUR f 0)]
  | .gminn f => [mkWord true 0x6 (eUR f 0)]
  | .gmaxn f => [mkWord true 0x7 (eUR f 0)]
  | .gand f => [mkWord true 0x8 (eUR f 0)]
  | .gor f => [mkWord true 0x9 (eUR f 0)]
  | .gxor f => [mkWord true 0xa (eUR f 0)]
  | .gshl f => [mkWord true 0xb (eUR f 0)]
  | .gshr f => [mkWord true 0xc (eUR f 0)]
  | .gsar f => [mkWord true 0xd (eUR f 0)]
  | .gmulh f => [mkWord true 0x0E (eUR f 0)]
  | .gmulhn f => [mkWord true 0x0E (eUR f 1)]
  | .gdiv f => [mkWord true 0x0E (eUR f 2)]
  | .gdivn f => [mkWord true 0x0E (eUR f 3)]
  | .grem f => [mkWord true 0x0E (eUR f 4)]
  | .gremn f => [mkWord true 0x0E (eUR f 5)]
  | .gpopc f => [mkWord true 0x0E (eUU f 6)]
  | .gclz f => [mkWord true 0x0E (eUU f 7)]
  | .gctz f => [mkWord true 0x0E (eUU f 8)]
  | .gnot f => [mkWord true 0x0E (eUU f 9)]
  | .gneg f => [mkWord true 0x0E (eUU f 10)]
  | .gaddi f => [mkWord true 0xf (eUI f)]
  | .gandi f => [mkWord true 0x10 (eUI f)]
  | .gori f => [mkWord true 0x11 (eUI f)]
  | .gxori f => [mkWord true 0x12 (eUI f)]
  | .gshli f => [mkWord true 0x13 (eUSh f)]
  | .gshri f => [mkWord true 0x14 (eUSh f)]
  | .gmovi f => [mkWord true 0x15 (eUMov f)]
  | .gmovh f => [mkWord true 0x16 (eUMov f)]
  | .gcmp f => [mkWord true 0x17 (eUC f)]
  | .qlogPand f => [mkWord true 0x18 (eLQ f.qg f.qd f.qa f.qb 0)]
  | .qlogPor f => [mkWord true 0x18 (eLQ f.qg f.qd f.qa f.qb 1)]
  | .qlogPxor f => [mkWord true 0x18 (eLQ f.qg f.qd f.qa f.qb 2)]
  | .qlogPandn f => [mkWord true 0x18 (eLQ f.qg f.qd f.qa f.qb 3)]
  | .qlogPnot qg qd qa => [mkWord true 0x18 (eLQ qg qd qa 0 4)]
  | .qlogPset qg qd => [mkWord true 0x18 (eLQ qg qd 0 0 5)]
  | .qlogPclr qg qd => [mkWord true 0x18 (eLQ qg qd 0 0 6)]
  | .gsel f => [mkWord true 0x19 (eUSel f)]
  | .bra qg inv off => [mkWord true 0x1A (qg.toNat * 4194304 + bit1 inv * 2097152 + off.toNat)]
  | .brd p j inv off => [mkWord true 0x1B (p.toNat * 4194304 + j.toNat * 524288 + bit1 inv * 262144 + off.toNat)]
  | .jset j p off => [mkWord true 0x1C (j.toNat * 4194304 + p.toNat * 524288 + off.toNat)]
  | .jsetAdd j p off => [mkWord true 0x1C (j.toNat * 4194304 + p.toNat * 524288 + 262144 + off.toNat)]
  | .join j => [mkWord true 0x1D (j.toNat * 4194304)]
  | .call qg gd off => [mkWord true 0x1E (qg.toNat * 4194304 + gd.toNat * 65536 + off.toNat)]
  | .ret qg ga => [mkWord true 0x1F (qg.toNat * 4194304 + ga.toNat * 1024)]
  | .loop ga len => [mkWord true 0x20 (ga.toNat * 65536 + len.toNat)]
  | .lbrk qg => [mkWord true 0x21 (qg.toNat * 4194304)]
  | .brw w f inv off => [mkWord true 0x22 (w.toNat * 8388608 + f.toNat * 2097152 + bit1 inv * 1048576 + off.toNat)]
  | .exit p inv => [mkWord true 0x23 (p.toNat * 4194304 + bit1 inv * 2097152)]
  | .pause qg => [mkWord true 0x24 (qg.toNat * 4194304)]
  | .pauseWatch qg gh go => [mkWord true 0x24 (qg.toNat * 4194304 + gh.toNat * 65536 + go.toNat * 1024 + 512)]
  | .brx qg ga => [mkWord true 0x25 (qg.toNat * 4194304 + ga.toNat * 1024)]
  | .fence qg sc k eng => [mkWord true 0x26 (qg.toNat * 4194304 + sc.code * 16 + k.code * 4 + bit1 eng * 2)]
  | .barArr f => [mkWord true 0x27 (eUBar f 0)]
  | .barWait qg b => [mkWord true 0x27 (qg.toNat * 4194304 + 1048576 + b.toNat * 32768)]
  | .barSync f => [mkWord true 0x27 (eUBar f 2)]
  | .barGang qg => [mkWord true 0x27 (qg.toNat * 4194304 + 3145728)]
  | .cachePub f => [mkWord true 0x28 (eUCache f 0)]
  | .cacheInvl f => [mkWord true 0x28 (eUCache f 1)]
  | .cacheDrop f => [mkWord true 0x28 (eUCache f 2)]
  | .cachePref f => [mkWord true 0x28 (eUCache f 3)]
  | .btag qg tag => [mkWord true 0x29 (qg.toNat * 4194304 + tag.toNat * 1048576)]
  | .bclose qg gd tag => [mkWord true 0x2A (qg.toNat * 4194304 + gd.toNat * 65536 + tag.toNat * 16384)]
  | .getc qg gd c => [mkWord true 0x2B (qg.toNat * 4194304 + gd.toNat * 65536 + c.code * 64)]
  | .setc qg ga c => [mkWord true 0x2C (qg.toNat * 4194304 + ga.toNat * 65536 + c.code * 64)]
  | .hnarrow f perm => [mkWord true 0x2D (eUR f perm.toNat)]
  | .palq f fn => [mkWord true 0x2E (eUU f fn.code)]
  | .trap qg imm => [mkWord true 0x2F (qg.toNat * 4194304 + imm.toNat)]
  | .tret => [mkWord true 0x30 0]
  | .tretReplay => [mkWord true 0x30 16777216]
  | .dlaunch f => [mkWord true 0x31 (eUR f 0)]
  | .shape f => [mkWord true 0x33 (eUK f.qg.toNat 0 f.t.toNat f.gh.toNat f.go.toNat 0), f.stride.toNat * 2097152 + f.colsM1.toNat * 256 + f.rowsM1.toNat]
  | .texpect f => [mkWord true 0x34 (eUK f.qg.toNat 0 f.t.toNat f.g.toNat 0 0), 0]
  | .tfree f => [mkWord true 0x34 (eUK f.qg.toNat 0 f.t.toNat 0 0 1), 0]
  | .tstate f => [mkWord true 0x34 (eUK f.qg.toNat 0 f.t.toNat f.g.toNat 0 2), 0]
  | .cpy f => [mkWord true 0x35 (eUK f.qg.toNat f.sg.toNat 0 f.gs.toNat f.gd.toNat 0), eCCpy f]
  | .fill f => [mkWord true 0x35 (eUK f.qg.toNat f.sg.toNat f.gs.toNat 0 f.gd.toNat 1), eCCpy f]
  | .cpyv f => [mkWord true 0x36 (eUK f.qg.toNat 0 f.gv.toNat f.gs.toNat f.gd.toNat 0), eStat f.stat + f.len64.toNat]
  | .gath f => [mkWord true 0x37 (eUK f.qg.toNat f.sg.toNat f.gt.toNat f.gi.toNat f.gx.toNat 0), eGathPw f]
  | .scat f => [mkWord true 0x37 (eUK f.qg.toNat f.sg.toNat f.gt.toNat f.gi.toNat f.gx.toNat 1), eGathPw f]
  | .mma f => [mkWord true 0x38 (eMmaW f 0), eMmaPw f]
  | .mmaH f => [mkWord true 0x38 (eMmaW f 1), eMmaPw f]
  | .mepi f => [mkWord true 0x39 (eMepiW f 0), eMepiPw f]
  | .mepiT2 f => [mkWord true 0x39 (eMepiW f 1), eMepiPw f]
  | .mepiSend f => [mkWord true 0x39 (eMepiW f 2), eMepiPw f]
  | .mepiT2Send f => [mkWord true 0x39 (eMepiW f 3), eMepiPw f]
  | .mzero f =>
    match f.tag with
    | none => [mkWord true 0x3A (eUK f.qg.toNat 0 f.a.toNat 0 0 0), bit1 f.f64]
    | some g => [mkWord true 0x3A (eUK f.qg.toNat 0 f.a.toNat g.toNat 0 0), 2 + bit1 f.f64]
  | .mfence f => [mkWord true 0x3A (eUK f.qg.toNat 0 f.g.toNat 0 0 1), 0]
  | .mwait f => [mkWord true 0x3A (eUK f.qg.toNat 0 0 f.g.toNat 0 2), 0]
  | .mget f => [mkWord true 0x3A (eUK f.qg.toNat 0 f.vd.toNat f.a.toNat f.gr.toNat 3), 0]
  | .collAr f => [mkWord true 0x3B (eCollW f 0), eCollPw f]
  | .collRs f => [mkWord true 0x3B (eCollW f 1), eCollPw f]
  | .collAg f => [mkWord true 0x3B (eCollW f 2), eCollPw f]
  | .collBc f => [mkWord true 0x3B (eCollW f 3), eCollPw f]
  | .easel f => [mkWord true 0x3C (eUK f.qg.toNat f.sg.toNat 0 f.gk.toNat 0 0), eStat f.stat + f.ctile.toNat * 32 + f.queue.toNat * 2 + bit1 f.site]
  | .bind f => [mkWord true 0x3D (eUK f.qg.toNat 0 f.w.toNat f.gh.toNat f.gc.toNat 0), bit1 f.sx * 4 + f.ls.toNat]
  | .unbind f => [mkWord true 0x3D (eUK f.qg.toNat 0 f.w.toNat 0 0 1), 0]
  | .lostReconvergenceRelease _ => []
  | .teamEnd _ => []
  | .pauseTimeout _ => []
  | .scFenceWaitEnd _ => []
  | .walkerElementArrival _ _ _ => []
  | .loadReply _ _ => []
  | .stmCopyDelivery _ => []
  | .leaseReply _ => []
  | .wiCopyReply _ => []
  | .ownershipGrant _ => []
  | .validityEnd _ _ => []
  | .invalidation _ => []
  | .recall _ => []
  | .publishRequest _ => []
  | .forcedPublish _ => []
  | .homeAcknowledgement _ => []
  | .siRead _ => []
  | .wiRead _ => []
  | .wtRead _ => []
  | .homeWrite _ => []
  | .homeAtomic _ => []
  | .ownRequest _ => []
  | .invalidationAcknowledgement _ => []
  | .sharerDropNotice _ => []
  | .ownerDropNotice _ => []
  | .recallAnswer _ => []
  | .publishWriteBack _ => []
  | .publishAnswer _ => []
  | .evictionWriteBack _ => []
  | .narrowReleaseNotice _ => []
  | .forcedPublishAnswer _ => []
  | .leaseExpires _ => []
  | .directoryEntryReuse _ => []
  | .watchRegistration _ _ _ _ => []
  | .wake _ _ => []
  | .streamerRound _ => []
  | .engineCommandComplete _ => []
  | .matrixCommandComplete _ => []
  | .collectiveComplete _ => []
  | .sgPromotion _ => []
  | .sectorAccept _ _ => []
  | .sectorRefuse _ _ => []
  | .acceptSignal _ _ _ _ => []
  | .groupSector _ => []
  | .resultSector _ => []
  | .groupError _ _ => []
  | .groupStallTimeout _ _ _ _ => []
  | .reducingLoadRequest _ _ _ _ _ _ => []
  | .reducingLoadValue _ _ _ => []
  | .treeTableWrite _ _ => []
  | .flitReceive _ _ _ _ => []
  | .replayRequest _ _ => []
  | .idleFlit _ => []
  | .portDown _ => []
  | .linkRekey _ => []
  | .remoteRequest _ => []
  | .receipt _ => []
  | .remoteAcknowledgement _ _ => []
  | .resendTimeout _ => []
  | .duplicateRecordExpiry _ _ => []
  | .closeRequest _ _ _ _ => []
  | .summaryReply _ _ _ _ _ _ => []
  | .endNotice _ _ => []
  | .deadPeerDeclaration _ => []
  | .heartbeatTick => []
  | .timeMessage _ _ => []
  | .timeBoundLoss => []
  | .timeBoundTimeout => []
  | .gtcLoad => []
  | .uetWrite _ _ _ => []
  | .uetDelivery _ _ => []
  | .doorbell _ _ => []
  | .enableClear _ => []
  | .instanceStart _ => []
  | .launchNode _ _ => []
  | .condNode _ _ => []
  | .whileNode _ _ => []
  | .copyNode _ _ => []
  | .waitNode _ _ => []
  | .signalNode _ _ => []
  | .launchNodeComplete _ _ => []
  | .nodeComplete _ _ => []
  | .dlaunchDescriptor _ => []
  | .dlaunchStatus _ => []
  | .launchPlacement => []
  | .preemption => []
  | .armStopDeadline _ => []
  | .launchSuspended _ => []
  | .launchResume _ => []
  | .tableWalk _ _ => []
  | .faultResolve _ _ => []
  | .faultFatal _ _ => []
  | .xinvctlGo _ => []
  | .xinvComplete => []
  | .complete _ _ => []
  | .fault _ _ _ _ => []
  | .stopped _ _ _ _ => []
  | .invack _ _ => []
  | .xlreq _ _ _ _ => []
  | .rdcurr _ _ => []
  | .rdshared _ _ => []
  | .wrcur _ _ _ => []
  | .faultReportDeadline _ => []
  | .invackDeadline _ => []
  | .stoppedDeadline _ => []
  | .linkSilent _ => []
  | .hostWrite _ _ => []
  | .hostRead _ _ => []
  | .hostAtomic _ _ _ _ _ => []
  | .attest _ => []
  | .keyload _ _ _ _ => []
  | .abortRecordRead _ => []
  | .timectlWrite _ => []
  | .pwrcapWrite _ => []
  | .fthreshWrite _ => []
  | .registerWrite _ _ => []
  | .powerWindow _ => []
  | .coreCurrentTrip => []
  | .temperatureTrip _ => []
  | .powerGood => []
  | .stageB _ _ _ => []
  | .stageC _ _ _ _ => []
  | .stageD _ => []
  | .hostReset => []
  | .correctedError _ => []
  | .uncorrectedError _ _ => []
  | .errorWindowRoll => []
  | .summaryExpiry _ => []
  | .splitPoint _ => []
  | .portRetrain _ => []
  | .deadPeerClear _ => []
  | .guestSiteReset _ _ => []
  | .unlistedContractKind _ _ => []

/-- The step is a unit of an instruction stream: it has words. -/
def Instr.isUnit (i : Instr) : Bool := !(encode i).isEmpty

/-- The decoder on a unit's words. -/
def decodeWords : List Nat → Except DecodeErr Instr
  | [] => .error .more
  | [w] => decode w none
  | w :: x :: _ => decode w (some x)

end Sys2Proof
end

