-- ==== Sys2Proof/Machine/Store.lean ====
section
/-! DEFINITION. Sparse tables in one canonical form: keys strictly rising, no entry equal to the default value. -/

namespace Sys2Proof.Machine

/-- The value at key `k`, `d` when none is listed. -/
def sget {α : Type} (d : α) (m : Store α) (k : Nat) : α :=
  match m with
  | [] => d
  | (k', v) :: r => if k = k' then v else sget d r k

/-- Remove key `k`. -/
def sdel {α : Type} (m : Store α) (k : Nat) : Store α :=
  match m with
  | [] => []
  | (k', v) :: r => if k = k' then sdel r k else (k', v) :: sdel r k

/-- Insert a key that is not listed, keeping the order. -/
def sins {α : Type} (m : Store α) (k : Nat) (v : α) : Store α :=
  match m with
  | [] => [(k, v)]
  | (k', v') :: r => if k < k' then (k, v) :: (k', v') :: r else (k', v') :: sins r k v

/-- Write `v` at key `k`; writing the default removes the entry. -/
def sset {α : Type} [DecidableEq α] (d : α) (m : Store α) (k : Nat) (v : α) : Store α :=
  if v = d then sdel m k else sins (sdel m k) k v

/-- The canonical form. -/
def swf {α : Type} [DecidableEq α] (d : α) (m : Store α) : Bool :=
  match m with
  | [] => true
  | (k, v) :: r => decide (v ≠ d) && (match r with | [] => true | (k', _) :: _ => decide (k < k')) && swf d r

/-- `sget` of a table of optional values. -/
abbrev oget {α : Type} (m : Store (Option α)) (k : Nat) : Option α := sget none m k

/-- `sset` of a table of optional values. -/
abbrev oset {α : Type} [DecidableEq α] (m : Store (Option α)) (k : Nat) (v : Option α) : Store (Option α) := sset none m k v

/-- Every value listed, with its key. -/
def slist {α : Type} (m : Store (Option α)) : List (Nat × α) :=
  m.filterMap (fun kv => kv.2.map (fun v => (kv.1, v)))

/-- Change every value listed. -/
def smap {α : Type} [DecidableEq α] (m : Store (Option α)) (f : Nat → α → α) : Store (Option α) :=
  m.map (fun kv => (kv.1, kv.2.map (f kv.1)))

/-- Memory: an unlisted byte reads 0 (log 2). -/
abbrev Memory.wf (m : Memory) : Bool := swf (0 : Byte) m

/-- One byte of memory. -/
abbrev Memory.get (m : Memory) (k : Nat) : Byte := sget (0 : Byte) m k

/-- Write one byte of memory. -/
abbrev Memory.put (m : Memory) (k : Nat) (b : Byte) : Memory := sset (0 : Byte) m k b

/-- Write a list of bytes by key. -/
def Memory.putAll (m : Memory) (cells : List (Nat × Byte)) : Memory :=
  match cells with
  | [] => m
  | (k, b) :: r => Memory.putAll (Memory.put m k b) r

/-- `n` bytes from key `k` on. -/
def Memory.bytes (m : Memory) (k : Nat) : Nat → List Byte
  | 0 => []
  | n + 1 => Memory.get m k :: Memory.bytes m (k + 1) n

end Sys2Proof.Machine
end

