-- ==== Sys2Proof/Machine/State.lean ====
section
/-! DEFINITION. The state of one EPZ9-512 and of what it holds of its pod, as plain data; the reasons a step stops; the
state after reset. -/

namespace Sys2Proof.Machine

/-- Reasons the machine stops with a fault. -/
inductive Fault
  /-- Raised by HOST_READ, HOST_WRITE and HOST_ATOMIC on a physical address that reaches nothing (R367). Safe: the spec
  gives such an access no result. -/
  | reachesNothing (pa : Nat)
  deriving DecidableEq, Repr

/-- Reasons a step is refused. -/
inductive Refusal
  /-- Raised by an arm of `exec` whose instruction has no meaning yet. Safe. -/
  | notModelled (mnemonic : String)
  /-- Raised by an event that the spec does not let happen at this state (its enabling condition is false): there is no
  such behaviour to model. Safe. -/
  | notEnabled (event : String)
  /-- Raised by an instruction when `Sched.cur` names no arm of a resident team: nothing is there to execute it. Safe. -/
  | noArm
  deriving DecidableEq, Repr

/-! ### Arms and teams -/

/-- An entry of a reconvergence stack (R61). -/
structure StackEntry where
  pc : Word
  mask : LaneMask
  deriving DecidableEq, Repr

/-- An entry of a loop stack (R65). -/
structure LoopEntry where
  start : Word
  last : Word
  count : BitVec 32
  deriving DecidableEq, Repr

/-- What keeps an arm from issuing, beside empty registers. -/
inductive Wait
  /-- nothing -/
  | ready
  /-- PAUSE (R90): the cycle it issued and the sector key watched -/
  | paused (since : Nat) (watch : Option Nat)
  /-- translations of the unit are awaited (R73, R307): an address in each page, whether the access writes and is atomic -/
  | xlate (pages : List (Nat × Bool × Bool))
  /-- a translation of the unit has failed for good: the arm takes XLATE_FATAL with this TRAPINFO when it next issues (R108,
  R307) -/
  | fatal (info : Word)
  /-- arrived at a barrier and waiting until it has counted or completed (R126, R127): barrier key, phase -/
  | barrier (key : Nat) (phase : Nat)
  /-- FENCE.SC step 1: draining (R124) -/
  | scDrain (ops cmds : List Nat)
  /-- FENCE.SC step 3: until GTC 128 H + 80 (R124) -/
  | scWait (h : Nat)
  /-- DLAUNCH: the descriptor has been sent and `gd` awaits the status word (R239) -/
  | dlaunch (gd : Nat) (words : List Word) (sent : Nat) (answer : Option Word)
  deriving DecidableEq, Repr

/-- A hold that a fence, an ordered access or a barrier puts on an arm's later operations (R117, R123). -/
structure Hold where
  /-- holds back accesses, CACHE and commands (acquire); a release holds back stores, atomics, CACHE and commands -/
  acquire : Bool
  ops : List Nat
  cmds : List Nat
  /-- L sectors are dropped when the hold ends -/
  drop : Bool
  deriving DecidableEq, Repr

/-- An arm (R98, R99, R311). -/
structure Arm where
  pc : Word
  active : LaneMask
  stack : List StackEntry
  loops : List LoopEntry
  tag : BitVec 2
  inHandler : Bool
  wait : Wait
  /-- outstanding accesses and CACHE operations: the arm's scoreboard -/
  ops : List Nat
  /-- engine commands issued and not complete -/
  cmds : List Nat
  /-- matrix commands since the arm's last MFENCE (R268) -/
  mcmds : List Nat
  holds : List Hold
  /-- a stop for pre-emption was requested and the arm has stopped (R308) -/
  stopped : Bool
  /-- passes of its last lane-side word that are still to issue (R84) -/
  todo : Nat
  /-- consecutive cycles the arm has been ready without issuing (R247) -/
  age : Nat
  /-- 1 + the cycle of its last issue, 0 before the first (R89, R247) -/
  last : Nat
  deriving DecidableEq, Repr

/-- A lane: v registers, p0 to p7 (bit 0 unused), FPCTL, FPFLAGS, generator state (R12, R69, R229). -/
structure Lane where
  v : Store Word
  p : BitVec 8
  fpctl : Word
  fpflags : BitVec 8
  gen : Word
  deriving DecidableEq, Repr

/-- The mark of a v or g register (R86, R75, R318). -/
inductive Mark
  | full
  /-- the load (or command, BCLOSE) that fills it -/
  | empty
  | lost (chip : Nat)
  /-- full, but the lanes of this mask hold poisoned data, and their reader traps SOFT -/
  | poison (mask : LaneMask)
  deriving DecidableEq, Repr

/-- A join record (R102). `parkedT` and `parkedF` are the parked lanes by the arm that owns them. -/
structure Join where
  pc : Option Word
  pending : LaneMask
  parkedT : LaneMask
  parkedF : LaneMask
  last : Bool
  inst : BitVec 32
  deriving DecidableEq, Repr

/-- A palette entry or dynamic slot (R144). `ok` is false for an invalid entry, `rec` false when its tensor record is
wrong (R145). -/
structure PalEntry where
  ok : Bool
  space : Nat
  base : Nat
  limit : Nat
  lease : Nat
  target : Nat
  rtype : Nat
  rop : Nat
  defpol : Nat
  polmask : Nat
  isSealed : Bool
  perm : Nat
  ccore : Nat
  cnt : Bool
  cblock : Nat
  ctile : Nat
  clamp : BitVec 32
  scale : Nat
  format : Nat
  eplane : Nat
  splane : Nat
  aux : Nat
  recOk : Bool
  deriving DecidableEq, Repr

/-- A bound walker (R91 to R93). `pos = none` is past the end. -/
structure Walker where
  entry : PalEntry
  ls : Nat
  sx : Bool
  ext : List Nat
  stride : List Int
  base : List Word
  saved : List Word
  pos : Option (Nat × Nat × Nat)
  d0 : Bool
  d1 : Bool
  d2 : Bool
  fin : Bool
  /-- elements that have arrived for the present position, by lane, each full, poisoned or lost -/
  arrived : List (Nat × Word × Mark)
  deriving DecidableEq, Repr

/-- What is fixed when a team starts (R68, R244). -/
structure TeamGeom where
  launch : Nat
  core : Nat
  block : Nat
  index : Nat
  slot : Nat
  datapath : Nat
  lanes : Nat
  vcount : Nat
  gregs : Nat
  barriers : Nat
  deriving DecidableEq, Repr

/-- TRAPVEC, TRAPPC, TRAPCODE, TRAPINFO, and the model's note of the trapping unit's length (R304, R305). -/
structure TrapRegs where
  vec : Word
  pc : Word
  code : BitVec 8
  info : Word
  len : Nat
  deriving DecidableEq, Repr

/-- A batch closed by MFENCE (R268). -/
structure Batch where
  cmds : List Nat
  fail : Option Nat
  deriving DecidableEq, Repr

/-- A BCLOSE under way (R133): its register, the peers still to answer, the status so far; and what each peer was asked: the chip,
the count, the port on which the request left. -/
structure Close where
  gd : Nat
  waiting : List Nat
  peers : Nat
  failed : List Nat
  poison : Bool
  xlate : Bool
  bounds : Bool
  lost : Bool
  asks : List (Nat × Nat × Nat)
  deriving DecidableEq, Repr

/-- A resident or suspended team. -/
structure Team where
  geom : TeamGeom
  armT : Option Arm
  armF : Option Arm
  live : LaneMask
  lanes : List Lane
  g : Store Word
  q : BitVec 8
  vmark : Store Mark
  gmark : Store Mark
  joins : Store Join
  nextInst : BitVec 32
  walkers : Store (Option Walker)
  slots : Store (Option PalEntry)
  trap : TrapRegs
  srseed : Word
  engfail : Bool
  nolane : Bool
  lostjoin : Bool
  /-- the recorded code of a failed command and its unit's address (R257) -/
  engcode : Option (Nat × Word)
  batchNo : BitVec 32
  batches : Store (Option Batch)
  conv : Nat
  /-- how many batches of each tag have been closed, which tells the requests of a batch being closed from those of later ones;
  `peers` and `closes` are kept by tag + 4 × that number -/
  batchGen : Store Nat
  /-- peer sets of the batches: chip and tagged requests sent, and whether one was lost here -/
  peers : Store (List (Nat × Nat × Bool))
  closes : Store (Option Close)
  /-- phase of the last arrival at each barrier; the gang's is number 32 -/
  barPhase : Store (Option Nat)
  collSeq : Nat
  /-- its entries of the lane register file, in runs of 32 -/
  units : List Nat
  deriving DecidableEq, Repr

/-! ### Launches -/

/-- A launch record (R241). -/
structure LaunchRec where
  code : Nat
  codeLen : Nat
  entry : Nat
  lanes : Nat
  vregs : Nat
  gregs : Nat
  teams : Nat
  barriers : Nat
  scratch : Nat
  gw : Nat
  gh : Nat
  lw : Nat
  lh : Nat
  blocks : Nat
  weight : Nat
  mx : Bool
  palette : Nat
  srseed : Word
  trapvec : Nat
  deriving DecidableEq, Repr

/-- Where a launch is. -/
inductive LaunchStatus
  | waiting
  | resident
  /-- a pre-emption request has been made at this GTC -/
  | stopping (since : Nat)
  | suspended
  /-- aborted at this GTC; when it has stopped it completes its node with this code -/
  | aborting (code since : Nat)
  deriving DecidableEq, Repr

/-- A launch that the allocator holds (R241 to R246). -/
structure Launch where
  lr : LaunchRec
  ctx : Nat
  prio : Nat
  inst : Nat
  node : Nat
  scope : Nat
  status : LaunchStatus
  /-- placement order, for R246 -/
  placed : Nat
  x0 : Nat
  y0 : Nat
  pal : Store PalEntry
  /-- scratchpad base of each block: key core * 16 + block -/
  scratchAt : Store Nat
  /-- numbers of the save slots it holds, and the scratchpad bytes saved, by key -/
  slots : List Nat
  saved : List (Nat × Byte)
  deriving DecidableEq, Repr

/-- A graph node (R236). -/
structure Node where
  kind : Nat
  preds : Nat
  scope : Nat
  succ : List Nat
  compl : Nat
  a : Nat
  b : Word
  c : Word
  deriving DecidableEq, Repr

/-- State of a node within its instance. -/
inductive NodeState
  | blocked (count : Nat)
  | ready (order : Nat)
  | running
  /-- a copy or signal: bytes moved so far, its stores under way -/
  | busy (moved : Nat) (ops : List Nat)
  /-- its effect is over and its completion store is due; the successors to be decremented -/
  | ending (succ : List Nat)
  /-- its completion store is under way -/
  | storing (ops : List Nat) (succ : List Nat)
  | done
  deriving DecidableEq, Repr

/-- An instance of a graph (R235 to R238). -/
structure Inst where
  ring : Nat
  ctx : Nat
  prio : Nat
  seq : BitVec 32
  doneAt : Nat
  nodes : Store (Option Node)
  states : Store (Option NodeState)
  dyn : Nat
  nready : Nat
  /-- failing code and node -/
  err : Option (Nat × Nat)
  aborted : Bool
  /-- its DONE word is on its way -/
  ending : Bool
  /-- the walker that runs it (R235) -/
  die : Nat
  /-- its graph image, while that has not been read -/
  graph : Option Nat
  deriving DecidableEq, Repr

/-! ### Coherence -/

/-- States of an L1 sector other than I (R155). -/
inductive L1State | l | k | o | m
  deriving DecidableEq, Repr

/-- An L1 sector (R155, R161). `writers` are the arms that wrote it (R118). -/
structure L1Sec where
  st : L1State
  data : List Byte
  dirty : BitVec 64
  expiry : Nat
  writers : List (Nat × Bool)
  deriving DecidableEq, Repr

/-- What an L1 does when ownership arrives, in order (R162). -/
inductive OwnAct
  | load (load part : Nat)
  | store (op : Nat) (team : Nat) (f : Bool) (cells : List (Nat × Byte))
  | atomic (op load part : Nat) (team : Nat) (f : Bool) (aop : AOp) (wide : Bool) (off : Nat) (b c : Word)
  deriving DecidableEq, Repr

/-- An agent with a request at a home. -/
inductive Agent
  | core (c : Nat)
  /-- a request of another chip, by its sequence number (R328) -/
  | chip (c seq : Nat)
  /-- an engine command, walker node, guest or the host: known by the operation its write completes -/
  | op
  deriving DecidableEq, Repr

/-- A request to a home (R163). `op` or `load`, `part` say what the answer completes; `load` of a read by an agent that is no core
is the read's number in `Coh.reads`. -/
inductive HomeBody
  | siRead (lease : Nat) (acq : Bool) (load part : Nat)
  | wiRead (acq : Bool) (load part : Nat)
  | wtRead (acq : Bool) (load part : Nat)
  | write (cells : List (Nat × Byte)) (op : Nat)
  | atomic (aop : AOp) (wide : Bool) (off : Nat) (b c : Word) (acq : Bool) (op load part : Nat)
  /-- an atomic of another chip, of every lane in the sector (R325) -/
  | atomics (aop : AOp) (wide : Bool) (lanes : List (Nat × Word × Word)) (acq : Bool)
  | own (acq : Bool)
  /-- the head of the queue, for a CPYV (R265) -/
  | hold (op : Nat)
  deriving DecidableEq, Repr

/-- A queued request. -/
structure HomeReq where
  src : Agent
  body : HomeBody
  deriving DecidableEq, Repr

/-- A directory entry (R157) with its queue (R163) and what its home waits for. WTPEND is the number of queued writes,
atomics and ownership requests. -/
structure DirEnt where
  exp : Nat
  sharers : List Nat
  /-- cores with an invalidation out that nothing has answered yet, and its number (R166) -/
  invs : List (Nat × Nat)
  owner : Option Nat
  nrh : List Nat
  queue : List HomeReq
  /-- a recall is out -/
  recalled : Bool
  /-- reads that wait for the owner's publish answer -/
  pubWait : List HomeReq
  /-- acquires held for forced publishes, and the holders that still have to answer (R168) -/
  acqWait : List HomeReq
  forced : List Nat
  /-- a CPYV holds the sector as the head of its queue (R265) -/
  held : Bool
  deriving DecidableEq, Repr

/-- Messages between a core and a home, or a scratchpad or Gallery bank (R115, R161, R163). -/
inductive MsgBody
  -- core to home
  | req (r : HomeBody)
  /-- answer to the invalidation of that number -/
  | invAck (inval : Nat)
  | sharerDrop
  | ownerDrop
  /-- answer of a recall: dirty bytes, and whether the sector was still held; `ops` of a write-back are operations of the arms that
  wrote the bytes (R118) -/
  | recallAnswer (held : Bool) (cells : List (Nat × Byte)) (ops : List Nat)
  /-- write-back that answers a publish request -/
  | publishAnswer (cells : List (Nat × Byte)) (ops : List Nat)
  /-- write-back of CACHE.PUB or of a release -/
  | publishWriteBack (cells : List (Nat × Byte)) (ops : List Nat)
  | evictionWriteBack (cells : List (Nat × Byte)) (ops : List Nat)
  | narrowRelease
  | narrowPublished
  | forcedAnswer
  -- home to core
  | lease (expiry : Nat) (data : List Byte) (load part : Nat)
  | wiCopy (data : List Byte) (load part : Nat)
  /-- data without a copy, and whether the sector is poisoned -/
  | data (data : List Byte) (poison : Bool) (load part : Nat)
  /-- the old value of an atomic -/
  | old (value : Nat) (poison : Bool) (load part : Nat)
  | grant (data : List Byte)
  | inval
  | recall
  | publish
  | forced
  | ack (op : Nat)
  /-- a copy of an STM on its way to the scratchpad bytes it names (R121) -/
  | stmCopy (cells : List (Nat × Byte)) (op : Nat)
  deriving DecidableEq, Repr

/-- A message in flight. It is delivered only after every earlier one of its direction, core and sector, and after the
operations in `after` have completed (a release, R118). -/
structure Msg where
  id : Nat
  toHome : Bool
  core : Nat
  sector : Nat
  body : MsgBody
  after : List Nat
  deriving DecidableEq, Repr

/-- What an operation is, which says what completes with it (R118, R283). -/
inductive OpKind
  | load | store | atomic | stm | cache
  /-- a write of an engine command; when it lies at a virtual address, its context and the address of its sector's byte 0 -/
  | cmdWrite (cmd : Nat) (at_ : Option (Nat × Nat))
  /-- a CPYV's wait to be the head of its version word's sector (R265) -/
  | cmdHold (cmd : Nat)
  /-- a read of another chip for an engine command: slice and offset in its source -/
  | cmdRead (cmd slice off : Nat)
  /-- a store of a node; of a COPY node, its context and the address of its sector's byte 0 (R152, R237) -/
  | nodeWrite (inst node : Nat) (at_ : Option (Nat × Nat))
  /-- a DONE word -/
  | doneWrite (inst : Nat)
  | remote (chip seq : Nat)
  | host
  | guest (site queue seq : Nat) (at_ : Option (Nat × Nat))
  /-- a delivery from the scale-out network or a group; of a store, whom to answer when it commits: chip, number, batch -/
  | delivery (reply : Option (Nat × Nat × Option (Nat × Nat))) (at_ : Option (Nat × Nat))
  deriving DecidableEq, Repr

/-- Bytes as the range locks compare them (R280): class 0 scratchpad and Gallery bytes by key, 1 DEVICE and HOST by context and
address, 2 POD by context, chip, export and offset. -/
structure Span where
  cls : Nat
  tag : Nat
  lo : Nat
  hi : Nat
  deriving DecidableEq, Repr

/-- An operation under way: its team and arm, and the bytes it accesses. -/
structure Op where
  kind : OpKind
  team : Nat
  f : Bool
  spans : List Span
  deriving DecidableEq, Repr

/-- The lanes of a load or atomic whose bytes lie in one sector: lane and offset in the sector (R325). -/
inductive PartState
  | waiting
  /-- the values, in the order of the lanes -/
  | ready (vals : List Word)
  | poisoned (vals : List Word)
  | lost (chip : Nat)
  deriving DecidableEq, Repr

structure Part where
  sector : Nat
  lanes : List (Nat × Nat)
  st : PartState
  /-- the reply may install a copy (no later store of the core to the sector has issued) -/
  install : Bool
  deriving DecidableEq, Repr

/-- A load or atomic under way (R74, R113), or the elements a walker fetches (R92). -/
structure Load where
  team : Nat
  /-- the walker whose elements it fetches; else it fills `vd` -/
  walker : Option Nat
  core : Nat
  op : Nat
  vd : Nat
  n : Nat
  sx : Bool
  parts : Store (Option Part)
  /-- lanes that met poison or loss so far -/
  poison : LaneMask
  /-- chips whose part of the values was lost, with its lanes, newest first -/
  lost : List (Nat × LaneMask)
  deriving DecidableEq, Repr

/-- An agent, other than a core, that reads at a home. -/
inductive ReadAgent
  /-- an engine command -/
  | cmd (id : Nat)
  /-- a graph walker for a node of an instance -/
  | node (inst node : Nat)
  /-- a graph walker for an entry of a ring -/
  | ring (ring : Nat)
  /-- the allocator for a launch -/
  | launch (id : Nat)
  /-- an arm for a packet image or a descriptor -/
  | arm (a : ArmId)
  /-- a guest, for a packet -/
  | guest (site queue seq : Nat)
  /-- a request from the scale-out network or a group, by its number -/
  | net (kind a b c : Nat)
  | host
  deriving DecidableEq, Repr

/-- A read at a home by such an agent: its answer once it has come, with its poison and the expiry of its lease, 0 for none. -/
structure AgentRead where
  who : ReadAgent
  sector : Nat
  answer : Option (List Byte × Bool × Nat)
  deriving DecidableEq, Repr

/-- A translation that a TLB holds (R351): which TLB (`coreUnit` and its kin), the context, the number of its first 128 KiB page, the
leaf. -/
structure TlbEnt where
  unit : Nat
  ctx : Nat
  page : Nat
  pa : Nat
  r : Bool
  w : Bool
  a : Bool
  /-- a page of 2 GiB -/
  big : Bool
  deriving DecidableEq, Repr

/-! ### Block-side structures and engines -/

/-- A mapped tile (R259). -/
structure Tile where
  entry : PalEntry
  eorg : Nat
  sorg : Nat
  rows : Nat
  cols : Nat
  stride : Nat
  expect : BitVec 32
  count : BitVec 32
  fail : Nat
  /-- COLL commands that still drain it -/
  drains : List Nat
  /-- its entry of the core's tile table -/
  slot : Nat
  deriving DecidableEq, Repr

/-- A named or gang barrier (R126). `expected = none` is the default count. -/
structure Barrier where
  phase : Nat
  counting : Bool
  arrived : List Nat
  expected : Option Nat
  deriving DecidableEq, Repr

/-- A range-lock entry (R253, R280). -/
structure Lock where
  launch : Nat
  cmd : Nat
  core : Nat
  /-- 0 scratchpad and Gallery bytes by key, 1 DEVICE and HOST by context and address, 2 POD by chip and export -/
  cls : Nat
  tagA : Nat
  lo : Nat
  hi : Nat
  write : Bool
  deriving DecidableEq, Repr

/-- An accumulator set (R255): mode, tag, elements as bits, row by row; an element that is not listed is +0. -/
structure AccSet where
  f64 : Bool
  tag : BitVec 32
  el : Store Word
  deriving DecidableEq, Repr

/-- A region of an engine command: the captured entry, the offset and the length. -/
structure Region where
  entry : PalEntry
  off : Nat
  len : Nat
  deriving DecidableEq, Repr

/-- The slice a team contributes to a block-collective command, or the single one of any other (R262, R263). -/
structure Slice where
  team : Nat
  index : Nat
  f : Bool
  stat : Option Nat
  src : Option Region
  dst : Option Region
  pattern : Word
  /-- bytes moved; of GATH and SCAT the half of the present element, of CPYV the step's bytes -/
  done : Nat
  /-- address of the team's own unit (R257) -/
  addr : Word
  /-- source bytes by offset: those from before the slice started (R264), or those that have come from another chip -/
  buf : Store (Option Byte)
  deriving DecidableEq, Repr

/-- A failure (R256). -/
structure Fail where
  code : Nat
  chip : Nat
  part : Bool
  vmiss : Bool
  deriving DecidableEq, Repr

/-- Commands by what they do. -/
inductive CmdKind
  | cpy | fill
  | cpyv (version : Word)
  | gath (table idx : Region) (tbase : Nat) (iw64 : Bool) (e n : Nat) (scat : Bool)
  /-- operands as captured at issue; Hadamard points, none for MMA; steps of tile B in flight at most (R287) -/
  | mma (a : Nat) (ta tb : Tile) (had : Option Nat) (depth : Nat)
  /-- `t` is tD with whether it is written, `tt` the transposed tile, `send` the group's handle and operation number -/
  | mepi (a : Nat) (t : Tile) (put : Bool) (tt : Option Tile) (gs : Word) (send : Option (PalEntry × Nat)) (clr unsc rsr : Bool)
    (had : Nat) (seed : Word) (hbase : Nat)
  | mzero (a : Nat) (tag : BitVec 32) (f64 : Bool)
  /-- 0 AR, 1 RS, 2 AG, 3 BC -/
  | coll (form : Nat) (tile : Tile) (gh : PalEntry) (root gop : Nat)
  | easel (site queue : Nat) (seq slot : Nat) (pkt : List Byte) (ctile : Option Nat) (count64 : Nat)
  deriving DecidableEq, Repr

/-- An engine command in its queue (R283). -/
structure Cmd where
  kind : CmdKind
  launch : Nat
  team : Nat
  core : Nat
  block : Nat
  sg : Nat
  /-- address of the unit (R257) -/
  addr : Word
  /-- lane that takes the flags (R258) -/
  lane : Nat
  slices : List Slice
  /-- number of a block-collective command in its block, and whether teams are still to arrive (R263) -/
  joining : Bool
  number : Nat
  /-- range-lock entries reserved (R253) -/
  reserved : Nat
  /-- its queue slot lies beyond the queue's depth, and it has range-lock entries that an open block command claims (R284) -/
  lent : Bool
  drew : Bool
  /-- number by which collectives start in the order of their arrival at the die (R283) -/
  order : Nat
  started : Bool
  startCycle : Nat
  /-- bytes moved, elements moved, or next k -/
  progress : Nat
  /-- offsets of contributed sectors that have been accepted (R295), and the one refused -/
  sent : List Nat
  refused : Bool
  /-- bytes of this member's result that have been delivered -/
  got : Nat
  /-- operations of its writes and remote reads under way -/
  writes : List Nat
  wrote : Bool
  fail : Option Fail
  /-- GTC of the last sector moved of a collective (R272) -/
  since : Nat
  /-- an element of GATH or SCAT has failed BOUNDS (R266) -/
  badEl : Bool
  vmiss : Bool
  flags : BitVec 8
  /-- tiles it names (R261), by key -/
  tiles : List Nat
  /-- page it waits for (R257): page, write -/
  parked : Option (Nat × Bool)
  stopped : Bool
  deriving DecidableEq, Repr

/-- Credits of a launch at a cluster's streamer (R245). -/
structure Credit where
  launch : Nat
  bytes : Nat
  deriving DecidableEq, Repr

/-! ### Pod -/

/-- A remote request kept until it is answered (R328). -/
structure Remote where
  chip : Nat
  seq : Nat
  core : Nat
  sector : Nat
  exp : Nat
  off : Nat
  n : Nat
  op : RemoteOp
  acq : Bool
  tag : Option (Nat × Nat)
  opId : Nat
  load : Nat
  part : Nat
  port : Nat
  tried : List Nat
  sent : Bool
  receipt : Bool
  since : Nat
  /-- bytes counted at the sender when the acknowledgement arrives: tile key and length (R152) -/
  count : Option (Nat × Nat)
  after : List Nat
  /-- the sector of an MCAST store, on the record of the member of rank 0 -/
  group : Option GroupSec
  deriving DecidableEq, Repr

/-- A request of another chip that this chip serves (R325, R328). -/
structure Served where
  req : RemoteReq
  reply : Option RemoteEnd
  at_ : Nat
  /-- waits for a translation (R325) -/
  waiting : Bool
  deriving DecidableEq, Repr

/-- A batch record of a peer's team and tag (R329). -/
structure BatchRec where
  chip : Nat
  team : Nat
  tag : Nat
  done : Nat
  closing : Option Nat
  poison : Bool
  xlate : Bool
  bounds : Bool
  deriving DecidableEq, Repr

/-- A UALink port (R323, R358). -/
structure Port where
  up : Bool
  lastRx : Nat
  lastTx : Nat
  epoch : Nat
  /-- flits sent under the present key -/
  flits : Nat
  /-- the mode that Stage C fixed: 448 Gb/s per lane, not 200 (R322) -/
  fast : Bool
  deriving DecidableEq, Repr

/-- A position of an operation at a node of this chip (R297). -/
structure Position where
  group : Nat
  op : Nat
  a : Nat
  b : Nat
  off : Nat
  sec : GroupSec
  left : Bool
  right : Bool
  refused : Bool
  deriving DecidableEq, Repr

/-- A refused child of a node (R297). -/
structure RefusedChild where
  group : Nat
  op : Nat
  a : Nat
  b : Nat
  chip : Nat
  deriving DecidableEq, Repr

/-- A lane of a reducing load of this chip (R298), and whether its request has left: 64 of an Atrium are out at a time. It is kept and
sent again as R328 has it. -/
structure RLoad where
  die : Nat
  sent : Bool
  port : Nat
  tried : List Nat
  receipt : Bool
  since : Nat
  load : Nat
  part : Nat
  group : Nat
  exp : Nat
  off : Nat
  n : Nat
  rop : Nat
  rtype : Nat
  deriving DecidableEq, Repr

/-- A value of a reducing load that waits at a node of this chip for its partner (R298): loading chip and number, the child's ranks. -/
structure LoadPartial where
  chip : Nat
  seq : Nat
  group : Nat
  a : Nat
  b : Nat
  val : LoadVal
  deriving DecidableEq, Repr

/-! ### Guests, translation, management -/

/-- An outstanding work packet (R342, R344). -/
structure Packet where
  site : Nat
  queue : Nat
  seq : Nat
  slot : Nat
  cmd : Nat
  ctx : Nat
  team : Nat
  pkt : List Byte
  /-- addresses of the FAULTs that await the driver's answer -/
  waits : List Nat
  /-- pages whose fault report is due, with the deadline -/
  owes : List (Nat × Nat)
  /-- pages whose fault fails the packet -/
  denied : List Nat
  /-- pages that the guest may use: the first 128 KiB page of each, and whether it is one of 2 GiB -/
  granted : List (Nat × Bool)
  /-- deadline of a STOPPED, if one is due -/
  stopBy : Option Nat
  /-- save buffer that a STOP named, the bytes saved in it, and whether the packet has stopped -/
  buf : Option Nat
  savedLen : Nat
  stopped : Bool
  deriving DecidableEq, Repr

/-- An invalidation that a guest has not acknowledged (R352). -/
structure Inval where
  num : Nat
  by_ : Nat
  ctx : Nat
  page : Nat
  count : Nat
  all : Bool
  deriving DecidableEq, Repr

/-- An Easel site (R338, R344). -/
structure Site where
  attested : Bool
  isolated : Bool
  cause : Nat
  qm1 : Nat
  gspool : Word
  lastFlit : Nat
  /-- next SEQ of each queue -/
  seqs : Store Nat
  invals : List Inval
  /-- packets that ended while a STOPPED was due: queue, SEQ, deadline (R346) -/
  ghosts : List (Nat × Nat × Nat)
  /-- the digest of the guest's chain that was verified (R337, R357) -/
  chain : List Byte
  deriving DecidableEq, Repr

/-- A fault record the driver has not answered (R307): context, page, write, and who asked. -/
structure FaultRec where
  ctx : Nat
  page : Nat
  die : Nat
  deriving DecidableEq, Repr

/-- Messages the chip has sent to the outside. -/
inductive OutMsg
  | msix (vec : Nat)
  | faultRecord (ctx va : Nat) (write : Bool) (team : Nat)
  | faultWithdrawn (ctx page : Nat)
  | request (chip seq port : Nat) (r : RemoteReq)
  | receipt (chip seq : Nat)
  | reply (chip seq : Nat) (e : RemoteEnd)
  | closeRequest (chip team tag count : Nat)
  | summary (chip team tag : Nat) (poison xlate bounds : Bool)
  | endNotice (chip team : Nat)
  | watch (chip exp off token : Nat)
  | wake (chip token : Nat)
  | group (chip : Nat) (s : GroupSec)
  | groupAccept (chip group op a b off : Nat)
  | groupRefuse (chip group op a b off : Nat)
  | groupSignal (chip group op a b : Nat)
  | groupError (chip group : Nat)
  /-- a reducing load's request to the chip of a node or member (ranks `a` to `b`) of its group -/
  | loadRequest (dst : Nat) (q : GroupLoad) (exp off n a b : Nat)
  /-- its value, of those ranks -/
  | loadValue (dst : Nat) (q : GroupLoad) (a b : Nat) (val : LoadVal)
  /-- a message to another chip as flit `n` of a port (R327) -/
  | via (port n : Nat) (m : OutMsg)
  /-- the data link sends the flits from this one on again -/
  | flit (port first : Nat)
  | flitForward (dst hops : Nat)
  | replayRequest (port : Nat)
  | idle (port : Nat)
  | timeMessage (port : Nat)
  /-- the chip has stopped answering pod traffic (R330) -/
  | timeLost
  | linkKey (port epoch : Nat)
  | uet (endpoint exp off : Nat) (data : List Byte) (read : Bool)
  | packet (site : Nat) (bytes : List Byte)
  | portRefused (site queue seq : Nat)
  | portData (site queue seq : Nat) (data : List Byte) (lease : Nat)
  | portDone (site queue seq : Nat)
  | hostData (pa : Nat) (data : List Byte)
  | report (bytes : List Byte)
  | mailBusy
  | register (off : Nat) (v : Word)
  deriving DecidableEq, Repr

/-- What the outside schedule does next (the model's own; log 10). -/
inductive Turn
  /-- the pipe of this arm issues in the present cycle, for the arm, which must be its choice (R247) -/
  | issue (a : ArmId)
  /-- GTC ticks pass -/
  | elapse (ticks : Nat)
  /-- the present cycle of the cores' clock ends -/
  | cycle
  /-- an event of another agent -/
  | event (i : Instr)
  deriving DecidableEq, Repr

/-- The schedule and the clocks. -/
structure Sched where
  /-- the arm whose unit is executed -/
  cur : Option ArmId
  agenda : List Turn
  gtc : Nat
  cycle : Nat
  hbeat : Nat
  fresh : Nat
  nextId : Nat
  /-- pipes that have issued in the present cycle (R84, R85) -/
  issued : List Nat
  /-- the unit tried last cannot issue yet -/
  waits : Bool
  deriving DecidableEq, Repr

/-- L1 caches, homes, messages, operations under way. -/
structure Coh where
  l1 : Store (Option L1Sec)
  dir : Store (Option DirEnt)
  /-- summary expiry by directory set (R158) -/
  summary : Store Nat
  net : List Msg
  ops : Store (Option Op)
  loads : Store (Option Load)
  /-- ownership requests outstanding: key sector * 256 + core -/
  owns : Store (Option (List OwnAct))
  /-- watches of other chips: sector, chip, token (R131) -/
  watches : List (Nat × Nat × Nat)
  poison : Store Bool
  /-- reads of agents that are no cores -/
  reads : Store (Option AgentRead)
  deriving DecidableEq, Repr

/-- Blocks, gangs, cores and engines. -/
structure Eng where
  tiles : Store (Option Tile)
  barriers : Store (Option Barrier)
  locks : List Lock
  acc : Store (Option AccSet)
  cmds : Store (Option Cmd)
  credits : Store (List Credit)
  fenced : List Nat
  deriving DecidableEq, Repr

/-- Walkers, allocator, abort records. -/
structure Alloc where
  launches : Store (Option Launch)
  teams : Store (Option Team)
  insts : Store (Option Inst)
  placed : Nat
  /-- 1 + the ring each walker served last in each class, for the round robin of R235: key die * 4 + class -/
  lastRing : Store Nat
  /-- allocator's refused or aborted records by die (R306) -/
  aborts : Store (Option (List Word))
  deriving DecidableEq, Repr

/-- The pod side. -/
structure Pod where
  chipId : BitVec 10
  ports : Store (Option Port)
  nextSeq : Store Nat
  remotes : Store (Option Remote)
  served : Store (Option Served)
  batches : List BatchRec
  dead : List Nat
  locked : Bool
  bounded : Bool
  offset : Int
  lastTime : Nat
  lostSince : Option Nat
  answering : Bool
  timeStarted : Bool
  /-- sectors that CPYV commands of other chips hold (R265): chip, export, offset, sector -/
  holds : List (Nat × Nat × Nat × Nat)
  deriving DecidableEq, Repr

/-- The Atrium of each die. -/
structure Atrium where
  positions : List Position
  refusals : List RefusedChild
  /-- failed groups, with the chip whose node failed (R302) -/
  failed : List (Nat × Nat)
  nextOp : Store Nat
  rloads : Store (Option RLoad)
  partials : List LoadPartial
  /-- when a node last moved a sector of an operation -/
  lastMove : Store Nat
  /-- result bytes delivered here, by group * 65536 + operation -/
  results : Store Nat
  /-- operations whose sectors or loads wait at this member for its driver: group, operation, since when (R298, R301) -/
  memberWaits : List (Nat × Nat × Nat)
  deriving DecidableEq, Repr

/-- Easel sites and translation. -/
structure Easel where
  sites : Store (Option Site)
  packets : List Packet
  tlb : List TlbEnt
  faults : List FaultRec
  /-- pages that the driver has answered as fatal, for the walkers that wait by trying again -/
  denied : List (Nat × Nat)
  xinvBusy : Bool
  nextInv : Nat
  /-- operations, loads, remote requests and agents' reads that an invalidation in progress waits for -/
  xinvOps : List Nat
  xinvLoads : List Nat
  xinvServed : List Nat
  xinvReads : List Nat
  deriving DecidableEq, Repr

/-- The Igyoron controller. -/
structure Mgmt where
  /-- 0 no power, 1 A to 4 D (R355) -/
  stage : Nat
  failCode : Nat
  failStage : Nat
  /-- registers and tables of BAR 0, by byte offset (R354) -/
  bar0 : Store Word
  faultTable : Store (List Word)
  fttail : Nat
  rollback : Nat
  watts : Nat
  gated : Nat
  /-- corrected errors per source in the present window (R316) -/
  errors : List (ErrSource × Nat)
  window : Nat
  badPorts : List Nat
  keys : List (Nat × Bool × Nat)
  stageDPending : Bool
  /-- a trip holds the part in Stage A until the host resets it (R362) -/
  tripped : Bool
  /-- a mailbox command has been written, and may still run (R357) -/
  mailRan : Bool
  /-- sources whose fault has been declared lasting (R316) -/
  lasting : List ErrSource
  /-- the digest of the firmware key in the controller's ROM, and that of the running firmware (R356, R357) -/
  romDigest : List Byte
  firmware : List Byte
  deriving DecidableEq, Repr

/-- The machine. -/
structure State where
  sched : Sched
  mem : Memory
  alloc : Alloc
  coh : Coh
  eng : Eng
  pod : Pod
  atrium : Atrium
  easel : Easel
  mgmt : Mgmt
  out : List OutMsg
  deriving DecidableEq, Repr

def PalEntry.invalid : PalEntry where
  ok := false
  space := 0
  base := 0
  limit := 0
  lease := 0
  target := 0
  rtype := 0
  rop := 0
  defpol := 0
  polmask := 0
  isSealed := false
  perm := 0
  ccore := 0
  cnt := false
  cblock := 0
  ctile := 0
  clamp := 0
  scale := 0
  format := 0
  eplane := 0
  splane := 0
  aux := 0
  recOk := false

/-- A join record at team start (R83). -/
def Join.init : Join := ⟨none, 0, 0, 0, false, 0⟩

/-- A barrier before its first phase. -/
def Barrier.init : Barrier := ⟨0, false, [], none⟩

/-- A directory entry with no coherence state. -/
def DirEnt.init : DirEnt := ⟨0, [], [], none, [], [], false, [], [], [], false⟩

/-- An accumulator set when its launch starts (R255). -/
def AccSet.init : AccSet := ⟨false, 0x3F800000#32, []⟩

/-- A lane at team start, before its generator is seeded (R83). -/
def Lane.init : Lane := ⟨[], 0, 0, 0, 0⟩

/-- BAR 0 registers with a reset value (R361, R316). -/
def bar0Reset : Store Word := [(0x20, 3000#64), (0x300040, 8#64)]

/-- The machine right after power-good: Stage A, nothing resident (R355). -/
def State.reset : State where
  sched := ⟨none, [], 0, 0, 0, 0, 0, [], false⟩
  mem := []
  alloc := ⟨[], [], [], 0, [], []⟩
  coh := ⟨[], [], [], [], [], [], [], [], [], []⟩
  eng := ⟨[], [], [], [], [], [], []⟩
  pod := ⟨0, [], [], [], [], [], [], false, false, 0, 0, none, true, false, []⟩
  atrium := ⟨[], [], [], [], [], [], [], [], []⟩
  easel := ⟨[], [], [], [], [], false, 0, [], [], [], []⟩
  mgmt := ⟨1, 0, 0, bar0Reset, [], 0, 0, 0, 0, [], 0, [], [], false, false, false, [], List.replicate 32 0, []⟩
  out := []

end Sys2Proof.Machine
end

