-- ==== Sys2Proof/Machine/Ops.lean ====
section
/-! DEFINITION. The named operations every meaning is built from: keys of memory and tables, lane masks, teams and arms,
taking a trap and returning from one, the issue of a unit. -/

namespace Sys2Proof.Machine

abbrev Out := Host.Outcome State Fault Refusal

/-! ### Words and bits -/

/-- Bits [lo + n - 1 : lo] of a number. -/
def bitsOf (x lo n : Nat) : Nat := x / 2 ^ lo % 2 ^ n

/-- Bits of a word. -/
def fld (x : Word) (lo n : Nat) : Nat := bitsOf x.toNat lo n

/-- A number as a signed two's complement value of `n` bits. -/
def signedOf (n x : Nat) : Int := if x < 2 ^ (n - 1) then (x : Int) else (x : Int) - (2 ^ n : Nat)

/-- An integer reduced modulo 2^n. -/
def wrapTo (n : Nat) (x : Int) : Nat := (x % ((2 ^ n : Nat) : Int)).toNat

/-- The value of little-endian bytes. -/
def leNat : List Byte → Nat
  | [] => 0
  | b :: r => b.toNat + 256 * leNat r

/-- `n` little-endian bytes of a number. -/
def leBytes : Nat → Nat → List Byte
  | 0, _ => []
  | n + 1, x => BitVec.ofNat 8 x :: leBytes n (x / 256)

/-- `n` cells from key `k` on, little-endian. -/
def cellsOf (k : Nat) : List Byte → List (Nat × Byte)
  | [] => []
  | b :: r => (k, b) :: cellsOf (k + 1) r

/-! ### Keys (the model's own numbering; log 9) -/

/-- Gallery offset `off` (R148) as a memory key. -/
def galleryKey (off : Nat) : Nat := 2 ^ 57 + off

/-- Byte `i` of the scratchpad of core `c` (R146) as a memory key. -/
def scratchKey (c i : Nat) : Nat := 2 ^ 58 + c * 2 ^ 20 + i

/-- A 64-byte sector of export `e` of chip `c` as a sector key (R156). -/
def podSector (c e off : Nat) : Nat := 2 ^ 60 + (c * 65536 + e) * 2 ^ 52 + off / 64

def l1Key (core sec : Nat) : Nat := sec * 256 + core
def tileKey (launch core block t : Nat) : Nat := ((launch * 256 + core) * 16 + block) * 16 + t
def barKey (launch core block b : Nat) : Nat := ((launch * 256 + core) * 16 + block) * 64 + b
def accKey (launch core a : Nat) : Nat := (launch * 256 + core) * 4 + a

/-- Column and row of core 16 y + x; its die and cluster (R2). -/
def coreX (c : Nat) : Nat := c % 16
def coreY (c : Nat) : Nat := c / 16
def coreDie (c : Nat) : Nat := if coreX c < 8 then 0 else 1
def coreCluster (c : Nat) : Nat := (coreY c / 2) * 8 + coreX c / 2

/-! The TLBs of the chip (R351): 0 and 1 of the dies, 2 to 49 of the clusters, 64 to 255 of the cores. -/
def dieUnit (d : Nat) : Nat := d
def clusterUnit (c : Nat) : Nat := 2 + coreCluster c
def coreUnit (c : Nat) : Nat := 64 + c

/-! ### Lane masks -/

/-- The lane mask in which `p` holds, of the first `n` lanes. -/
def maskOf (p : Nat → Bool) : Nat → LaneMask
  | 0 => 0
  | n + 1 => if p n then maskOf p n ||| ((1 : LaneMask) <<< n) else maskOf p n

/-- Lanes 0 to n - 1. -/
def firstLanes (n : Nat) : LaneMask := BitVec.ofNat 1024 (2 ^ n - 1)

/-- The lanes of a mask below `n`, ascending. -/
def lanesOf (m : LaneMask) : Nat → List Nat
  | 0 => []
  | n + 1 => lanesOf m n ++ (if m.getLsbD n then [n] else [])

def countLanes (m : LaneMask) (n : Nat) : Nat := (lanesOf m n).length

/-- TRAPINFO of a lane fault (R73): the lowest mask word with a failing lane, its number in [36:32]. -/
def laneInfoFrom (m : LaneMask) (w : Nat) : Nat → Word
  | 0 => 0
  | k + 1 =>
    let x := (m >>> (32 * w)).toNat % 2 ^ 32
    if x ≠ 0 then BitVec.ofNat 64 (w * 2 ^ 32 + x) else laneInfoFrom m (w + 1) k

def laneInfo (m : LaneMask) : Word := laneInfoFrom m 0 32

/-- Change the lanes of a mask (R8: `f` is given what was read before). -/
def mapLanes (m : LaneMask) (f : Nat → Lane → Lane) : Nat → List Lane → List Lane
  | _, [] => []
  | i, l :: r => (if m.getLsbD i then f i l else l) :: mapLanes m f (i + 1) r

/-! ### State access -/

def State.team? (s : State) (t : Nat) : Option Team := oget s.alloc.teams t

def State.setTeam (s : State) (t : Nat) (x : Team) : State :=
  { s with alloc := { s.alloc with teams := oset s.alloc.teams t (some x) } }

def State.delTeam (s : State) (t : Nat) : State :=
  { s with alloc := { s.alloc with teams := oset s.alloc.teams t none } }

def State.modTeam (s : State) (t : Nat) (f : Team → Team) : State :=
  match s.team? t with
  | none => s
  | some x => s.setTeam t (f x)

def State.launch? (s : State) (l : Nat) : Option Launch := oget s.alloc.launches l

def State.setLaunch (s : State) (l : Nat) (x : Option Launch) : State :=
  { s with alloc := { s.alloc with launches := oset s.alloc.launches l x } }

def State.modLaunch (s : State) (l : Nat) (f : Launch → Launch) : State :=
  match s.launch? l with
  | none => s
  | some x => s.setLaunch l (some (f x))

def Team.arm? (t : Team) (f : Bool) : Option Arm := if f then t.armF else t.armT

def Team.setArm (t : Team) (f : Bool) (a : Option Arm) : Team :=
  if f then { t with armF := a } else { t with armT := a }

def Team.modArm (t : Team) (f : Bool) (g : Arm → Arm) : Team := t.setArm f ((t.arm? f).map g)

def State.modArm (s : State) (t : Nat) (f : Bool) (g : Arm → Arm) : State := s.modTeam t (fun x => x.modArm f g)

/-- A number that names a new operation, load, command, launch, team or message. -/
def State.newId (s : State) : Nat × State :=
  (s.sched.nextId, { s with sched := { s.sched with nextId := s.sched.nextId + 1 } })

/-- A free value, fresh at each call (log 3). -/
def State.freeWord (s : State) : Word × State :=
  (Config.freeWord s.sched.fresh, { s with sched := { s.sched with fresh := s.sched.fresh + 1 } })

def State.emit (s : State) (m : OutMsg) : State := { s with out := s.out ++ [m] }

def State.bar0 (s : State) (off : Nat) : Word := sget 0 s.mgmt.bar0 off

def State.setBar0 (s : State) (off : Nat) (v : Word) : State :=
  { s with mgmt := { s.mgmt with bar0 := sset 0 s.mgmt.bar0 off v } }

/-- Memory with a list of cells written. -/
def State.putCells (s : State) (cells : List (Nat × Byte)) : State := { s with mem := Memory.putAll s.mem cells }

/-- Whether a launch is on its cores: a suspended launch's ranges and queue slots count for nothing (R282, R283). -/
def State.awake (s : State) (l : Nat) : Bool :=
  match s.launch? l with
  | some x => x.status ≠ .suspended
  | none => true

def State.teamsOf (s : State) (l : Nat) : List (Nat × Team) := (slist s.alloc.teams).filter (fun kt => kt.2.geom.launch = l)

def State.blockTeams (s : State) (l c b : Nat) : List (Nat × Team) :=
  (s.teamsOf l).filter (fun kt => kt.2.geom.core = c ∧ kt.2.geom.block = b)

/-- An event that is not enabled has no meaning at this state. -/
def whenEnabled (name : String) (p : Bool) (s' : State) : Out :=
  if p then .next s' else .refused (.notEnabled name)

/-! ### Registers of a lane and of a team -/

def Lane.reg (l : Lane) (r : Nat) : Word := sget 0 l.v r
def Lane.setReg (l : Lane) (r : Nat) (x : Word) : Lane := { l with v := sset 0 l.v r x }

/-- p0 reads true (R12). -/
def Lane.pred (l : Lane) (p : Nat) : Bool := p = 0 || l.p.getLsbD p

def setBit8 (x : BitVec 8) (i : Nat) (b : Bool) : BitVec 8 :=
  if b then x ||| ((1 : BitVec 8) <<< i) else x &&& ~~~((1 : BitVec 8) <<< i)

def Lane.setPred (l : Lane) (p : Nat) (b : Bool) : Lane := { l with p := setBit8 l.p p b }

def Team.greg (t : Team) (r : Nat) : Word := sget 0 t.g r
def Team.setG (t : Team) (r : Nat) (x : Word) : Team := { t with g := sset 0 t.g r x }

/-- q0 reads true (R12). -/
def Team.qpred (t : Team) (q : Nat) : Bool := q = 0 || t.q.getLsbD q
def Team.setQ (t : Team) (q : Nat) (b : Bool) : Team := { t with q := setBit8 t.q q b }

def Team.vMark (t : Team) (r : Nat) : Mark := sget .full t.vmark r
def Team.gMark (t : Team) (r : Nat) : Mark := sget .full t.gmark r
def Team.setVMark (t : Team) (r : Nat) (m : Mark) : Team := { t with vmark := sset .full t.vmark r m }
def Team.setGMark (t : Team) (r : Nat) (m : Mark) : Team := { t with gmark := sset .full t.gmark r m }

def Team.lane (t : Team) (L : Nat) : Lane := (t.lanes[L]?).getD Lane.init

/-- Predicate p as a lane mask. -/
def Team.predMask (t : Team) (p : Nat) : LaneMask := maskOf (fun L => (t.lane L).pred p) t.geom.lanes

def Team.join (t : Team) (j : Nat) : Join := sget Join.init t.joins j
def Team.setJoin (t : Team) (j : Nat) (x : Join) : Team := { t with joins := sset Join.init t.joins j x }

def Team.walker? (t : Team) (w : Nat) : Option Walker := oget t.walkers w
def Team.setWalker (t : Team) (w : Nat) (x : Option Walker) : Team := { t with walkers := oset t.walkers w x }

def Team.split (t : Team) : Bool := t.armF.isSome

/-! ### End of body (R65, R96) and the word after a unit -/

/-- The end-of-body check when the unit whose last word is at `last` completes: where the arm continues, its loops. -/
def bodyCheck : List LoopEntry → Word → Word × List LoopEntry
  | [], last => (last + 4, [])
  | l :: r, last =>
    if l.last = last then
      (if l.count - 1 ≠ 0 then (l.start, { l with count := l.count - 1 } :: r) else bodyCheck r last)
    else (last + 4, l :: r)

/-- The arm passes to the word after its unit of `len` bytes. -/
def Arm.advance (a : Arm) (len : Nat) : Arm :=
  let r := bodyCheck a.loops (a.pc + BitVec.ofNat 64 len - 4)
  { a with pc := r.1, loops := r.2 }

/-! ### Aborting a launch and taking a trap -/

/-- Words of an abort record (R306). -/
def abortWords (nested : Bool) (code node : Nat) (seq : BitVec 32) (pc info : Word) (g : TeamGeom) (f : Bool) (gtc : Nat) :
    List Word :=
  [BitVec.ofNat 64 (2 ^ 63 + (if nested then 2 ^ 62 else 0) + code * 2 ^ 48 + node * 2 ^ 32 + seq.toNat), pc, info,
   BitVec.ofNat 64 (coreX g.core + coreY g.core * 256 + coreDie g.core * 65536 + g.index * 2 ^ 24 + g.block * 2 ^ 28
     + (if f then 2 ^ 32 else 0)),
   BitVec.ofNat 64 gtc, 0, 0, 0]

/-- A CPYV that has asked for its version word's sector goes on to its end (R312). -/
def Cmd.mustEnd (c : Cmd) : Bool :=
  match c.kind with
  | .cpyv _ => decide (2 ≤ c.got)
  | _ => false

/-- The chips in a team's peer sets, those of batches being closed among them (R132, R329). -/
def Team.allPeers (t : Team) : List Nat :=
  (t.peers.flatMap (fun p => p.2.map (·.1)) ++ (slist t.closes).flatMap (fun c => c.2.waiting ++ c.2.failed)).dedup

/-! ### Messages to other chips (R327) -/

/-- This chip's number. -/
def State.self (s : State) : Nat := s.pod.chipId.toNat

/-- The route entry of a chip (R327); every entry reads invalid until Stage D (R355). -/
def State.routeWord (s : State) (c : Nat) : Word := if s.mgmt.stage = 4 then s.bar0 (0x800000 + 8 * c) else 0

def State.portUp (s : State) (p : Nat) : Bool :=
  match oget s.pod.ports p with
  | some x => x.up
  | none => false

/-- The ports of a chip's mask that are up. -/
def State.upPorts (s : State) (c : Nat) (tried : List Nat) : List Nat :=
  (List.range 48).filter (fun p => (s.routeWord c).getLsbD p && s.portUp p && !tried.contains p)

/-- Whether a new request to a chip leaves, or is refused at once as unreachable (R327, R332). -/
def State.reachable (s : State) (c : Nat) : Bool :=
  (s.routeWord c).getLsbD 63 && decide (c ≠ s.self) && !s.pod.dead.contains c

/-- The port of a request: by the hash of its sector over the mask's ports that are up (R327). -/
def State.pickPort (s : State) (c sec : Nat) (tried : List Nat) : Option Nat :=
  let ps := s.upPorts c tried
  ps[Config.portHash sec % ps.length]?

/-- The number of a port's next flit under its key, which the flit counter of R299 never repeats (R358). -/
def Port.next (x : Port) : Nat := if 2 ^ 48 ≤ x.flits then 0 else x.flits
def State.flitNo (s : State) (p : Nat) : Nat := ((oget s.pod.ports p).map Port.next).getD 0

/-- A new key for a port: its flit counter starts again (R358). -/
def State.rekey (s : State) (p : Nat) : State :=
  match oget s.pod.ports p with
  | none => s
  | some x =>
    { s with pod := { s.pod with ports := oset s.pod.ports p (some { x with flits := 0, epoch := x.epoch + 1 }) } }.emit
      (.linkKey p (x.epoch + 1))

/-- A flit leaves on a port (R299, R323); a key under which 2^48 have gone is changed first (R358). -/
def State.sendFlit (s : State) (p : Nat) : State :=
  let s := if (oget s.pod.ports p).any (fun x => decide (2 ^ 48 ≤ x.flits)) then s.rekey p else s
  { s with pod := { s.pod with ports := oset s.pod.ports p ((oget s.pod.ports p).map (fun x =>
    { x with lastTx := s.sched.gtc, flits := x.flits + 1 })) } }

/-- A message of the pod's own leaves for a chip on the port that its sector picks (R327); one for this chip comes back to it (log 11).
Where no route is valid or no port is up, it does not leave. -/
def State.sendOut (s : State) (chip sec : Nat) (m : OutMsg) : State :=
  if chip = s.self then s.emit m
  else if (s.routeWord chip).getLsbD 63 then
    match s.pickPort chip sec [] with
    | some p => (s.sendFlit p).emit (.via p (s.flitNo p) m)
    | none => s
  else s

/-- A team that ends tells every peer in its peer sets, which frees its batch records there (R329). -/
def State.endNotices (s : State) (tid : Nat) (t : Team) : State := t.allPeers.foldl (fun s c => s.sendOut c 0 (.endNotice c tid)) s

/-- A launch that has stopped goes (R306, R233): its teams, loads, reads, commands, locks, tiles, barriers and sets, and the stopped
packets of a suspended one. -/
def State.dropLaunch (s : State) (l code : Nat) : State :=
  let dead := (s.teamsOf l).map (·.1)
  let saved := !s.awake l
  let s := (s.teamsOf l).foldl (fun s t => s.endNotices t.1 t.2) s
  let s := s.modLaunch l (fun x => { x with status := .aborting code s.sched.gtc, saved := [], slots := [] })
  { s with
    alloc := { s.alloc with teams := s.alloc.teams.filter (fun kt => !dead.contains kt.1) }
    coh := { s.coh with
      loads := s.coh.loads.filter (fun kl => match kl.2 with | some x => !dead.contains x.team | none => false)
      ops := s.coh.ops.filter (fun ko => match ko.2 with
        | some x => !(dead.contains x.team && x.kind = OpKind.load) | none => false)
      reads := s.coh.reads.filter (fun kr => match kr.2 with
        | some x => (match x.who with
          | .arm a => a.team / 65536 ≠ l
          | .launch id => id ≠ l
          | .cmd c => (match oget s.eng.cmds c with | some y => y.launch ≠ l || y.mustEnd | none => false)
          | _ => true)
        | none => false) }
    easel := { s.easel with packets := s.easel.packets.filter (fun p => !(saved && p.team / 65536 = l)) }
    eng := { s.eng with
      cmds := s.eng.cmds.filter (fun kc => match kc.2 with | some x => x.launch ≠ l || x.mustEnd | none => false)
      locks := s.eng.locks.filter (fun k => match oget s.eng.cmds k.cmd with
        | some x => x.launch ≠ l || x.mustEnd | none => true)
      tiles := s.eng.tiles.filter (fun kt => kt.1 / 65536 ≠ l)
      barriers := s.eng.barriers.filter (fun kb => kb.1 / 262144 ≠ l)
      acc := s.eng.acc.filter (fun ka => ka.1 / 1024 ≠ l) } }

/-- GTC at which a launch was asked to stop, for a pre-emption or for good (R306, R308). -/
def Launch.since? (l : Launch) : Option Nat :=
  match l.status with
  | .stopping t => some t
  | .aborting _ t => some t
  | .waiting => none
  | .resident => none
  | .suspended => none

/-- Whether a launch is being stopped. -/
def Launch.isStopping (l : Launch) : Bool := l.since?.isSome

def State.isStopping (s : State) (l : Nat) : Bool := ((s.launch? l).map Launch.isStopping).getD false

def Launch.isAborting (l : Launch) : Bool :=
  match l.status with
  | .aborting _ _ => true
  | _ => false

/-- A launch is to stop for good (R306, R233): it is stopped as for a pre-emption and nothing is saved; its queued engine commands are
discarded. One that is suspended has stopped. -/
def State.haltLaunch (s : State) (l code : Nat) : State :=
  if s.awake l then
    let queued := fun (c : Cmd) => c.launch = l && !c.started
    let s := s.modLaunch l (fun x => if x.isAborting then x else { x with status := .aborting code s.sched.gtc })
    { s with eng := { s.eng with
      cmds := s.eng.cmds.filter (fun kc => match kc.2 with | some x => !queued x | none => false)
      locks := s.eng.locks.filter (fun k => match oget s.eng.cmds k.cmd with | some x => !queued x | none => true) } }
  else s.dropLaunch l code

/-- Abort with an abort record on the die of the core (R306); a launch that is being aborted already makes no other record. -/
def State.abortLaunch (s : State) (nested : Bool) (code : Nat) (pc info : Word) (g : TeamGeom) (f : Bool) : State :=
  let li := s.launch? g.launch
  let node := (li.map (·.node)).getD 0
  let seq := ((li.bind (fun l => oget s.alloc.insts l.inst)).map (·.seq)).getD 0
  let s := if (li.map Launch.isAborting).getD false then s else { s with alloc := { s.alloc with
    aborts := oset s.alloc.aborts (coreDie g.core) (some (abortWords nested code node seq pc info g f s.sched.gtc)) } }
  s.haltLaunch g.launch 3

/-- A paused arm goes on after its PAUSE. -/
def Arm.wake (a : Arm) : Arm := ({ a with wait := .ready } : Arm).advance 4

/-- The end of a park under PAUSE. -/
def Arm.unpark (a : Arm) : Arm :=
  match a.wait with
  | .paused _ _ => a.wake
  | _ => a

/-- Taking a trap (R304): the arm `f` of team `tid` is suspended at the unit at `pc`; the trap registers are written; the
arm enters the handler, or the launch aborts. An arm that is to stop (R308) stops before the handler's first word
(R315). A trap ends a park (R90); an arm that is parked raises none itself, so it is a trap of the team's other arm (DEDUCED, log 120). -/
def takeTrap (s : State) (tid : Nat) (f : Bool) (pc : Word) (len code : Nat) (info : Word) : State :=
  match s.team? tid with
  | none => s
  | some t =>
    match t.arm? f with
    | none => s
    | some a =>
      if t.trap.vec = 0 ∨ a.inHandler then
        (s.setTeam tid ({ t with trap := ⟨t.trap.vec, pc, BitVec.ofNat 8 code, info, len⟩ }.setArm f
          (some { a with stopped := true }))).abortLaunch a.inHandler code pc info t.geom f
      else
        s.setTeam tid (({ t with trap := ⟨t.trap.vec, pc, BitVec.ofNat 8 code, info, len⟩ }.modArm (!f) Arm.unpark).setArm f
          (some { a with
            pc := t.trap.vec
            inHandler := true
            wait := .ready
            stopped := a.stopped || s.isStopping t.geom.launch }))

/-- The return from a trap (R305, R96): the arm resumes after the trapping unit, or at it. -/
def leaveTrap (t : Team) (a : Arm) (replay : Bool) : Arm :=
  if replay then { a with pc := t.trap.pc, inHandler := false }
  else ({ a with pc := t.trap.pc, inHandler := false } : Arm).advance t.trap.len

/-! ### Trap codes (R303) -/
namespace Code
def illop : Nat := 0x01
def illreg : Nat := 0x02
def empty : Nat := 0x03
def alignShape : Nat := 0x04
def alignIssue : Nat := 0x05
def alignAccess : Nat := 0x06
def bounds : Nat := 0x07
def handle : Nat := 0x08
def policy : Nat := 0x09
def xlateFatal : Nat := 0x0B
def rangeLocked : Nat := 0x0C
def sealedReduce : Nat := 0x0D
def mcastRange : Nat := 0x0E
def remoteLost : Nat := 0x0F
def barrier : Nat := 0x10
def join : Nat := 0x11
def tile : Nat := 0x12
def guest : Nat := 0x13
def soft : Nat := 0x14
def loop : Nat := 0x15
def pfx : Nat := 0x16
def user : Nat := 0x20
def group : Nat := 0x80
end Code

/-! ### The issue of a unit -/

/-- What the effect of a unit answers. -/
inductive Res
  /-- the unit completes; the arm passes to the word after it -/
  | done (s : State)
  /-- the unit completes and has set where its arm continues -/
  | jump (s : State)
  /-- the unit traps and leaves no effect -/
  | trap (code : Nat) (info : Word)
  /-- the unit cannot issue yet; nothing changes -/
  | wait
  /-- the arm stays at the unit in the state given -/
  | stay (s : State)
  /-- the arm parks at the unit until pages have translated (R73, R307) -/
  | park (pages : List (Nat × Bool × Bool))

/-- What a unit sees of its arm. `walk` holds, for each walker register it reads, the element of each lane. -/
structure Ctx where
  tid : Nat
  f : Bool
  t : Team
  a : Arm
  /-- executing lanes of a lane-side unit (R41) -/
  ex : LaneMask
  len : Nat
  walk : List (Nat × List (Nat × Word))
  /-- the state before the unit -/
  s0 : State

/-- Lane L's value of source register r: the walker's element when one is bound (R92). -/
def Ctx.src (k : Ctx) (L : Nat) (l : Lane) (r : Nat) : Word :=
  match k.walk.find? (fun e => e.1 = r) with
  | none => l.reg r
  | some e => ((e.2.find? (fun q => q.1 = L)).map (·.2)).getD 0

/-- The registers of a unit: v and g sources with their trap-on-empty bits, destinations, whether a predicate destination
is p0 or q0, its guard. -/
structure Use where
  vr : List (Nat × Bool) := []
  vw : List Nat := []
  gr : List (Nat × Bool) := []
  gw : List Nat := []
  badPred : Bool := false
  /-- g registers that are named and not read -/
  gn : List Nat := []
  /-- named barriers (R13) -/
  bars : List Nat := []
  /-- v registers that are named, not read as operands, and waited for -/
  vn : List Nat := []
  /-- lane guard, of a lane-side unit -/
  pg : Option Nat := none
  /-- uniform guard -/
  qg : Nat := 0

/-- The words a trap at decode records (R33): a command pair whole, else the instruction word alone (log 20). -/
def unitWords (i : Instr) : Word :=
  match encode i with
  | [w] => BitVec.ofNat 64 w
  | [w0, w1] => BitVec.ofNat 64 (match i with | .ord .. => w1 | .ext .. => w1 | _ => w0 * 2 ^ 32 + w1)
  | _ => 0

/-- Length of a unit in bytes (R26, R27). -/
def unitBytes (i : Instr) : Nat := 4 * (encode i).length

/-- ILLREG of R13 and R92. -/
def Use.illReg (u : Use) (t : Team) : Bool :=
  u.badPred || u.vr.any (fun r => decide (t.geom.vcount ≤ r.1)) || u.vw.any (fun r => decide (t.geom.vcount ≤ r))
    || u.vn.any (fun r => decide (t.geom.vcount ≤ r))
    || u.gr.any (fun r => decide (t.geom.gregs ≤ r.1)) || u.gw.any (fun r => decide (t.geom.gregs ≤ r))
    || u.gn.any (fun r => decide (t.geom.gregs ≤ r)) || u.bars.any (fun b => decide (t.geom.barriers ≤ b))
    || u.vw.any (fun r => decide (60 ≤ r) && (t.walker? (r - 60)).isSome)

/-- The first source that traps EMPTY (R16), which TRAPINFO names where several do (DESIGN CHOICE, log 51). -/
def Use.emptyTrap (u : Use) (t : Team) : Option Word :=
  match u.vr.find? (fun r => r.2 && t.vMark r.1 = .empty) with
  | some r => some (BitVec.ofNat 64 r.1)
  | none =>
    match u.gr.find? (fun r => r.2 && t.gMark r.1 = .empty) with
    | some r => some (BitVec.ofNat 64 (256 + r.1))
    | none => none

/-- Whether a register read or written is empty (R42). -/
def Use.waits (u : Use) (t : Team) : Bool :=
  u.vr.any (fun r => t.vMark r.1 = .empty) || u.vw.any (fun r => t.vMark r = .empty) || u.vn.any (fun r => t.vMark r = .empty)
    || u.gr.any (fun r => t.gMark r.1 = .empty) || u.gw.any (fun r => t.gMark r = .empty)

/-- The trap of the first lost or poisoned v register among the sources (R75, R318). -/
def markTrap (t : Team) (ex : LaneMask) : List (Nat × Bool) → Option (Nat × Word)
  | [] => none
  | r :: rest =>
    match t.vMark r.1 with
    | .lost c => some (Code.remoteLost, BitVec.ofNat 64 (c + r.1 * 65536))
    | .poison m => if m &&& ex = 0 then markTrap t ex rest else some (Code.soft, laneInfo (m &&& ex))
    | _ => markTrap t ex rest

/-- A write without a read clears a lost or poisoned mark (R42). -/
def Use.clearMarks (u : Use) (t : Team) : Team := u.vw.foldl (fun t r => t.setVMark r .full) t

/-- Whether a walker is bound to a v register. -/
def Team.walkerOf (t : Team) (r : Nat) : Option Walker := if 60 ≤ r then t.walker? (r - 60) else none

/-- Outcome of reading the walkers a unit names (R92, R94). -/
inductive WalkRes
  | ok (t : Team) (els : List (Nat × List (Nat × Word)))
  | trap (code : Nat) (info : Word)
  | wait
  | park (pages : List (Nat × Bool × Bool))

/-- Whether a load or atomic of an arm still waits for values (R308). -/
def State.liveLoad (s : State) (a : Arm) : Bool :=
  a.ops.any (fun o => match oget s.coh.ops o with | some x => x.kind = .load | none => false)

/-- The unit tried cannot issue yet (R42, R73, R251): nothing but that is noted. -/
def State.blocked (s : State) : State := { s with sched := { s.sched with waits := true } }

/-- Whether the other arm of a team is in its handler, so that this one issues nothing (R108). -/
def Team.inOther (t : Team) (f : Bool) : Bool := ((t.arm? (!f)).map (·.inHandler)).getD false

/-- Whether an arm that is not kept from it by its own wait may issue: resident launch, or one being stopped until the arm's
loads have their values and for at most 2 µs (R308), not stopped, the other arm not in a handler (R108), lanes to issue for
(R101). -/
def armRuns (s : State) (t : Team) (f : Bool) (a : Arm) : Bool :=
  !a.stopped && a.active ≠ 0
    && !t.inOther f
    && (match s.launch? t.geom.launch with
        | some l => (match l.since? with
          | some since => s.liveLoad a && decide (s.sched.gtc < since + 2000)
          | none => l.status = .resident)
        | none => false)
    && !s.eng.fenced.contains t.geom.core

/-- The TRAPINFO of a trap that an arm has to take before anything else (R307). -/
def Arm.due? (a : Arm) : Option Word :=
  match a.wait with
  | .fatal info => some info
  | _ => none

/-- Whether an arm takes the trap that is due of it when it next issues, also while its launch is being stopped (R315). When one is
due of both arms, arm T's is taken first (R108). -/
def armTakes (s : State) (t : Team) (f : Bool) (a : Arm) : Bool :=
  !a.stopped && a.active ≠ 0 && a.due?.isSome && !t.inOther f
    && !(f && ((t.armT.bind Arm.due?).isSome && (t.armT.map (fun x => !x.stopped && decide (x.active ≠ 0))).getD false))
    && (match s.launch? t.geom.launch with
        | some l => l.isStopping || l.status = .resident
        | none => false)
    && !s.eng.fenced.contains t.geom.core

/-- The arms whose next unit may issue. -/
def armMayIssue (s : State) (t : Team) (f : Bool) (a : Arm) : Bool := a.wait = .ready && armRuns s t f a

/-- Close a unit (R10, R26, R96). -/
def finish (s : State) (tid : Nat) (f : Bool) (len : Nat) : State := s.modArm tid f (fun a => a.advance len)

/-- Park an arm at its unit until pages have translated (R73, R307). -/
def parkArm (s : State) (tid : Nat) (f : Bool) (ps : List (Nat × Bool × Bool)) : State :=
  s.modArm tid f (fun a => { a with wait := .xlate ps })

/-- What a unit's answer makes of the machine. -/
def Res.out (r : Res) (s : State) (tid : Nat) (f : Bool) (pc : Word) (len : Nat) : Out :=
  match r with
  | .done s' => .next (finish s' tid f len)
  | .jump s' => .next s'
  | .trap code info => .next (takeTrap s tid f pc len code info)
  | .wait => .next s.blocked
  | .stay s' => .next s'
  | .park ps => .next (parkArm s tid f ps)

/-- The arm of an identity, with its team. -/
def State.armOf (s : State) (a : ArmId) : Option (Team × Arm) :=
  (s.team? a.team).bind (fun t => (t.arm? a.f).map (fun x => (t, x)))

/-- An arm stops for a pre-emption, which ends a park under PAUSE (R90, R308). -/
def Arm.stop (a : Arm) : Arm := { a.unpark with stopped := true }

/-- Cycles after which a park under PAUSE ends, without a watch and with one (R90). -/
def pauseLimit (watch : Option Nat) : Nat := if watch.isSome then 4096 else 64

/-- The current arm with its team. -/
def State.curArm (s : State) : Option (Nat × Bool × Team × Arm) :=
  match s.sched.cur with
  | none => none
  | some i =>
    match s.team? i.team with
    | none => none
    | some t => (t.arm? i.f).map (fun a => (i.team, i.f, t, a))

end Sys2Proof.Machine
end

