-- ==== Sys2Proof/Machine/Addr.lean ====
section
/-! DEFINITION. Palette entries, handles, the address an offset forms in each space, page tables and TLBs (R142 to R154,
R347 to R351, R367), range locks (R280). -/

namespace Sys2Proof.Machine

/-! ### Space codes (R142) -/
namespace Sp
def lane : Nat := 1
def core : Nat := 2
def gang : Nat := 3
def gallery : Nat := 4
def device : Nat := 5
def pod : Nat := 6
def mcast : Nat := 7
def host : Nat := 8
def net : Nat := 9
def gangcast : Nat := 10
end Sp

/-- Bits of an element of a tensor format (R150); 0 for no format. -/
def fmtBits (f : Nat) : Nat :=
  match f with
  | 0x01 => 64 | 0x02 => 32 | 0x03 => 16 | 0x04 => 16
  | 0x10 => 8 | 0x11 => 8 | 0x12 => 6 | 0x13 => 6 | 0x14 => 4
  | 0x15 => 2 | 0x16 => 4 | 0x17 => 8 | 0x18 => 8
  | 0x20 => 8 | 0x21 => 16 | 0x22 => 32 | 0x23 => 64
  | 0x24 => 8 | 0x25 => 16 | 0x26 => 32 | 0x27 => 64
  | _ => 0

/-- Legal SCALE of a format code (R150). -/
def fmtScaleOk (f sc : Nat) : Bool :=
  if f = 0 then sc = 0
  else if 0x10 ≤ f ∧ f ≤ 0x14 then sc ≤ 1
  else if 0x15 ≤ f ∧ f ≤ 0x17 then sc = 2
  else fmtBits f ≠ 0 && sc = 0

/-- The largest finite value of a format as the greatest binary32 CLAMP it admits (R150), by its bits; formats whose
largest value is above binary32's admit every finite one. SM2, SM4 and SM8 have the largest magnitudes of R219. -/
def clampMax (f : Nat) : Nat :=
  match f with
  | 0x03 => 0x477FE000 | 0x04 => 0x7F7F0000
  | 0x10 => 0x43E00000 | 0x11 => 0x47600000 | 0x12 => 0x40F00000 | 0x13 => 0x41E00000 | 0x14 => 0x40C00000
  | 0x15 => 0x3F800000 | 0x16 => 0x3FE00000 | 0x17 => 0x3FFE0000 | 0x18 => 0x7F000000
  | 0x20 => 0x42FE0000 | 0x21 => 0x46FFFE00 | 0x24 => 0x437F0000 | 0x25 => 0x477FFF00
  | 0x22 => 0x4EFFFFFF | 0x26 => 0x4F7FFFFF | 0x23 => 0x5EFFFFFF | 0x27 => 0x5F7FFFFF
  | _ => 0x7F7FFFFF

/-- The policies a space permits as a mask (R142). -/
def spaceMask (sp : Nat) : Nat :=
  if sp = Sp.device then 15
  else if sp = Sp.pod ∨ sp = Sp.mcast ∨ sp = Sp.host then 9
  else if sp = Sp.net then 0 else 15

/-- What bounds an entry: the block's scratch size, the gang's core count, lanes of the block's teams. -/
structure PalCtx where
  scratch : Nat
  gang : Nat
  lanes : Nat
  teams : Nat

/-- The largest BASE + LIMIT of a space (R142, R146 to R149). -/
def spaceBound (k : PalCtx) (sp : Nat) : Nat :=
  if sp = Sp.core ∨ sp = Sp.gangcast ∨ sp = Sp.lane then k.scratch
  else if sp = Sp.gang then k.gang * k.scratch
  else if sp = Sp.gallery then 2 ^ 27
  else 2 ^ 57

/-- A palette entry from its eight words (R144, R145). A CCORE above 191 makes it invalid (DESIGN CHOICE, log 131), and a CLAMP of -0
makes its record wrong (DESIGN CHOICE, log 132). -/
def parseEntry (k : PalCtx) (w : List Word) : PalEntry :=
  let w0 := ((w[0]?).getD 0).toNat
  let w1 := ((w[1]?).getD 0).toNat
  let w2 := ((w[2]?).getD 0).toNat
  let w3 := ((w[3]?).getD 0).toNat
  let w4 := ((w[4]?).getD 0).toNat
  let w5 := ((w[5]?).getD 0).toNat
  let w6 := ((w[6]?).getD 0).toNat
  let w7 := ((w[7]?).getD 0).toNat
  let sp := w2 % 16
  let cnt := bitsOf w3 8 1
  let pm := bitsOf w2 12 4
  let target := bitsOf w2 32 10
  let rtype := bitsOf w2 22 2
  let rop := bitsOf w2 20 2
  let sealB := bitsOf w2 11 1
  let aux := w7 % 2 ^ 32
  let ccore := bitsOf w3 16 8
  let fmt := w4 % 256
  let sc := bitsOf w4 8 2
  let clamp := bitsOf w4 32 32
  let resOk := w0 < 2 ^ 57 && w1 < 2 ^ 57 && bitsOf w2 42 6 = 0 && bitsOf w2 24 8 = 0 && bitsOf w2 18 2 = 0
    && bitsOf w2 4 4 = 0 && bitsOf w3 24 40 = 0 && bitsOf w3 9 7 = 0 && bitsOf w4 10 22 = 0 && w5 < 2 ^ 57
    && w6 < 2 ^ 57 && w7 < 2 ^ 32
  let polOk := if sp = Sp.net then pm = 0 else pm ≠ 0 && pm &&& spaceMask sp = pm
  let laneOk := sp ≠ Sp.lane || (aux % 8 = 0 && w1 ≤ aux && w0 + k.teams * k.lanes * aux ≤ k.scratch)
  let boundOk := sp = Sp.lane || w0 + w1 ≤ spaceBound k sp
  let countable := sp = Sp.core ∨ sp = Sp.gang ∨ sp = Sp.gangcast ∨ sp = Sp.gallery ∨ sp = Sp.device ∨ sp = Sp.pod
  let cntOk := decide countable || cnt = 0
  let restr :=
    (sp = Sp.pod || (sp = Sp.mcast && target < 256) || target = 0)
      && (sp = Sp.mcast && rop ≠ 3 || (rtype = 0 && rop = 0))
      && (sealB = 0 || sp = Sp.pod || sp = Sp.mcast)
      && (ccore = 0 || ((sp = Sp.gallery || sp = Sp.device || sp = Sp.pod) && ccore < 192))
      && (aux = 0 || sp = Sp.lane || sp = Sp.net || ((sp = Sp.pod || sp = Sp.mcast) && aux < 65536))
  let fin := clamp / 2 ^ 31 = 0 && clamp ≤ clampMax fmt
  let recOk := fmtScaleOk fmt sc && fin && (fmt ≠ 0 || clamp = 0) && w5 % 64 = 0 && w6 % 64 = 0
    && (fmt ≠ 0 || (w5 = 0 && w6 = 0)) && (sc ≠ 0 || w6 = 0)
  { ok := 1 ≤ sp && sp ≤ 10 && resOk && w0 % 64 = 0 && polOk && laneOk && boundOk && cntOk && restr
    space := sp
    base := w0
    limit := w1
    lease := w2 / 2 ^ 48
    target := target
    rtype := rtype
    rop := rop
    defpol := bitsOf w2 16 2
    polmask := pm
    isSealed := sealB = 1
    perm := bitsOf w2 8 3
    ccore := ccore
    cnt := cnt = 1
    cblock := bitsOf w3 4 4
    ctile := w3 % 16
    clamp := BitVec.ofNat 32 clamp
    scale := sc
    format := fmt
    eplane := w5
    splane := w6
    aux := aux
    recOk := recOk }

/-- The valid entry a handle names in a team (R72); none for a handle that HANDLE refuses. -/
def Team.handle (s : State) (t : Team) (h : Word) : Option PalEntry :=
  if 512 ≤ h.toNat then none
  else if h.toNat < 256 then
    match s.launch? t.geom.launch with
    | none => none
    | some l =>
      let e := sget PalEntry.invalid l.pal h.toNat
      if e.ok then some e else none
  else if h.toNat < 272 then oget t.slots (h.toNat - 256)
  else none

def PalEntry.canRead (e : PalEntry) : Bool := e.perm % 2 = 1
def PalEntry.canWrite (e : PalEntry) : Bool := bitsOf e.perm 1 1 = 1
def PalEntry.canAtomic (e : PalEntry) : Bool := bitsOf e.perm 2 1 = 1
/-- LEASE in ticks; 0 selects 1,024 (R144, R159). -/
def PalEntry.leaseTicks (e : PalEntry) : Nat := if e.lease = 0 then 1024 else e.lease
/-- Whether the space is cached (R155). -/
def PalEntry.bank (e : PalEntry) : Bool := e.space ≤ 4 || e.space = Sp.gangcast

/-! ### Where an access lies -/

/-- The place of the first byte of an access. -/
inductive Place
  /-- a scratchpad or Gallery byte, by memory key -/
  | bank (key : Nat)
  /-- a virtual address of the launch's context -/
  | va (addr : Nat)
  | pod (chip exp off : Nat)
  | mcast (group exp off : Nat)
  | none
  deriving DecidableEq, Repr

def Launch.gangW (l : Launch) : Nat := 2 ^ l.lr.gw
def Launch.gangH (l : Launch) : Nat := 2 ^ l.lr.gh

/-- Column and row of a core in its gang (R68). -/
def Launch.inGang (l : Launch) (core : Nat) : Nat × Nat := ((coreX core - l.x0) % l.gangW, (coreY core - l.y0) % l.gangH)

/-- Core k = row * W + column of the gang of a core (R120, R147). -/
def Launch.gangCore (l : Launch) (core k : Nat) : Nat :=
  let p := l.inGang core
  (coreY core - p.2 + k / l.gangW) * 16 + (coreX core - p.1 + k % l.gangW)

/-- The scratchpad key of byte `a` of block b's allocation on a core. -/
def Launch.allocKey (l : Launch) (core b a : Nat) : Nat := scratchKey core (sget 0 l.scratchAt (core * 16 + b) + a)

/-- Address formation (R146 to R149) for lane L of a team on the team's core; engines pass lane 0. -/
def placeOf (l : Launch) (g : TeamGeom) (e : PalEntry) (L o : Nat) : Place :=
  if e.space = Sp.lane then .bank (l.allocKey g.core g.block (e.base + (g.index * g.lanes + L) * e.aux + o))
  else if e.space = Sp.core ∨ e.space = Sp.gangcast then .bank (l.allocKey g.core g.block (e.base + o))
  else if e.space = Sp.gang then
    let a := e.base + o
    .bank (l.allocKey (l.gangCore g.core (a / l.lr.scratch)) g.block (a % l.lr.scratch))
  else if e.space = Sp.gallery then .bank (galleryKey (e.base + o))
  else if e.space = Sp.device ∨ e.space = Sp.host then .va (e.base + o)
  else if e.space = Sp.pod then .pod e.target e.aux (e.base + o)
  else if e.space = Sp.mcast then .mcast e.target e.aux (e.base + o)
  else .none

/-- Whether an access of n bytes at gang offset crosses two cores (R147). -/
def crosses (l : Launch) (e : PalEntry) (o n : Nat) : Bool :=
  e.space = Sp.gang && decide ((e.base + o) / l.lr.scratch ≠ (e.base + o + n - 1) / l.lr.scratch)

/-! ### Range locks (R253, R280) -/

/-- The `n` bytes from a place on as the range locks compare them, in address space `ctx`. -/
def Place.span (ctx n : Nat) : Place → Option Span
  | .bank k => some ⟨0, 0, k, k + n⟩
  | .va a => some ⟨1, ctx, a, a + n⟩
  | .pod c e o => some ⟨2, (ctx * 1024 + c) * 65536 + e, o, o + n⟩
  | .mcast .. => Option.none
  | .none => Option.none

def Span.overlaps (p q : Span) : Bool := p.cls = q.cls && p.tag = q.tag && decide (p.lo < q.hi) && decide (q.lo < p.hi)

def Lock.span (k : Lock) : Span := ⟨k.cls, k.tagA, k.lo, k.hi⟩

/-- Whether bytes overlap a range held in the range-lock table of a core. -/
def lockedAt (s : State) (core ctx : Nat) (p : Place) (n : Nat) : Bool :=
  match p.span ctx n with
  | none => false
  | some x => s.eng.locks.any (fun k => k.core = core && s.awake k.launch && x.overlaps k.span)

/-! ### Waking (R90) -/

/-- A write committed in a sector: arms that watch it wake, other chips' watches are answered (R90, R131,
R330). -/
def State.wakeSector (s : State) (sec : Nat) : State :=
  let g := fun (a : Arm) => match a.wait with
    | .paused _ (some x) => if x = sec then a.wake else a
    | _ => a
  let s := { s with alloc := { s.alloc with teams := smap s.alloc.teams (fun _ t =>
    { t with armT := t.armT.map g, armF := t.armF.map g }) } }
  let hit := s.coh.watches.filter (fun w => w.1 = sec)
  { s with
    coh := { s.coh with watches := s.coh.watches.filter (fun w => w.1 ≠ sec) }
    out := s.out ++ (if s.pod.answering then hit.map (fun w => OutMsg.wake w.2.1 w.2.2) else []) }

/-! ### Coherent view of memory by physical sector -/

/-- Whether a physical address reaches memory (R367). -/
def reaches (pa : Nat) : Bool := pa < 2 ^ 39 || (2 ^ 56 ≤ pa && pa < 2 ^ 57)

/-! The map of HBM (R367): a byte's die, stack, place in the stack, and the slice that is its sector's home. -/
def paDie (pa : Nat) : Nat := bitsOf pa 38 1
def paStack (pa : Nat) : Nat := bitsOf pa 8 2
def paStackByte (pa : Nat) : Nat := bitsOf pa 10 28 * 256 + bitsOf pa 0 8
def paSlice (pa : Nat) : Nat := bitsOf pa 8 5

/-- The home of a sector: one of 64 slices, numbered die * 32 + slice, or the host bridge, 64 (R156, R367). -/
def homeOf (sec : Nat) : Nat := if sec * 64 < 2 ^ 39 then paDie (sec * 64) * 32 + paSlice (sec * 64) else 64

/-- The directory set of a sector: one of its home's (R158). -/
def dirSetOf (sec : Nat) : Nat := homeOf sec * 2 ^ 40 + Config.dirSet sec % 2 ^ 40

/-- Bytes of an L1 sector that its dirty mask names, as cells. -/
def dirtyCells (sec : Nat) (x : L1Sec) : List (Nat × Byte) :=
  (List.range 64).filterMap (fun i => if x.dirty.getLsbD i then some (sec * 64 + i, (x.data[i]?).getD 0) else none)

/-- The bytes a message writes back. -/
def MsgBody.written : MsgBody → List (Nat × Byte)
  | .recallAnswer _ cells _ => cells
  | .publishAnswer cells _ => cells
  | .publishWriteBack cells _ => cells
  | .evictionWriteBack cells _ => cells
  | _ => []

def MsgBody.merged : MsgBody → MsgBody
  | .recallAnswer h _ ops => .recallAnswer h [] ops
  | .publishAnswer _ ops => .publishAnswer [] ops
  | .publishWriteBack _ ops => .publishWriteBack [] ops
  | .evictionWriteBack _ ops => .evictionWriteBack [] ops
  | b => b

/-- The write-backs of a sector that are on their way to its home are merged there, in order; what else they say follows when they
arrive. -/
def State.mergeEarly (s : State) (sec : Nat) : State :=
  let cells := (s.coh.net.filter (fun m => m.toHome && m.sector = sec)).flatMap (fun m => m.body.written)
  let s' : State := { s.putCells cells with
    coh := { s.coh with net := s.coh.net.map (fun m => if m.toHome ∧ m.sector = sec then { m with body := m.body.merged } else m) } }
  if cells.isEmpty then s' else s'.wakeSector sec

/-- A page-table walk, or a fetch of code, reads a sector as a WT read does (R350), at one moment: write-backs under way are merged,
then the owner writes its dirty bytes to the home and keeps the sector in O (R161; log 57). -/
def State.publishNow (s0 : State) (sec : Nat) : State :=
  let s := s0.mergeEarly sec
  match oget s.coh.dir sec with
  | none => s
  | some d =>
    match d.owner with
    | none => s
    | some c =>
      match oget s.coh.l1 (l1Key c sec) with
      | none => s
      | some x =>
        -- a core whose grant is still on its way holds nothing newer than the home
        if x.st = .m then
          let s' : State := { s.putCells (dirtyCells sec x) with
            coh := { s.coh with l1 := oset s.coh.l1 (l1Key c sec) (some { x with st := .o, dirty := 0, writers := [] }) } }
          if (dirtyCells sec x).isEmpty then s' else s'.wakeSector sec
        else s

def HomeBody.isRead : HomeBody → Bool
  | .siRead .. => true
  | .wiRead .. => true
  | .wtRead .. => true
  | _ => false

/-- WTPEND (R157): the writes, atomics, ownership requests and holds of the sector that have been accepted and wait, and a CPYV that
holds it. -/
def DirEnt.wtpend (d : DirEnt) : Nat :=
  (d.queue.filter (fun r => !r.body.isRead)).length + (d.acqWait.filter (fun r => !r.body.isRead)).length + (if d.held then 1 else 0)

/-- Whether a home is in WAITING (R163): what reaches it is queued. -/
def DirEnt.busy (d : DirEnt) : Bool := !d.queue.isEmpty || decide (0 < d.wtpend)

/-- Whether a read of a sector would have to wait at its home behind requests that were there first. -/
def State.homeBusy (s : State) (sec : Nat) : Bool :=
  match oget s.coh.dir sec with
  | none => false
  | some d => d.busy

/-- The value such a read of bytes of one sector returns. -/
def State.peek (s : State) (pa n : Nat) : List Byte := Memory.bytes (s.publishNow (pa / 64)).mem pa n

def State.peekWord (s : State) (pa : Nat) : Nat := leNat (s.peek pa 8)

/-! ### Page tables (R347 to R350) -/

/-- How a walk ends. -/
inductive Walk
  | page (pa : Nat) (r w a big : Bool)
  /-- a leaf that is valid and not resident, with its permissions -/
  | replay (r w a : Bool)
  | fatal
  /-- the home of a table's sector is busy with requests that were there first: the read has to wait (R163, R165) -/
  | busy
  deriving DecidableEq, Repr

def entryReserved (level x : Nat) : Bool :=
  bitsOf x 57 7 ≠ 0 || bitsOf x 7 10 ≠ 0
    || (bitsOf x 1 1 = 1 && (bitsOf x 2 5 ≠ 0 || level = 1)) || (bitsOf x 1 1 = 0 && level = 3)
    || (bitsOf x 1 1 = 0 && bitsOf x 5 1 = 1 && bitsOf x 17 40 ≠ 0)
    || (bitsOf x 1 1 = 0 && level = 2 && bitsOf x 17 14 ≠ 0)

/-- A walk from a table at `tbl`, levels 3, 2, 1. -/
def walkFrom (s : State) (va : Nat) : Nat → Nat → Walk
  | 0, _ => .fatal
  | level + 1, tbl =>
    let idx := if level + 1 = 3 then bitsOf va 45 12 else if level + 1 = 2 then bitsOf va 31 14 else bitsOf va 17 14
    let x := s.peekWord (tbl + 8 * idx)
    if s.homeBusy ((tbl + 8 * idx) / 64) then .busy
    else if x % 2 = 0 || entryReserved (level + 1) x then .fatal
    else if bitsOf x 1 1 = 1 then
      (if reaches (bitsOf x 17 40 * 2 ^ 17) then walkFrom s va level (bitsOf x 17 40 * 2 ^ 17) else .fatal)
    else if bitsOf x 5 1 = 1 then .replay (bitsOf x 2 1 = 1) (bitsOf x 3 1 = 1) (bitsOf x 4 1 = 1)
    else
      let pa := bitsOf x 17 40 * 2 ^ 17 + (if level + 1 = 2 then bitsOf va 17 14 * 2 ^ 17 else 0)
      if reaches pa then .page pa (bitsOf x 2 1 = 1) (bitsOf x 3 1 = 1) (bitsOf x 4 1 = 1) (level + 1 = 2)
      else .fatal

/-- The walk of the 128 KiB page of `va` in a context. -/
def walk (s : State) (ctx va : Nat) : Walk :=
  let base := (s.bar0 0x300400).toNat / 2 ^ 19 * 2 ^ 19
  let x := s.peekWord (base + 8 * ctx)
  if s.homeBusy ((base + 8 * ctx) / 64) then .busy
  else if x % 2 = 0 || bitsOf x 1 16 ≠ 0 || bitsOf x 57 7 ≠ 0 || 2 ^ 57 ≤ va || !reaches (bitsOf x 17 40 * 2 ^ 17) then .fatal
  else walkFrom s va 3 (bitsOf x 17 40 * 2 ^ 17)

/-- The sectors a walk reads. -/
def walkSectors (s : State) (va : Nat) : Nat → Nat → List Nat
  | 0, _ => []
  | level + 1, tbl =>
    let idx := if level + 1 = 3 then bitsOf va 45 12 else if level + 1 = 2 then bitsOf va 31 14 else bitsOf va 17 14
    let x := s.peekWord (tbl + 8 * idx)
    (tbl + 8 * idx) / 64 ::
      (if x % 2 = 1 ∧ bitsOf x 1 1 = 1 ∧ reaches (bitsOf x 17 40 * 2 ^ 17) then walkSectors s va level (bitsOf x 17 40 * 2 ^ 17) else [])

/-! ### TLBs (R351) -/

/-- The pages of 128 KiB that a page of 2 GiB spans. -/
def bigPages : Nat := 2 ^ 14

/-- Whether page number `p` lies in the page that begins at `first`. -/
def pageHolds (first : Nat) (big : Bool) (p : Nat) : Bool := if big then first / bigPages = p / bigPages else first = p

def TlbEnt.covers (e : TlbEnt) (ctx va : Nat) : Bool := e.ctx = ctx && pageHolds e.page e.big (va / 2 ^ 17)

/-- The physical address of a virtual one that an entry covers. -/
def TlbEnt.phys (e : TlbEnt) (va : Nat) : Nat := e.pa + va % (if e.big then 2 ^ 31 else 2 ^ 17)

/-- The TLBs that an agent looks in: a core's own, its cluster's, its die's. -/
def unitsOf (u : Nat) : List Nat :=
  if 64 ≤ u then [u, clusterUnit (u - 64), dieUnit (coreDie (u - 64))]
  else if 2 ≤ u then [u, dieUnit (if (u - 2) % 8 < 4 then 0 else 1)]
  else [u]

/-- Entries of a TLB. -/
def unitSize (u : Nat) : Nat := if 64 ≤ u then 256 else if 2 ≤ u then 2048 else 65536

/-- The translation of an address that the TLBs of an agent hold. -/
def State.tlbFind (s : State) (u ctx va : Nat) : Option TlbEnt :=
  (unitsOf u).findSome? (fun v => s.easel.tlb.find? (fun e => e.unit = v && e.covers ctx va))

/-- One TLB takes a page; in a full one the oldest entry leaves for it. -/
def State.tlbPut (s : State) (e : TlbEnt) : State :=
  if s.easel.tlb.any (fun x => x.unit = e.unit && x.ctx = e.ctx && x.page = e.page && x.big = e.big) then s
  else
    let mine := s.easel.tlb.filter (fun x => x.unit = e.unit)
    let old := if unitSize e.unit ≤ mine.length then mine.head? else none
    { s with easel := { s.easel with tlb := s.easel.tlb.filter (fun x => some x ≠ old) ++ [e] } }

/-- The TLBs of an agent take the leaf at which its walk for `va` has ended; no TLB keeps a fault (R351; log 122). -/
def State.tlbInsert (s : State) (u ctx va : Nat) (w : Walk) : State :=
  match w with
  | .page pa r wr a big =>
    (unitsOf u).foldl (fun s v => s.tlbPut ⟨v, ctx, if big then va / 2 ^ 31 * bigPages else va / 2 ^ 17,
      if big then pa / 2 ^ 31 * 2 ^ 31 else pa, r, wr, a, big⟩) s
  | .replay .. => s
  | .fatal => s
  | .busy => s

/-- The state after an agent has translated an address: where no TLB of its holds it, what the walk read has been published and
its leaf is held. -/
def State.walked (s : State) (u ctx va : Nat) : State :=
  if (s.tlbFind u ctx va).isSome then s
  else
    let a := (s.bar0 0x300400).toNat / 2 ^ 19 * 2 ^ 19 + 8 * ctx
    let x := s.peekWord a
    let s' := ((a / 64) :: (if x % 2 = 1 then walkSectors s va 3 (bitsOf x 17 40 * 2 ^ 17) else [])).foldl State.publishNow s
    s'.tlbInsert u ctx va (walk s ctx va)

/-- The access a translation is for (R349): read, write, atomic. -/
inductive Acc | read | write | atomic
  deriving DecidableEq, Repr

def Acc.isWrite : Acc → Bool
  | .read => false
  | _ => true

def Acc.allowed (a : Acc) (r w at_ : Bool) : Bool :=
  match a with
  | .read => r
  | .write => w
  | .atomic => r && w && at_

/-- What a TLB answers. -/
inductive Xl
  | pa (a : Nat)
  | miss (va : Nat)
  | fatal (va : Nat)
  deriving DecidableEq, Repr

/-- A look-up in the TLBs of an agent (R351). -/
def tlbLook (s : State) (u ctx va : Nat) (acc : Acc) : Xl :=
  match s.tlbFind u ctx va with
  | none => .miss va
  | some e => if acc.allowed e.r e.w e.a then .pa (e.phys va) else .fatal va

/-- A translation for an agent that walks for itself (fetch, engines, graph walkers): a physical address, replay, or fatal. A permission that is
missing is fatal, whether or not the page is resident (R307, R350). -/
def xlNow (s : State) (u ctx va : Nat) (acc : Acc) : Walk × Nat :=
  match s.tlbFind u ctx va with
  | some e => if acc.allowed e.r e.w e.a then (.page e.pa e.r e.w e.a e.big, e.phys va) else (.fatal, 0)
  | none =>
  match walk s ctx va with
  | .page pa r w a big => if acc.allowed r w a then (.page pa r w a big, pa + va % 2 ^ 17) else (.fatal, 0)
  | .replay r w a => if acc.allowed r w a then (.replay r w a, 0) else (.fatal, 0)
  | x => (x, 0)

/-! ### Lane checks (R73) -/

/-- Executing lanes and the offset each accesses. -/
abbrev LaneOffs := List (Nat × Nat)

def maskWhere (offs : LaneOffs) (p : Nat → Nat → Bool) : LaneMask :=
  offs.foldl (fun m x => if p x.1 x.2 then m ||| ((1 : LaneMask) <<< x.1) else m) 0

/-- Step 3 of R73: the first of ALIGN_ACCESS, BOUNDS and RANGE_LOCKED that some executing lane meets. `at_` gives the places that a
lane's offset reaches: its own, or one in each core that an STM names (R120). -/
def laneCheck (s : State) (l : Launch) (g : TeamGeom) (e : PalEntry) (offs : LaneOffs) (n : Nat)
    (at_ : Nat → Nat → List Place := fun L o => [placeOf l g e L o]) : Option (Nat × Word) :=
  let al := maskWhere offs (fun _ o => o % n ≠ 0 || crosses l e o n)
  let bd := maskWhere offs (fun _ o => decide (e.limit < o + n))
  let lk := maskWhere offs (fun L o => (at_ L o).any (fun p => lockedAt s g.core l.ctx p n))
  if al ≠ 0 then some (Code.alignAccess, laneInfo al)
  else if bd ≠ 0 then some (Code.bounds, laneInfo bd)
  else if lk ≠ 0 then some (Code.rangeLocked, laneInfo lk)
  else none

/-- Step 4 of R73 over the addresses of the executing lanes: the first fatal one, or the pages still to translate. -/
inductive XlAll
  | ok
  | fatal (info : Word)
  | miss (pages : List (Nat × Bool × Bool))

def xlateVas (s : State) (u ctx : Nat) (acc : Acc) : List Nat → XlAll
  | [] => .ok
  | va :: r =>
    match tlbLook s u ctx va acc with
    | .pa _ => xlateVas s u ctx acc r
    | .fatal a => .fatal (BitVec.ofNat 64 (a + if acc.isWrite then 2 ^ 63 else 0))
    | .miss p =>
      match xlateVas s u ctx acc r with
      | .ok => .miss [(p, acc.isWrite, acc = .atomic)]
      | .fatal i => .fatal i
      | .miss ps => .miss (if ps.any (fun x => x.1 / 2 ^ 17 = p / 2 ^ 17) then ps else (p, acc.isWrite, decide (acc = .atomic)) :: ps)

/-- The virtual addresses of a list of places. -/
def vasOf (ps : List Place) : List Nat :=
  ps.filterMap (fun p => match p with | .va a => some a | .bank _ => none | .pod .. => none | .mcast .. => none | .none => none)

end Sys2Proof.Machine
end

