-- ==== Sys2Proof/Machine/Issue.lean ====
section
/-! DEFINITION. The issue of a unit: decode checks on registers, waits, marks, walker reads, then the effect (R13, R33,
R41 to R43, R92 to R94, R304). -/

namespace Sys2Proof.Machine

/-! ### Walkers (R91 to R95) -/

/-- Byte offset of lane L's element at a position, exact. -/
def Walker.offset (w : Walker) (L : Nat) (p : Nat × Nat × Nat) : Int :=
  (((w.base[L]?).getD 0).toNat : Int) + p.1 * (w.stride[0]?).getD 0 + p.2.1 * (w.stride[1]?).getD 0
    + p.2.2 * (w.stride[2]?).getD 0

/-- A walker's fetches end. -/
def State.dropFetch (s : State) (tid n : Nat) : State :=
  { s with coh := { s.coh with loads := s.coh.loads.filter (fun x => match x.2 with
    | some l => !(l.team = tid && l.walker = some n) | none => false) } }

/-- The flags and position after a read at a position (R92). -/
def Walker.step (w : Walker) (p : Nat × Nat × Nat) : Walker :=
  let e0 := (w.ext[0]?).getD 1
  let e1 := (w.ext[1]?).getD 1
  let e2 := (w.ext[2]?).getD 1
  let d0 := p.1 + 1 = e0
  let d1 := d0 ∧ p.2.1 + 1 = e1
  let d2 := d1 ∧ p.2.2 + 1 = e2
  { w with
    pos := if d2 then none else if d1 then some (0, 0, p.2.2 + 1) else if d0 then some (0, p.2.1 + 1, p.2.2)
      else some (p.1 + 1, p.2.1, p.2.2)
    d0 := decide d0, d1 := decide d1, d2 := decide d2, fin := false, arrived := [] }

/-- A read past the end (R92). -/
def Walker.past (w : Walker) : Walker := { w with d0 := true, d1 := true, d2 := true, fin := true }

/-- The chip that a mark says its value was lost with. -/
def Mark.lost? : Mark → Option Nat
  | .lost c => some c
  | _ => none

/-- What reading walker `n`, bound to v(60+n), does for the executing lanes. `te` is the trap-on-empty bit. An element whose chip
was lost traps as a lost register does (R75; log 59). -/
def readWalker (s : State) (l : Launch) (t : Team) (ex : LaneMask) (n : Nat) (w : Walker) (te : Bool) : WalkRes :=
  let lanes := lanesOf ex t.geom.lanes
  if lanes = [] then .ok t []
  else
    match w.pos with
    | none => .ok (t.setWalker n (some w.past)) [(60 + n, lanes.map (fun L => (L, 0)))]
    | some p =>
      let sz := 2 ^ w.ls
      let al := maskWhere (lanes.map (fun L => (L, 0))) (fun L _ => decide (w.offset L p % (sz : Int) ≠ 0))
      let bd := maskWhere (lanes.map (fun L => (L, 0))) (fun L _ => decide (w.offset L p < 0 ∨
        (w.entry.limit : Int) < w.offset L p + sz))
      if al ≠ 0 then .trap Code.alignAccess (laneInfo al)
      else if bd ≠ 0 then .trap Code.bounds (laneInfo bd)
      else
        let places := lanes.map (fun L => placeOf l t.geom w.entry L (w.offset L p).toNat)
        match xlateVas s (coreUnit t.geom.core) l.ctx .read (vasOf places) with
        | .fatal i => .trap Code.xlateFatal i
        | .miss ps => .park ps
        | .ok =>
          if !lanes.all (fun L => w.arrived.any (fun x => x.1 = L)) then
            (if te then .trap Code.empty (BitVec.ofNat 64 (60 + n)) else .wait)
          else
            let els := w.arrived.filter (fun x => ex.getLsbD x.1)
            match els.findSome? (fun x => x.2.2.lost?) with
            | some c => .trap Code.remoteLost (BitVec.ofNat 64 (c + (60 + n) * 65536))
            | none =>
              if els.any (fun x => x.2.2 ≠ .full) then .trap Code.soft (BitVec.ofNat 64 (2 ^ 63 + n))
              else .ok (t.setWalker n (some (w.step p))) [(60 + n, els.map (fun x => (x.1, x.2.1)))]

/-- A walker that makes its reader wait, and what the later walkers of the unit answer: a trap-on-empty one that is empty too traps
at once (R16; log 51). -/
def WalkRes.orEmpty (later : WalkRes) : WalkRes :=
  match later with
  | .trap c info => if c = Code.empty then .trap c info else .wait
  | _ => .wait

/-- Every walker among the sources, once each, in order of the sources. A register that some source position names with trap-on-empty
is read so (R16, R92). -/
def readWalkers (s : State) (l : Launch) (ex : LaneMask) : Team → List (Nat × Bool) → List Nat → WalkRes
  | t, [], _ => .ok t []
  | t, r :: rest, seen =>
    match t.walkerOf r.1 with
    | none => readWalkers s l ex t rest seen
    | some w =>
      if seen.contains r.1 then readWalkers s l ex t rest seen
      else
        match readWalker s l t ex (r.1 - 60) w (r.2 || rest.any (fun x => x.1 = r.1 && x.2)) with
        | .ok t' els =>
          (match readWalkers s l ex t' rest (r.1 :: seen) with
           | .ok t'' els' => .ok t'' (els ++ els')
           | x => x)
        | .wait => (readWalkers s l ex t rest (r.1 :: seen)).orEmpty
        | x => x

/-- The lanes that execute a lane-side unit (R15, R41). -/
def execMask (t : Team) (a : Arm) (pg : Nat) : LaneMask := if pg = 0 then a.active else a.active &&& t.predMask pg

/-- Issue of unit `i` with registers `u` and effect `eff` (R33, R42, R43). An engine command's false guard ends it before
any wait (`eng`, R251). Points the spec leaves open: a trap-on-empty source that is empty traps although another register of the
unit is empty too; walkers are read before the effect's own checks of uniform operands (log 51); a unit with no executing lane
keeps the lost mark of a register it would write (log 52). -/
def issueUnit (i : Instr) (u : Use) (s : State) (eff : Ctx → State → Res) (eng : Bool := false) : Out :=
  match s.curArm with
  | none => .refused .noArm
  | some (tid, f, t, a) =>
    match s.launch? t.geom.launch with
    | none => .refused .noArm
    | some l =>
      if armMayIssue s t f a then
        let len := unitBytes i
        let out := fun (r : Res) => r.out s tid f a.pc len
        if u.illReg t then out (.trap Code.illreg (unitWords i))
        else if eng && !t.qpred u.qg then out (.done s)
        else
          match u.emptyTrap t with
          | some info => out (.trap Code.empty info)
          | none =>
            if u.waits t then out .wait
            else
              let ex := match u.pg with | some p => execMask t a p | none => a.active
              match markTrap t ex u.vr with
              | some x => out (.trap x.1 x.2)
              | none =>
                if !t.qpred u.qg then out (.done s)
                else
                  match readWalkers s l ex t u.vr [] with
                  | .trap c info => out (.trap c info)
                  | .wait => out .wait
                  | .park ps => .next (parkArm s tid f ps)
                  | .ok t' els =>
                    let t'' := if ex = 0 then t' else u.clearMarks t'
                    -- fetches for positions that have been read end
                    let s' := els.foldl (fun s e => s.dropFetch tid (e.1 - 60)) (s.setTeam tid t'')
                    out (eff ⟨tid, f, t'', a, ex, len, els, s⟩ s')
      else .next s

/-- Write a lane register in every executing lane: the shared effect of the lane-side value instructions (R8, R41). -/
def writeLanes (k : Ctx) (s : State) (vd : Nat) (fn : Nat → Lane → Word) : Res :=
  .done (s.setTeam k.tid { k.t with lanes := mapLanes k.ex (fun L x => x.setReg vd (fn L x)) 0 k.t.lanes })

/-- Write a uniform register. -/
def writeG (k : Ctx) (s : State) (gd : Nat) (x : Word) : Res := .done (s.setTeam k.tid (k.t.setG gd x))

/-- Write a uniform predicate. -/
def writeQ (k : Ctx) (s : State) (qd : Nat) (b : Bool) : Res := .done (s.setTeam k.tid (k.t.setQ qd b))

/-- Write a lane predicate in every executing lane. -/
def writePreds (k : Ctx) (s : State) (pd : Nat) (fn : Nat → Lane → Bool) : Res :=
  .done (s.setTeam k.tid { k.t with lanes := mapLanes k.ex (fun L x => x.setPred pd (fn L x)) 0 k.t.lanes })

/-- A team of lanes' NOLANE flag (R59, R208). -/
def Team.setNolane (t : Team) : Team := { t with nolane := true }

end Sys2Proof.Machine
end

