-- ==== Sys2Proof/Machine/Operands.lean ====
section
/-! DEFINITION. Operand forms: sub-elements of lane registers, immediates, and the integer operations on one element (R18,
R25, R45 to R52). An element of width w is a number below 2^w. -/

namespace Sys2Proof

/-- Bits of an integer element (R17). -/
def IW.bits : IW → Nat
  | .w64 => 64
  | .w32 => 32
  | .w16 => 16
  | .w8 => 8

end Sys2Proof

namespace Sys2Proof.Machine

/-- Sub-element e of width w (R45). -/
def elem (w : Nat) (x : Word) (e : Nat) : Nat := bitsOf x.toNat (w * e) w

/-- The number whose first n elements of width w are given by f, zero above. -/
def packNat (w : Nat) (f : Nat → Nat) : Nat → Nat
  | 0 => 0
  | n + 1 => packNat w f n + f n % 2 ^ w * 2 ^ (w * n)

/-- A lane register of elements of width w. -/
def pack (w : Nat) (f : Nat → Nat) : Word := BitVec.ofNat 64 (packNat w f (64 / w))

/-- An operation on each sub-element of three operands. -/
def ew3 (w : Nat) (op : Nat → Nat → Nat → Nat) (a b d : Word) : Word :=
  pack w (fun e => op (elem w a e) (elem w b e) (elem w d e))
def ew2 (w : Nat) (op : Nat → Nat → Nat) (a b : Word) : Word := pack w (fun e => op (elem w a e) (elem w b e))
def ew1 (w : Nat) (op : Nat → Nat) (a : Word) : Word := pack w (fun e => op (elem w a e))

/-- imm10 without EXT (R18). -/
def imm10 (x : BitVec 10) : Word := x.signExtend 64

/-- The immediate under EXT (R25). -/
def imm35 (hi : BitVec 25) (lo : BitVec 10) : Word := (hi ++ lo).signExtend 64

/-! ### Arithmetic on one element of width w (R47 to R50) -/

def iadd (w a b : Nat) : Nat := (a + b) % 2 ^ w
def isub (w a b : Nat) : Nat := (a + 2 ^ w - b) % 2 ^ w
def imul (w a b : Nat) : Nat := a * b % 2 ^ w
def imad (w a b d : Nat) : Nat := (a * b + d) % 2 ^ w
def imin (w a b : Nat) : Nat := if signedOf w a ≤ signedOf w b then a else b
def imax (w a b : Nat) : Nat := if signedOf w a ≤ signedOf w b then b else a
def iminn (a b : Nat) : Nat := if a ≤ b then a else b
def imaxn (a b : Nat) : Nat := if a ≤ b then b else a
def iandn (w a b : Nat) : Nat := a &&& (2 ^ w - 1 - b)
/-- The shift count: the low log2 w bits (R47). -/
def ishl (w a b : Nat) : Nat := a * 2 ^ (b % w) % 2 ^ w
def ishr (w a b : Nat) : Nat := a / 2 ^ (b % w)
def isar (w a b : Nat) : Nat := wrapTo w (signedOf w a / ((2 ^ (b % w) : Nat) : Int))
def imulh (w a b : Nat) : Nat := wrapTo w (signedOf w a * signedOf w b / ((2 ^ w : Nat) : Int))
def imulhn (w a b : Nat) : Nat := a * b / 2 ^ w
/-- Signed quotient truncated towards zero (R48). -/
def idiv (w a b : Nat) : Nat := if b = 0 then 2 ^ w - 1 else wrapTo w (Int.tdiv (signedOf w a) (signedOf w b))
def idivn (w a b : Nat) : Nat := if b = 0 then 2 ^ w - 1 else a / b
def irem (w a b : Nat) : Nat := if b = 0 then a else wrapTo w (Int.tmod (signedOf w a) (signedOf w b))
def iremn (a b : Nat) : Nat := if b = 0 then a else a % b

/-- Saturate to a signed range. -/
def satS (w : Nat) (x : Int) : Nat :=
  if x < -((2 ^ (w - 1) : Nat) : Int) then 2 ^ (w - 1)
  else if ((2 ^ (w - 1) : Nat) : Int) ≤ x then 2 ^ (w - 1) - 1 else wrapTo w x
/-- Saturate to an unsigned range. -/
def satU (w : Nat) (x : Int) : Nat := if x < 0 then 0 else if ((2 ^ w : Nat) : Int) ≤ x then 2 ^ w - 1 else x.toNat

def iadds (w a b : Nat) : Nat := satS w (signedOf w a + signedOf w b)
def isubs (w a b : Nat) : Nat := satS w (signedOf w a - signedOf w b)
def iaddsn (w a b : Nat) : Nat := satU w ((a : Int) + b)
def isubsn (w a b : Nat) : Nat := satU w ((a : Int) - b)

/-- log2 of a width. -/
def lgw (w : Nat) : Nat := if w = 64 then 6 else if w = 32 then 5 else if w = 16 then 4 else 3

/-- Position and length of a bit field (R49). -/
def bfPos (w b : Nat) : Nat := b % w
def bfLen (w b : Nat) : Nat :=
  let n := b / w % w
  let n := if n = 0 then w else n
  if w < bfPos w b + n then w - bfPos w b else n

def ibfxn (w a b : Nat) : Nat := bitsOf a (bfPos w b) (bfLen w b)
def ibfx (w a b : Nat) : Nat := wrapTo w (signedOf (bfLen w b) (ibfxn w a b))
def ibfi (w a b d : Nat) : Nat :=
  d % 2 ^ bfPos w b + a % 2 ^ bfLen w b * 2 ^ bfPos w b + d / 2 ^ (bfPos w b + bfLen w b) * 2 ^ (bfPos w b + bfLen w b)

/-- PRMB (R49). -/
def iprmb (a b d : Word) : Word :=
  pack 8 (fun k => let s := bitsOf b.toNat (4 * k) 4; if s < 8 then elem 8 a s else elem 8 d (s - 8))

def iabs (w a : Nat) : Nat := if a < 2 ^ (w - 1) then a else (2 ^ w - a) % 2 ^ w
def ineg (w a : Nat) : Nat := (2 ^ w - a) % 2 ^ w
def inot (w a : Nat) : Nat := 2 ^ w - 1 - a % 2 ^ w

/-- Count of the bits of a, of n, that are one. -/
def popFrom (a : Nat) : Nat → Nat
  | 0 => 0
  | n + 1 => popFrom a n + a / 2 ^ n % 2
def ipopc (w a : Nat) : Nat := popFrom a w
/-- Leading zeros. -/
def iclz (a : Nat) : Nat → Nat
  | 0 => 0
  | n + 1 => if a / 2 ^ n % 2 = 1 then 0 else 1 + iclz a n
/-- Trailing zeros. -/
def ictzFrom (a w : Nat) : Nat → Nat
  | 0 => 0
  | n + 1 => if a / 2 ^ (w - (n + 1)) % 2 = 1 then 0 else 1 + ictzFrom a w n
def ictz (w a : Nat) : Nat := ictzFrom a w w
/-- The 64 bits reversed. -/
def ibrevFrom (a : Nat) : Nat → Nat
  | 0 => 0
  | n + 1 => ibrevFrom a n + a / 2 ^ n % 2 * 2 ^ (63 - n)
def ibrev (a : Word) : Word := BitVec.ofNat 64 (ibrevFrom a.toNat 64)

/-- A condition of CMP and GCMP at width w (R52). -/
def ccHolds (w : Nat) (c : CC) (a b : Nat) : Bool :=
  match c with
  | .eq => a = b
  | .ne => a ≠ b
  | .lt => signedOf w a < signedOf w b
  | .ge => signedOf w b ≤ signedOf w a
  | .ltn => a < b
  | .gen => b ≤ a
  | .tst => a &&& b ≠ 0

/-- Combine a comparison into its destination (R30). -/
def combine (m : Cmb) (d c : Bool) : Bool :=
  match m with
  | .set => c
  | .and => d && c
  | .or => d || c
  | .xor => xor d c

/-! ### Shared issue of the lane and uniform forms -/

/-- LR and LRF forms: vd from va and vb. -/
def laneBin (i : Instr) (pg : BitVec 3) (vd va vb : BitVec 6) (ta tb : Bool) (op : Word → Word → Word) (s : State) : Out :=
  issueUnit i { pg := some pg.toNat, vw := [vd.toNat], vr := [(va.toNat, ta), (vb.toNat, tb)] } s (fun k s =>
    writeLanes k s vd.toNat (fun L x => op (k.src L x va.toNat) (k.src L x vb.toNat)))

/-- The forms that read vd as well (MAD, BFI, PRMB). -/
def laneTer (i : Instr) (pg : BitVec 3) (vd va vb : BitVec 6) (ta tb : Bool) (op : Word → Word → Word → Word) (s : State) :
    Out :=
  issueUnit i { pg := some pg.toNat, vw := [vd.toNat], vr := [(va.toNat, ta), (vb.toNat, tb), (vd.toNat, false)] } s
    (fun k s => writeLanes k s vd.toNat (fun L x =>
      op (k.src L x va.toNat) (k.src L x vb.toNat) (k.src L x vd.toNat)))

/-- LU and LI forms: vd from va. -/
def laneUn (i : Instr) (pg : BitVec 3) (vd va : BitVec 6) (ta : Bool) (op : Word → Word) (s : State) : Out :=
  issueUnit i { pg := some pg.toNat, vw := [vd.toNat], vr := [(va.toNat, ta)] } s (fun k s =>
    writeLanes k s vd.toNat (fun L x => op (k.src L x va.toNat)))

/-- UR forms: gd from ga and gb. -/
def uniBin (i : Instr) (qg : BitVec 3) (gd ga gb : BitVec 6) (op : Word → Word → Word) (s : State) : Out :=
  issueUnit i { qg := qg.toNat, gw := [gd.toNat], gr := [(ga.toNat, false), (gb.toNat, false)] } s (fun k s =>
    writeG k s gd.toNat (op (k.t.greg ga.toNat) (k.t.greg gb.toNat)))

/-- Unary and immediate uniform forms: gd from ga. -/
def uniUn (i : Instr) (qg : BitVec 3) (gd ga : BitVec 6) (op : Word → Word) (s : State) : Out :=
  issueUnit i { qg := qg.toNat, gw := [gd.toNat], gr := [(ga.toNat, false)] } s (fun k s =>
    writeG k s gd.toNat (op (k.t.greg ga.toNat)))

/-- A 64-bit operation as one on words. -/
def w64 (op : Nat → Nat → Nat) (a b : Word) : Word := BitVec.ofNat 64 (op a.toNat b.toNat)
def w64u (op : Nat → Nat) (a : Word) : Word := BitVec.ofNat 64 (op a.toNat)

end Sys2Proof.Machine
end

