-- ==== Sys2Proof/Machine/Flags.lean ====
section
/-! DEFINITION. FPCTL and FPFLAGS (R69, R187), the lane's generator (R229), and the results that carry flags. -/

namespace Sys2Proof

/-- The number a mode has in FPCTL.rm (R69). -/
def Rm.code : Rm → Nat
  | .rne => 0
  | .rtz => 1
  | .rup => 2
  | .rdn => 3
  | .rna => 4
  | .rsr => 5

/-- The mode of FPCTL.rm; 6 and 7 are never written (R69). -/
def Rm.ofCode (c : Nat) : Rm :=
  if c = 1 then .rtz else if c = 2 then .rup else if c = 3 then .rdn else if c = 4 then .rna else if c = 5 then .rsr
  else .rne

end Sys2Proof

namespace Sys2Proof.Machine

/-! Bits of FPFLAGS (R69). -/
namespace Fl
def iv : Nat := 1
def dz : Nat := 2
def of : Nat := 4
def uf : Nat := 8
def nx : Nat := 16
def nf : Nat := 32
def cl : Nat := 64
def scl : Nat := 128
end Fl

/-- A result with the flags it raises; `drew` when it took a draw of the generator under RSR (R184). -/
structure FRes where
  bits : Nat
  fl : Nat
  drew : Bool
  deriving DecidableEq, Repr

/-- How a lane rounds: its mode, DAZ, FTZ. -/
structure FEnv where
  rm : Rm
  daz : Bool
  ftz : Bool
  deriving DecidableEq, Repr

def Lane.env (l : Lane) : FEnv := ⟨Rm.ofCode (l.fpctl.toNat % 8), l.fpctl.getLsbD 4, l.fpctl.getLsbD 3⟩

/-- The environment with a rounding override (R30, R184). -/
def FEnv.over (e : FEnv) (o : Option Rm) : FEnv :=
  match o with
  | none => e
  | some r => { e with rm := r }

/-- OR flags into a lane's FPFLAGS (R187). -/
def Lane.raise (l : Lane) (fl : Nat) : Lane := { l with fpflags := l.fpflags ||| BitVec.ofNat 8 fl }

/-- One draw of a generator (R229): the new state, which is the output. -/
def draw (s : Word) : Word :=
  let s := s ^^^ (s <<< 13)
  let s := s ^^^ (s >>> 7)
  s ^^^ (s <<< 17)

def goldenSeed : Word := 0x9E3779B97F4A7C15#64

/-- A generator's seed (R229): the 64-bit seed and the number it is spread by. -/
def seedGen (seed : Word) (g : Nat) : Word :=
  let s := seed ^^^ (BitVec.ofNat 64 g * goldenSeed)
  if s = 0 then goldenSeed else s

/-- Global lane number (R81). -/
def globalLane (chip : Nat) (g : TeamGeom) (L : Nat) : Nat := (((chip * 192 + g.core) * 16 + g.block) * 16 + g.index) * 1024 + L

/-- Compute the elements 0 to n - 1 of a lane in ascending order, each given the output the next draw would have; a draw
advances the generator (R184). -/
def runEls (w : Nat) (rsr : Bool) (f : Nat → Nat → FRes) : Nat → Word → Nat × Nat × Word
  | 0, gen => (0, 0, gen)
  | n + 1, gen =>
    let p := runEls w rsr f n gen
    let r := f n (draw p.2.2).toNat
    (p.1 + r.bits % 2 ^ w * 2 ^ (w * n), p.2.1 ||| r.fl, if rsr && r.drew then draw p.2.2 else p.2.2)

/-- A lane after a floating-point instruction that writes `n` elements of width `w` of vd. -/
def Lane.float (l : Lane) (vd w n : Nat) (rsr : Bool) (f : Nat → Nat → FRes) : Lane :=
  let r := runEls w rsr f n l.gen
  { (l.setReg vd (BitVec.ofNat 64 r.1)).raise r.2.1 with gen := r.2.2 }

end Sys2Proof.Machine
end

