-- ==== Sys2Proof/Machine/Approx.lean ====
section
/-! DEFINITION. Bounds on the values of the functions whose accuracy R192 states. A real number x is held as a natural or an
integer number of units of 2^-192; each function's answer lies within 2^32 units of the exact value. -/

namespace Sys2Proof.Machine

/-- Units of 1. -/
def apxOne : Nat := 2 ^ 192
/-- More than what the divisions below can lose. -/
def apxErr : Nat := 2 ^ 32

/-- Product of two numbers in units. -/
def apxMul (x y : Nat) : Nat := x * y / apxOne

/-- The sum of x^k / k! from a term on. -/
def expTerms (x : Nat) : Nat → Nat → Nat → Nat
  | 0, _, _ => 0
  | n + 1, k, t => t + expTerms x n (k + 1) (apxMul t x / (k + 1))

/-- e^x for x below 1. -/
def apxExp (x : Nat) : Nat := expTerms x 60 0 apxOne

/-- ln 2 = Σ 1 / (k 2^k). -/
def apxLn2 : Nat := ((List.range 192).map (fun i => 2 ^ (191 - i) / (i + 1))).sum

/-- Σ t^(2k+1) / (2k+1) from a power on, with t² given. -/
def atanhTerms (t2 : Nat) : Nat → Nat → Nat → Nat
  | 0, _, _ => 0
  | n + 1, k, p => p / k + atanhTerms t2 n (k + 2) (apxMul p t2)

/-- ln (1 + x) for x below 1, as 2 artanh (x / (2 + x)). -/
def apxLn1 (x : Nat) : Nat :=
  let t := x * apxOne / (2 * apxOne + x)
  2 * atanhTerms (apxMul t t) 70 1 t

/-- arctan (1 / q) in units of 2^-b, from the power 2^b / q^k on; `neg` is the sign of the next term. -/
def atanInv (q : Nat) : Nat → Nat → Nat → Bool → Int
  | 0, _, _, _ => 0
  | n + 1, k, p, neg => (if neg then -((p / k : Nat) : Int) else ((p / k : Nat) : Int)) + atanInv q n (k + 2) (p / (q * q)) (!neg)

/-- π / 2 in units of 2^-b (Machin). -/
def apxHalfPi (b : Nat) : Nat :=
  (2 * (4 * atanInv 5 (b / 4 + 4) 1 (2 ^ b / 5) false - atanInv 239 (b / 15 + 4) 1 (2 ^ b / 239) false)).toNat

/-- The alternating terms of sine and cosine: t, then t x² / ((k + 1) (k + 2)) and so on. -/
def trigTerms (x2 : Nat) : Nat → Nat → Nat → Bool → Int
  | 0, _, _, _ => 0
  | n + 1, k, t, neg => (if neg then -(t : Int) else (t : Int)) + trigTerms x2 n (k + 2) (apxMul t x2 / ((k + 1) * (k + 2))) (!neg)

def apxSin0 (r : Nat) : Int := trigTerms (apxMul r r) 32 1 r false
def apxCos0 (r : Nat) : Int := trigTerms (apxMul r r) 32 0 apxOne false

/-- m × 2^e as a multiple of π / 2 modulo 4 and the rest in units, for m × 2^e of 2^-40 or more. -/
def apxQuadrant (m : Nat) (e : Int) : Nat × Nat :=
  let b := 256 + (e + (Nat.log2 m + 1 : Nat)).toNat
  let h := apxHalfPi b
  let a := m * 2 ^ (e + b).toNat
  (a / h % 4, a % h / 2 ^ (b - 192))

/-- sin and cos of m × 2^e. -/
def apxSin (m : Nat) (e : Int) : Int :=
  let q := apxQuadrant m e
  match q.1 with | 0 => apxSin0 q.2 | 1 => apxCos0 q.2 | 2 => -apxSin0 q.2 | _ => -apxCos0 q.2
def apxCos (m : Nat) (e : Int) : Int :=
  let q := apxQuadrant m e
  match q.1 with | 0 => apxCos0 q.2 | 1 => -apxSin0 q.2 | 2 => -apxCos0 q.2 | _ => apxSin0 q.2

/-- m × 2^e in units, rounded down. -/
def apxUnits (m : Nat) (e : Int) : Nat := if 0 ≤ e + 192 then m * 2 ^ (e + 192).toNat else m / 2 ^ (-(e + 192)).toNat

/-- The whole part n and the value 2^r of the rest, of 2^a for a = ±m × 2^e that is no integer. -/
def apxExp2 (neg : Bool) (m : Nat) (e : Int) : Int × Nat :=
  let t := apxUnits m e
  let n := t / apxOne
  let r := t % apxOne
  if neg then (-(n : Int) - 1, apxExp (apxMul (apxOne - 1 - r) apxLn2)) else (n, apxExp (apxMul r apxLn2))

/-- log₂ (m × 2^e). -/
def apxLog2 (m : Nat) (e : Int) : Int :=
  let l := Nat.log2 m
  ((e + l) * (apxOne : Int)) + ((apxLn1 (m * apxOne / 2 ^ l - apxOne) * apxOne / apxLn2 : Nat) : Int)

/-- tanh of x units, for x below 128: (1 - z) / (1 + z) with z = e^(-2x). -/
def apxTanh (x : Nat) : Nat :=
  let y := 2 * x
  let n := y / apxLn2 + 1
  let z := apxExp (n * apxLn2 - y) / 2 ^ n
  (apxOne - z) * apxOne / (apxOne + z)

end Sys2Proof.Machine
end

