-- ==== Sys2Proof/Machine/Float.lean ====
section
/-! DEFINITION. Floating-point values, exact arithmetic on them, and the one rounding of each result (R183 to R203, R215,
R216, R228). Exact values are fractions n / d times a power of two. -/

namespace Sys2Proof.Machine

/-- An IEEE-like format: exponent and fraction widths (R215). -/
structure Fmt where
  eb : Nat
  mb : Nat
  deriving DecidableEq, Repr

def Fmt.w (f : Fmt) : Nat := 1 + f.eb + f.mb
def Fmt.bias (f : Fmt) : Nat := 2 ^ (f.eb - 1) - 1
/-- Exponent of the last place of a subnormal. -/
def Fmt.emin (f : Fmt) : Int := 1 - (f.bias : Int) - f.mb
def Fmt.inf (f : Fmt) : Nat := (2 ^ f.eb - 1) * 2 ^ f.mb
def Fmt.qnan (f : Fmt) : Nat := f.inf + 2 ^ (f.mb - 1)
def Fmt.sign (f : Fmt) (neg : Bool) : Nat := if neg then 2 ^ (f.eb + f.mb) else 0

def F64 : Fmt := ⟨11, 52⟩
def F32 : Fmt := ⟨8, 23⟩
def F16 : Fmt := ⟨5, 10⟩
def BF16 : Fmt := ⟨8, 7⟩

end Sys2Proof.Machine

namespace Sys2Proof

def FF.fmt : FF → Machine.Fmt
  | .f64 => Machine.F64
  | .f32 => Machine.F32
  | .f16 => Machine.F16
  | .bf16 => Machine.BF16

def FF.bits : FF → Nat
  | .f64 => 64
  | .f32 => 32
  | .f16 => 16
  | .bf16 => 16

end Sys2Proof

namespace Sys2Proof.Machine

/-- A decoded value: `fin neg m e` is ±m × 2^e. -/
inductive FV
  | nan (signalling : Bool)
  | inf (neg : Bool)
  | fin (neg : Bool) (m : Nat) (e : Int)
  deriving DecidableEq, Repr

/-- Decode bits of a format (R215), with DAZ (R185). -/
def unpack (f : Fmt) (daz : Bool) (x : Nat) : FV :=
  let neg := decide (x / 2 ^ (f.eb + f.mb) % 2 = 1)
  let e := bitsOf x f.mb f.eb
  let m := x % 2 ^ f.mb
  if e = 2 ^ f.eb - 1 then (if m = 0 then .inf neg else .nan (decide (m < 2 ^ (f.mb - 1))))
  else if e = 0 then .fin neg (if daz then 0 else m) f.emin
  else .fin neg (m + 2 ^ f.mb) (f.emin + (e : Int) - 1)

def FV.isNan : FV → Bool
  | .nan _ => true
  | _ => false
def FV.isSnan : FV → Bool
  | .nan s => s
  | _ => false
def FV.isInf : FV → Bool
  | .inf _ => true
  | _ => false
def FV.special (v : FV) : Bool := v.isNan || v.isInf
def FV.neg? : FV → Bool
  | .inf s => s
  | .fin s _ _ => s
  | .nan _ => false
def FV.isZero : FV → Bool
  | .fin _ m _ => m = 0
  | _ => false

/-! ### Rounding -/

/-- Whether a magnitude q + r/D units rounds up (R184). -/
def roundsUp (rm : Rm) (X : Nat) (neg : Bool) (q r D : Nat) : Bool :=
  match rm with
  | .rne => decide (D < 2 * r) || (decide (2 * r = D) && decide (q % 2 = 1))
  | .rtz => false
  | .rup => !neg && decide (r ≠ 0)
  | .rdn => neg && decide (r ≠ 0)
  | .rna => decide (D ≤ 2 * r)
  | .rsr => decide (D * 2 ^ 64 ≤ r * 2 ^ 64 + X * D)

/-- floor(log2 (n / d)) for positive n, d. -/
def flog2 (n d : Nat) : Int :=
  let l : Int := (Nat.log2 n : Int) - Nat.log2 d
  if 0 ≤ l then (if d * 2 ^ l.toNat ≤ n then l else l - 1)
  else (if d ≤ n * 2 ^ (-l).toNat then l else l - 1)

/-- n / d × 2^e in units of 2^k, rounded: quotient after rounding and whether it was inexact. -/
def roundAt (rm : Rm) (X : Nat) (neg : Bool) (n d : Nat) (e k : Int) : Nat × Bool :=
  let N := if k ≤ e then n * 2 ^ (e - k).toNat else n
  let D := if k ≤ e then d else d * 2 ^ (k - e).toNat
  let q := N / D
  let r := N % D
  (if roundsUp rm X neg q r D then q + 1 else q, decide (r ≠ 0))

/-- The largest finite magnitude of a format. -/
def Fmt.maxFin (f : Fmt) : Nat := f.inf - 1

/-- Overflow (R184): the result's magnitude bits. -/
def overflowMag (f : Fmt) (rm : Rm) (neg : Bool) : Nat :=
  match rm with
  | .rtz => f.maxFin
  | .rup => if neg then f.maxFin else f.inf
  | .rdn => if neg then f.inf else f.maxFin
  | _ => f.inf

/-- Round ±n/d × 2^e, n > 0, into a format (R184, R185). A tiny inexact result sets UF under FTZ too where nothing is flushed (DEDUCED,
log 133). -/
def roundVal (f : Fmt) (v : FEnv) (X : Nat) (neg : Bool) (n d : Nat) (e : Int) : FRes :=
  let l := flog2 n d + e
  let k0 := l - f.mb
  let k := if k0 < f.emin then f.emin else k0
  let q := roundAt v.rm X neg n d e k
  let mag := (k - f.emin).toNat * 2 ^ f.mb + q.1
  let u := roundAt v.rm X neg n d e k0
  -- tiny: rounded with an unbounded exponent, below the smallest normal 2^(emin + mb)
  let tiny := decide (k0 < f.emin) && !(decide (k0 = f.emin - 1) && decide (2 ^ (f.mb + 1) ≤ u.1))
  if f.inf ≤ mag then ⟨f.sign neg + overflowMag f v.rm neg, Fl.of + Fl.nx + (if overflowMag f v.rm neg = f.inf then Fl.nf else 0), true⟩
  else if v.ftz && decide (mag < 2 ^ f.mb) && decide (mag ≠ 0) then ⟨f.sign neg, Fl.uf + Fl.nx, true⟩
  else ⟨f.sign neg + mag, (if q.2 then Fl.nx + (if tiny then Fl.uf else 0) else 0), true⟩

/-- The canonical quiet NaN with IV as said; NF always (R186). -/
def nanRes (f : Fmt) (iv : Bool) : FRes := ⟨f.qnan, Fl.nf + (if iv then Fl.iv else 0), false⟩
def infRes (f : Fmt) (neg : Bool) : FRes := ⟨f.sign neg + f.inf, Fl.nf, false⟩
/-- An exact zero by rounding a finite value. -/
def zeroRes (f : Fmt) (neg : Bool) : FRes := ⟨f.sign neg, 0, true⟩

/-- Round a finite value, zero included. -/
def roundFin (f : Fmt) (v : FEnv) (X : Nat) (neg : Bool) (n d : Nat) (e : Int) : FRes :=
  if n = 0 then zeroRes f neg else roundVal f v X neg n d e

/-! ### Sums of exact terms -/

/-- A finite signed term ±m × 2^e. -/
abbrev Term := Bool × Nat × Int

def Term.int (t : Term) (e0 : Int) : Int :=
  let x : Int := (t.2.1 * 2 ^ (t.2.2 - e0).toNat : Nat)
  if t.1 then -x else x

/-- The least exponent of nonempty terms. -/
def minExp : List Term → Int → Int
  | [], e => e
  | t :: r, e => minExp r (if t.2.2 < e then t.2.2 else e)

def sumInt (ts : List Term) (e0 : Int) : Int :=
  match ts with
  | [] => 0
  | t :: r => Term.int t e0 + sumInt r e0

/-- Sign of an exact zero sum (R188): that of the terms when all are zeros of one sign, else + but in RDN. -/
def zeroSign (rm : Rm) (ts : List Term) : Bool :=
  if ts.all (fun t => t.2.1 = 0) && (ts.all (fun t => t.1) || ts.all (fun t => !t.1)) then (ts.headD (false, 0, 0)).1
  else rm = .rdn

/-- The exact sum of terms, rounded once. -/
def roundSum (f : Fmt) (v : FEnv) (X : Nat) (ts : List Term) : FRes :=
  let e0 := minExp ts 0
  let x := sumInt ts e0
  if x = 0 then zeroRes f (zeroSign v.rm ts) else roundVal f v X (decide (x < 0)) x.natAbs 1 e0

/-- A product of two values, exact. -/
def mulV (a b : FV) : FV :=
  match a, b with
  | .nan s, x => .nan (s || x.isSnan)
  | x, .nan s => .nan (s || x.isSnan)
  | .inf s, y => if y.isZero then .nan true else .inf (xor s y.neg?)
  | x, .inf s => if x.isZero then .nan true else .inf (xor s x.neg?)
  | .fin s m e, .fin s' m' e' => .fin (xor s s') (m * m') (e + e')

/-- Whether a product is 0 × ∞. -/
def mulInvalid (a b : FV) : Bool := (a.isZero && b.isInf) || (a.isInf && b.isZero)

/-- The terms of finite values. -/
def termsOf (vs : List FV) : List Term :=
  vs.filterMap (fun v => match v with | .fin s m e => some (s, m, e) | .inf _ => none | .nan _ => none)

/-- The exact sum of values rounded once; `ops` are the operands read, `inv` an invalid product among them (R188, R190). -/
def sumV (f : Fmt) (v : FEnv) (X : Nat) (vs : List FV) (ops : List FV) (inv : Bool) : FRes :=
  let sn := ops.any FV.isSnan || inv
  let nf := if ops.any FV.special then Fl.nf else 0
  let pinf := vs.any (fun x => x = .inf false)
  let ninf := vs.any (fun x => x = .inf true)
  if vs.any FV.isNan then nanRes f (sn || (pinf && ninf))
  else if pinf && ninf then nanRes f true
  else if pinf then infRes f false
  else if ninf then infRes f true
  else
    let r := roundSum f v X (termsOf vs)
    { r with fl := r.fl ||| nf }

def negV : FV → FV
  | .nan s => .nan s
  | .inf s => .inf (!s)
  | .fin s m e => .fin (!s) m e

/-! ### The instructions on one element -/

def fAdd (f : Fmt) (v : FEnv) (X a b : Nat) : FRes :=
  let x := unpack f v.daz a
  let y := unpack f v.daz b
  sumV f v X [x, y] [x, y] false

def fSub (f : Fmt) (v : FEnv) (X a b : Nat) : FRes :=
  let x := unpack f v.daz a
  let y := unpack f v.daz b
  sumV f v X [x, negV y] [x, y] false

def fMul (f : Fmt) (v : FEnv) (X a b : Nat) : FRes :=
  let x := unpack f v.daz a
  let y := unpack f v.daz b
  sumV f v X [mulV x y] [x, y] (mulInvalid x y)

def fFma (f : Fmt) (v : FEnv) (X a b d : Nat) : FRes :=
  let x := unpack f v.daz a
  let y := unpack f v.daz b
  let z := unpack f v.daz d
  sumV f v X [mulV x y, z] [x, y, z] (mulInvalid x y)

/-- FDIV (R188). -/
def fDiv (f : Fmt) (v : FEnv) (X a b : Nat) : FRes :=
  match unpack f v.daz a, unpack f v.daz b with
  | .nan s, y => nanRes f (s || y.isSnan)
  | x, .nan s => nanRes f (s || x.isSnan)
  | .inf _, .inf _ => nanRes f true
  | .inf s, .fin s' _ _ => infRes f (xor s s')
  | .fin s _ _, .inf s' => ⟨f.sign (xor s s'), Fl.nf, false⟩
  | .fin s m e, .fin s' m' e' =>
    if m' = 0 then
      (if m = 0 then nanRes f true else ⟨f.sign (xor s s') + f.inf, Fl.dz + Fl.nf, false⟩)
    else roundFin f v X (xor s s') m m' (e - e')

/-- a ≤ b on finite values. -/
def finLe (a b : Term) : Bool :=
  let e0 := minExp [a, b] 0
  decide (Term.int a e0 ≤ Term.int b e0)

/-- x < y on values that are not NaN; `z` orders −0 below +0. -/
def ltV (z : Bool) (x y : FV) : Bool :=
  match x, y with
  | .inf s, .inf s' => s && !s'
  | .inf s, _ => s
  | _, .inf s => !s
  | .fin s m e, .fin s' m' e' =>
    if m = 0 ∧ m' = 0 then z && s && !s' else !finLe (s', m', e') (s, m, e)
  | _, _ => false

/-- Bits of an operand as read after DAZ. -/
def readDaz (f : Fmt) (daz : Bool) (a : Nat) : Nat :=
  if daz && bitsOf a f.mb f.eb = 0 then f.sign (decide (a / 2 ^ (f.eb + f.mb) % 2 = 1)) else a

/-- minimumNumber and maximumNumber (R189). -/
def fMinMax (mx : Bool) (f : Fmt) (daz : Bool) (a b : Nat) : FRes :=
  let x := unpack f daz a
  let y := unpack f daz b
  let iv := if x.isSnan || y.isSnan then Fl.iv else 0
  let nf := if x.special || y.special then Fl.nf else 0
  if x.isNan && y.isNan then ⟨f.qnan, iv + Fl.nf, false⟩
  else if x.isNan then ⟨readDaz f daz b, iv + nf, false⟩
  else if y.isNan then ⟨readDaz f daz a, iv + nf, false⟩
  else
    let pickB := if mx then ltV true x y else ltV true y x
    ⟨readDaz f daz (if pickB then b else a), nf, false⟩

/-- FDOT on one f32 element (R190). -/
def fDot (f : Fmt) (v : FEnv) (X : Nat) (a0 b0 a1 b1 d : Nat) : FRes :=
  let x0 := unpack f v.daz a0
  let y0 := unpack f v.daz b0
  let x1 := unpack f v.daz a1
  let y1 := unpack f v.daz b1
  let z := unpack F32 v.daz d
  sumV F32 v X [mulV x0 y0, mulV x1 y1, z] [x0, y0, x1, y1, z] (mulInvalid x0 y0 || mulInvalid x1 y1)

/-- FSCL (R191); a zero is a zero of its sign, and draws as every zero result does (R184). -/
def fScl (f : Fmt) (v : FEnv) (X a n : Nat) : FRes :=
  match unpack f v.daz a with
  | .nan s => nanRes f s
  | .inf s => infRes f s
  | .fin s m e => if m = 0 then zeroRes f s else roundVal f v X s m 1 (e + max (-10000) (min 10000 (signedOf f.w n)))

/-- Integer square root by bits, from bit n - 1 down. -/
def isqrtFrom (x : Nat) : Nat → Nat → Nat
  | 0, s => s
  | n + 1, s => isqrtFrom x n (if (s + 2 ^ n) * (s + 2 ^ n) ≤ x then s + 2 ^ n else s)

/-- √(m × 2^e) to at least 130 bits, as twice the root with a sticky half, over 2, and its exponent. -/
def sqrtParts (m : Nat) (e : Int) : Nat × Int :=
  let m := if e % 2 = 0 then m else 2 * m
  let e := if e % 2 = 0 then e else e - 1
  let x := m * 2 ^ 264
  let s := isqrtFrom x 220 0
  (if s * s = x then 2 * s else 2 * s + 1, e / 2 - 133)

/-- SQRT (R192); a zero is a zero of its sign, and draws as every zero result does (R184). -/
def fSqrt (f : Fmt) (v : FEnv) (X a : Nat) : FRes :=
  match unpack f v.daz a with
  | .nan s => nanRes f s
  | .inf s => if s then nanRes f true else infRes f false
  | .fin s m e =>
    if m = 0 then zeroRes f s
    else if s then nanRes f true
    else
      let p := sqrtParts m e
      roundVal f v X false p.1 1 p.2

/-- RCP (R192). -/
def fRcp (f : Fmt) (v : FEnv) (X a : Nat) : FRes :=
  match unpack f v.daz a with
  | .nan s => nanRes f s
  | .inf s => ⟨f.sign s, Fl.nf, false⟩
  | .fin s m e =>
    if m = 0 then ⟨f.sign s + f.inf, Fl.dz + Fl.nf, false⟩ else roundVal f v X s 1 m (-e)

/-- Exponent k when a finite positive value is exactly 2^k. -/
def pow2Exp (m : Nat) (e : Int) : Option Int := if m = 2 ^ Nat.log2 m then some (e + Nat.log2 m) else none

/-- The open bits of a form on an operand (R192). -/
def funOpen (op : Nat) (c : FF) (v : FEnv) (a : Nat) : Nat :=
  Config.transcendental op (match c with | .f64 => 0 | .f32 => 1 | .f16 => 2 | .bf16 => 3) a v.daz v.ftz

/-- The encoding of n × 2^e rounded up or down, n = 0 included. -/
def boundEnc (f : Fmt) (up : Bool) (n : Nat) (e : Int) : Nat :=
  (roundFin f ⟨if up then .rup else .rdn, false, false⟩ 0 false n 1 e).bits

/-- The least and greatest encodings that are within `u` ulp of every value between lo × 2^e and hi × 2^e, so of the exact
one; a negative number stands for the encoding of the other sign. An ulp is that of the format at the exact result (R192). -/
def ulpRange (f : Fmt) (u lo hi : Nat) (e : Int) : Int × Int :=
  let p := e + Nat.log2 lo - f.mb
  let ue := if p < f.emin then f.emin else p
  let c := if e < ue then e else ue
  let w := u * 2 ^ (ue - c).toNat
  let l := lo * 2 ^ (e - c).toNat
  let h := hi * 2 ^ (e - c).toNat
  (if w ≤ h then (boundEnc f true (h - w) c : Int) else -(boundEnc f false (w - h) c : Int), (boundEnc f false (l + w) c : Int))

/-- A result that R192 fixes within `u` ulp, the choice among its encodings open; its tininess and FTZ by R185. -/
def openRes (f : Fmt) (v : FEnv) (u : Nat) (neg : Bool) (lo hi : Nat) (e : Int) (choice : Nat) : FRes :=
  let r := ulpRange f u lo hi e
  let x := r.1 + ((choice % ((r.2 - r.1).toNat + 1) : Nat) : Int)
  let sgn := f.sign (neg ^^ decide (x < 0))
  if decide (x.natAbs < 2 ^ f.mb) then
    (if v.ftz && decide (x ≠ 0) then ⟨sgn, Fl.uf + Fl.nx, false⟩ else ⟨sgn + x.natAbs, Fl.nx + Fl.uf, false⟩)
  else ⟨sgn + x.natAbs, Fl.nx, false⟩

/-- The same for a value of x units (Approx), or of -x. -/
def openUnits (f : Fmt) (v : FEnv) (neg : Bool) (x : Int) (choice : Nat) : FRes :=
  openRes f v 2 (neg ^^ decide (x < 0)) (x.natAbs - apxErr) (x.natAbs + apxErr) (-192) choice

/-- Whether m × 2^e lies below 2^-40, where sin a, tanh a and a differ by less than a × 2^-80. -/
def isSmall (m : Nat) (e : Int) : Bool := decide (e + Nat.log2 m < -40)

/-- 1 / √(m × 2^e) to 190 bits: s and k with the value from s × 2^k up to, not including, (s + 1) × 2^k. -/
def rsqParts (m : Nat) (e : Int) : Nat × Int :=
  let m := if e % 2 = 0 then m else 2 * m
  let e := if e % 2 = 0 then e else e - 1
  (isqrtFrom (2 ^ 440 / m) 221 0, -(e / 2) - 220)

/-- RSQ (R192): at most 1 ulp. -/
def fRsq (c : FF) (v : FEnv) (a : Nat) : FRes :=
  let f := c.fmt
  match unpack f v.daz a with
  | .nan s => nanRes f s
  | .inf s => if s then nanRes f true else ⟨0, Fl.nf, false⟩
  | .fin s m e =>
    if m = 0 then ⟨f.sign s + f.inf, Fl.dz + Fl.nf, false⟩
    else if s then nanRes f true
    else
      let x := funOpen 2 c v a
      let r := match pow2Exp m e with
        | some k => if k % 2 = 0 then some (-k / 2) else none
        | none => none
      match r with
      -- 1 / √a is a power of two, so representable, and NX stays clear
      | some k => { openRes f v 1 false 1 1 k x with fl := 0 }
      | none =>
        let p := rsqParts m e
        openRes f v 1 false p.1 (p.1 + 1) p.2 x

/-- EXP2 (R192): at most 2 ulp; exact at integers whose power is representable. -/
def fExp2 (c : FF) (v : FEnv) (a : Nat) : FRes :=
  let f := c.fmt
  match unpack f v.daz a with
  | .nan s => nanRes f s
  | .inf s => if s then ⟨0, Fl.nf, false⟩ else infRes f false
  | .fin s m e =>
    let isInt := decide (m = 0) || decide (0 ≤ e) || decide (m % 2 ^ (-e).toNat = 0)
    let big := decide (m ≠ 0) && decide (12 ≤ e + Nat.log2 m)
    let n := if 0 ≤ e then m * 2 ^ e.toNat else m / 2 ^ (-e).toNat
    if !s && (big || decide (f.bias + 1 ≤ n)) then ⟨f.inf, Fl.of + Fl.nx + Fl.nf, false⟩
    -- far below the least subnormal
    else if s && big then openRes f v 2 false 1 2 (-4097) (funOpen 3 c v a)
    else if isInt then
      let k : Int := if s then -(n : Int) else n
      if f.emin ≤ k then { roundVal f { v with rm := .rne } 0 false 1 1 k with drew := false }
      else openRes f v 2 false 1 1 k (funOpen 3 c v a)
    else
      let p := apxExp2 s m e
      openRes f v 2 false (max apxOne (p.2 - apxErr)) (min (2 * apxOne) (p.2 + apxErr)) (p.1 - 192) (funOpen 3 c v a)

/-- LOG2 (R192): at most 2 ulp; exact for powers of two. -/
def fLog2 (c : FF) (v : FEnv) (a : Nat) : FRes :=
  let f := c.fmt
  match unpack f v.daz a with
  | .nan s => nanRes f s
  | .inf s => if s then nanRes f true else infRes f false
  | .fin s m e =>
    if m = 0 then ⟨f.sign true + f.inf, Fl.dz + Fl.nf, false⟩
    else if s then nanRes f true
    else
      match pow2Exp m e with
      | some k => if k = 0 then ⟨0, 0, false⟩
                  else { roundVal f { v with rm := .rne } 0 (decide (k < 0)) k.natAbs 1 0 with drew := false }
      | none => openUnits f v false (apxLog2 m e) (funOpen 4 c v a)

/-- SIN (R192): at most 2 ulp. -/
def fSin (c : FF) (v : FEnv) (a : Nat) : FRes :=
  let f := c.fmt
  match unpack f v.daz a with
  | .nan s => nanRes f s
  | .inf _ => nanRes f true
  | .fin s m e =>
    if m = 0 then ⟨f.sign s, 0, false⟩
    else if isSmall m e then openRes f v 2 s (m * (2 ^ 80 - 1)) (m * 2 ^ 80) (e - 80) (funOpen 5 c v a)
    else openUnits f v s (apxSin m e) (funOpen 5 c v a)

/-- COS (R192): at most 2 ulp. cos 0 = 1 is representable, so NX stays clear there. -/
def fCos (c : FF) (v : FEnv) (a : Nat) : FRes :=
  let f := c.fmt
  match unpack f v.daz a with
  | .nan s => nanRes f s
  | .inf _ => nanRes f true
  | .fin _ m e =>
    if m = 0 then { openRes f v 2 false 1 1 0 (funOpen 6 c v a) with fl := 0 }
    else if isSmall m e then openRes f v 2 false (2 ^ 80 - 1) (2 ^ 80) (-80) (funOpen 6 c v a)
    else openUnits f v false (apxCos m e) (funOpen 6 c v a)

/-- TANH (R192): at most 2 ulp. -/
def fTanh (c : FF) (v : FEnv) (a : Nat) : FRes :=
  let f := c.fmt
  match unpack f v.daz a with
  | .nan s => nanRes f s
  | .inf s => ⟨f.sign s + f.bias * 2 ^ f.mb, Fl.nf, false⟩
  | .fin s m e =>
    if m = 0 then ⟨f.sign s, 0, false⟩
    else if isSmall m e then openRes f v 2 s (m * (2 ^ 80 - 1)) (m * 2 ^ 80) (e - 80) (funOpen 7 c v a)
    -- 1 - tanh a < 2^-80 from 2^5 on
    else if 5 ≤ e + Nat.log2 m then openRes f v 2 s (2 ^ 80 - 1) (2 ^ 80) (-80) (funOpen 7 c v a)
    else openUnits f v s (apxTanh (apxUnits m e) : Int) (funOpen 7 c v a)

/-- FABS and FNEG (R193). -/
def fAbs (f : Fmt) (a : Nat) : Nat := a % 2 ^ (f.w - 1)
def fNeg (f : Fmt) (a : Nat) : Nat := if a / 2 ^ (f.w - 1) % 2 = 1 then a - 2 ^ (f.w - 1) else a + 2 ^ (f.w - 1)

/-- FCLASS (R193). -/
def fClass (f : Fmt) (a : Nat) : Nat :=
  match unpack f false a with
  | .nan s => if s then 2 ^ 8 else 2 ^ 9
  | .inf s => if s then 1 else 2 ^ 7
  | .fin s m _ =>
    if m = 0 then (if s then 2 ^ 3 else 2 ^ 4)
    else if m < 2 ^ f.mb then (if s then 2 ^ 2 else 2 ^ 5) else (if s then 2 else 2 ^ 6)

/-- FCMP (R194): the condition and the flags. -/
def fCmp (f : Fmt) (daz : Bool) (c : FCC) (a b : Nat) : Bool × Nat :=
  let x := unpack f daz a
  let y := unpack f daz b
  let nan := x.isNan || y.isNan
  let iv := match c with
    | .lt => nan
    | .le => nan
    | .gt => nan
    | .ge => nan
    | _ => x.isSnan || y.isSnan
  let fl := (if iv then Fl.iv else 0) + (if x.special || y.special then Fl.nf else 0)
  let lt := ltV false x y
  let gt := ltV false y x
  let r := match c with
    | .eq => !nan && !lt && !gt
    | .ne => nan || lt || gt
    | .lt => !nan && lt
    | .le => !nan && !gt
    | .gt => !nan && gt
    | .ge => !nan && !lt
    | .un => nan
    | .od => !nan
  (r, fl)

/-- FCVT (R196). -/
def fCvt (src dst : Fmt) (v : FEnv) (X a : Nat) : FRes :=
  let x := unpack src v.daz a
  sumV dst v X [x] [x] false

/-- FCVTI (R197). -/
def fCvtI (src : Fmt) (v : FEnv) (X : Nat) (uns : Bool) (w a : Nat) : FRes :=
  let lo : Int := if uns then 0 else -((2 ^ (w - 1) : Nat) : Int)
  let hi : Int := if uns then ((2 ^ w : Nat) : Int) - 1 else ((2 ^ (w - 1) : Nat) : Int) - 1
  match unpack src v.daz a with
  | .nan _ => ⟨0, Fl.iv + Fl.nf, false⟩
  | .inf s => ⟨wrapTo w (if s then lo else hi), Fl.iv + Fl.nf, false⟩
  | .fin s m e =>
    let q := roundAt v.rm X s m 1 e 0
    let x : Int := if s then -(q.1 : Int) else q.1
    if x < lo then ⟨wrapTo w lo, Fl.iv, true⟩
    else if hi < x then ⟨wrapTo w hi, Fl.iv, true⟩
    else ⟨wrapTo w x, if q.2 then Fl.nx else 0, true⟩

/-- ICVTF (R198). -/
def iCvtF (dst : Fmt) (v : FEnv) (X : Nat) (uns : Bool) (w a : Nat) : FRes :=
  let x : Int := if uns then (a : Int) else signedOf w a
  roundFin dst v X (decide (x < 0)) x.natAbs 1 0

/-- ICVT (R199). -/
def iCvt (sat sgn : Bool) (ws wd a : Nat) : Nat :=
  let x : Int := if sgn then signedOf ws a else (a : Int)
  if sat then (if sgn then satS wd x else satU wd x) else wrapTo wd x

/-! ### Narrow formats (R200 to R203, R216 to R220) -/

end Sys2Proof.Machine

namespace Sys2Proof

/-- nf as a format with an exponent, and how many of its top codes are special (R216). -/
def NF.fmt : NF → Machine.Fmt
  | .e4m3 => ⟨4, 3⟩
  | .e5m2 => ⟨5, 2⟩
  | .e2m3 => ⟨2, 3⟩
  | .e3m2 => ⟨3, 2⟩
  | .e2m1 => ⟨2, 1⟩
  | .sm2 => ⟨0, 1⟩
  | .sm4 => ⟨0, 3⟩
  | .sm8 => ⟨0, 7⟩
  | .e8m0 => ⟨8, 0⟩

/-- Whether the format is a shared-micro-exponent one. -/
def NF.sm : NF → Bool
  | .sm2 => true
  | .sm4 => true
  | .sm8 => true
  | _ => false

/-- Exponent of the last place of the smallest binade. -/
def NF.emin : NF → Int
  | .e4m3 => -9
  | .e5m2 => -16
  | .e2m3 => -3
  | .e3m2 => -4
  | .e2m1 => -1
  | .sm2 => 0
  | .sm4 => -2
  | .sm8 => -6
  | .e8m0 => -127

/-- Magnitude code of the largest finite value. -/
def NF.maxCode : NF → Nat
  | .e4m3 => 0x7E
  | .e5m2 => 0x7B
  | .e2m3 => 0x1F
  | .e3m2 => 0x1F
  | .e2m1 => 0x7
  | .sm2 => 1
  | .sm4 => 7
  | .sm8 => 0x7F
  | .e8m0 => 0xFE

/-- Bits of a code. -/
def NF.width : NF → Nat
  | .e4m3 => 8
  | .e5m2 => 8
  | .e2m3 => 6
  | .e3m2 => 6
  | .e2m1 => 4
  | .sm2 => 2
  | .sm4 => 4
  | .sm8 => 8
  | .e8m0 => 8

end Sys2Proof

namespace Sys2Proof.Machine

/-- The value of a magnitude code as m × 2^e; SM codes are fixed-point (R219). -/
def magVal (n : NF) (code : Nat) : Nat × Int :=
  if n.sm then (code, n.emin)
  else if n = .e8m0 then (1, (code : Int) - 127)
  else
    let f := n.fmt
    let e := code / 2 ^ f.mb
    let m := code % 2 ^ f.mb
    if e = 0 then (m, n.emin) else (m + 2 ^ f.mb, n.emin + (e : Int) - 1)

/-- The value of a code relative to its scale (R202, R216, R219), μ applied to SM formats. -/
def narrowVal (n : NF) (mu : Nat) (code : Nat) : FV :=
  if n = .e8m0 then (if code % 256 = 255 then .nan false else .fin false 1 ((code % 256 : Nat) - 127))
  else
    let w := n.width
    let c := code % 2 ^ w
    let neg := decide (c / 2 ^ (w - 1) = 1)
    let mag := c % 2 ^ (w - 1)
    match n with
    | .e4m3 => if mag = 0x7F then .nan false else .fin neg (magVal n mag).1 (magVal n mag).2
    | .e5m2 => if mag = 0x7C then .inf neg else if 0x7C < mag then .nan (decide (mag = 0x7D))
               else .fin neg (magVal n mag).1 (magVal n mag).2
    | _ => if n.sm then .fin neg mag (n.emin - mu) else .fin neg (magVal n mag).1 (magVal n mag).2

/-- Round a positive magnitude N/D × 2^e to the grid of a format's magnitudes, unbounded above: the code (which may exceed
the largest) and whether it was inexact. The magnitude is what is rounded and the sign is added after (R201), so RUP rounds
a magnitude up and RDN down whatever the element's sign (log 68). -/
def roundMag (n : NF) (rm : Rm) (X : Nat) (N : Nat) (e : Int) : Nat × Bool :=
  if N = 0 then (0, false)
  else if n.sm then roundAt rm X false N 1 e n.emin
  else
    let f := n.fmt
    let k0 := flog2 N 1 + e - f.mb
    let k := if k0 < n.emin then n.emin else k0
    let q := roundAt rm X false N 1 e k
    ((k - n.emin).toNat * 2 ^ f.mb + q.1, q.2)

/-- Compare magnitude values a × 2^i ≤ b × 2^j. -/
def leScaled (a : Nat) (i : Int) (b : Nat) (j : Int) : Bool := finLe (false, a, i) (false, b, j)

/-- The largest code whose value (scaled by 2^-μ) does not exceed a bound, from code c down. -/
def clampCode (n : NF) (mu : Nat) (b : Nat) (be : Int) : Nat → Nat
  | 0 => 0
  | c + 1 => if leScaled (magVal n (c + 1)).1 ((magVal n (c + 1)).2 - mu) b be then c + 1 else clampCode n mu b be c

/-- One element's rounding into a narrow format with the bound B = b × 2^be (R201, R224): magnitude code, flags. `y` is
N × 2^e. -/
def narrowRound (n : NF) (rm : Rm) (X : Nat) (mu : Nat) (b : Nat) (be : Int) (N : Nat) (e : Int) : Nat × Nat :=
  let q := roundMag n rm X N (e + mu)
  let big := decide (n.maxCode < q.1) || !leScaled (magVal n q.1).1 ((magVal n q.1).2 - mu) b be
  let code := if big then clampCode n mu b be n.maxCode else q.1
  (code, (if q.2 then Fl.nx else 0) + (if decide (N ≠ 0) && decide (q.1 = 0) then Fl.uf else 0)
    + (if big then Fl.cl else 0))

/-- The clamp of an infinite magnitude. -/
def narrowInf (n : NF) (mu : Nat) (b : Nat) (be : Int) : Nat := clampCode n mu b be n.maxCode

/-- The clamp bound of FCVTN from vb[31:0] (R201), as m × 2^e. DAZ, which R201 names at x, does not apply to it (DEDUCED, log 134). -/
def fcvtnBound (n : NF) (x : Nat) : Nat × Int :=
  let mx := magVal n n.maxCode
  match unpack F32 false (x % 2 ^ 32) with
  | .fin false m e => if m = 0 || !leScaled m e mx.1 mx.2 then mx else (m, e)
  | _ => mx

/-- μ of a pair (R201): both finite and below Mmax / 2. -/
def pairMu (n : NF) (y0 y1 : FV) (s : Int) : Nat :=
  let mx := magVal n n.maxCode
  let small := fun (y : FV) => match y with
    | .fin _ m e => !leScaled mx.1 (mx.2 - 1) m (e + s)
    | _ => false
  if n.sm && small y0 && small y1 then 1 else 0

/-- One element of FCVTN: code, flags, poison, drew. -/
def fcvtnEl (n : NF) (rm : Rm) (X : Nat) (mu : Nat) (b : Nat × Int) (s : Int) (x : FV) : Nat × Nat × Bool × Bool :=
  let w := n.width
  let sg := if x.neg? then 2 ^ (w - 1) else 0
  match x with
  | .nan sn => (0, Fl.nf + (if sn then Fl.iv else 0), true, false)
  | .inf _ =>
    if n = .e5m2 then (sg + 0x7C, Fl.nf, false, false)
    else (sg + narrowInf n mu b.1 b.2, Fl.nf + Fl.cl, false, false)
  | .fin _ m e =>
    let r := narrowRound n rm X mu b.1 b.2 m (e + s)
    (sg + r.1, r.2, false, true)

/-- FCVTN on one lane (R200, R201): result, flags, generator. -/
def fcvtnLane (n : NF) (v : FEnv) (gen : Word) (va vb : Word) : Word × Nat × Word :=
  let E := bitsOf vb.toNat 32 8
  if E = 255 then (BitVec.ofNat 64 (2 ^ 17), 0, gen)
  else
    let b := fcvtnBound n (vb.toNat % 2 ^ 32)
    let x0 := unpack F32 v.daz (elem 32 va 0)
    let x1 := unpack F32 v.daz (elem 32 va 1)
    let s : Int := 127 - (E : Int)
    let mu := pairMu n x0 x1 s
    let nanCode := fun (x : Nat) (r : Nat × Nat × Bool × Bool) =>
      -- E4M3 and E5M2 have NaN codes, which keep the source's sign
      if r.2.2.1 && (decide (n = .e4m3) || decide (n = .e5m2)) then
        ((if x / 2 ^ 31 = 1 then 0x80 else 0) + (if n = .e4m3 then 0x7F else 0x7E), r.2.1, false, r.2.2.2) else r
    let r0 := nanCode (elem 32 va 0) (fcvtnEl n v.rm (draw gen).toNat mu b s x0)
    let g1 := if v.rm = .rsr ∧ r0.2.2.2 then draw gen else gen
    let r1 := nanCode (elem 32 va 1) (fcvtnEl n v.rm (draw g1).toNat mu b s x1)
    let g2 := if v.rm = .rsr ∧ r1.2.2.2 then draw g1 else g1
    (BitVec.ofNat 64 (r0.1 + r1.1 * 2 ^ 8 + mu * 2 ^ 16 + (if r0.2.2.1 || r1.2.2.1 then 2 ^ 17 else 0)),
      r0.2.1 ||| r1.2.1, g2)

/-- FCVTW on one element (R202). -/
def fCvtW (n : NF) (dst : Fmt) (v : FEnv) (X mu code : Nat) : FRes :=
  let x := narrowVal n mu code
  sumV dst v X [x] [x] false

/-- FCVTR on one element (R203): random field `rnd` of `k` bits. -/
def fCvtR (dst : Fmt) (v : FEnv) (k rnd a : Nat) : FRes :=
  match unpack F32 v.daz a with
  | .nan s => nanRes dst s
  | .inf s => infRes dst s
  | .fin s m e =>
    if m = 0 then ⟨dst.sign s, 0, false⟩
    else
      let k0 := flog2 m 1 + e - dst.mb
      let kk := if k0 < dst.emin then dst.emin else k0
      let up := fun (kk : Int) =>
        let d := (kk - e).toNat
        let disc := if e < kk then m % 2 ^ d else 0
        let q := if e < kk then m / 2 ^ d else m * 2 ^ (e - kk).toNat
        let c := if d = 0 then 0 else if k < d then (disc / 2 ^ (d - k) + rnd) / 2 ^ k else (disc + rnd / 2 ^ (k - d)) / 2 ^ d
        (q + c, decide (disc ≠ 0))
      let r := up kk
      let u := up k0
      let mag := (kk - dst.emin).toNat * 2 ^ dst.mb + r.1
      let tiny := decide (k0 < dst.emin) && !(decide (k0 = dst.emin - 1) && decide (2 ^ (dst.mb + 1) ≤ u.1))
      if dst.inf ≤ mag then ⟨dst.sign s + dst.inf, Fl.of + Fl.nx + Fl.nf, false⟩
      else if v.ftz && decide (mag < 2 ^ dst.mb) && decide (mag ≠ 0) then ⟨dst.sign s, Fl.uf + Fl.nx, false⟩
      else ⟨dst.sign s + mag, if r.2 then Fl.nx + (if tiny then Fl.uf else 0) else 0, false⟩

end Sys2Proof.Machine
end

