-- ==== Sys2Proof/Machine/Route.lean ====
section
/-! DEFINITION. Requests to other chips: sending (R325, R327, R328), and the operations whose completion a
release waits for. -/

namespace Sys2Proof.Machine

def State.opLive (s : State) (o : Nat) : Bool := (oget s.coh.ops o).isSome

/-- The operations of a list that have not completed. -/
def State.liveOps (s : State) (os : List Nat) : List Nat := os.filter s.opLive

def remoteKey (chip seq : Nat) : Nat := chip * 2 ^ 32 + seq

/-- Key of the record of an MCAST store's copy at a member: beside the pairwise sequence numbers. -/
def memberKey (chip token : Nat) : Nat := (2048 + chip) * 2 ^ 32 + token

/-- What a request carries to its target. -/
def Remote.request (r : Remote) (self : Nat) : RemoteReq := ⟨self, r.seq, r.exp, r.off, r.n, r.op, r.acq, r.tag, true⟩

/-- The ROOT of a group, as the first word of its tree-table entry names it (R290). -/
def State.rootOf (s : State) (g : Nat) : Nat := fld (s.bar0 (0x200000 + 64 * g)) 52 10

/-- The chip to which a request leaves: its target, and of the sector of an MCAST store the ROOT of the group (R298). -/
def State.nextHop (s : State) (r : Remote) : Nat :=
  match r.group with
  | some g => s.rootOf g.group
  | none => r.chip

/-- Send a request that has not left, or resend it, on a port other than those tried. The one sector of an MCAST store stands for the
copies of all its members. -/
def State.sendRemote (s : State) (key : Nat) (r : Remote) : State :=
  match r.group with
  | some g =>
    let root := s.rootOf g.group
    let leaves := fun (s : State) (p : Nat) => { s with pod := { s.pod with
      remotes := smap s.pod.remotes (fun _ x =>
        if x.group.isSome && x.seq = r.seq then { x with sent := true, port := p, since := s.sched.gtc } else x) } }
    if root = s.self then (leaves s 48).emit (.group root g)
    else
      match s.pickPort root r.sector r.tried with
      | none => s
      | some p => ((leaves s p).sendFlit p).emit (.via p (s.flitNo p) (.group root g))
  | none =>
    match s.pickPort r.chip r.sector r.tried with
    | none => s
    | some p =>
      let r' : Remote := { r with sent := true, port := p, since := s.sched.gtc }
      ({ s with pod := { s.pod with remotes := oset s.pod.remotes key (some r') } }.sendFlit p).emit
        (.request r.chip r.seq p (r.request s.self))

/-- Whether a request that has not left may leave: what it follows is complete (R118), and no earlier request of its core to
its sector still has to leave (R327), or has been sent again and lacks its receipt (R328). -/
def State.remoteFree (s : State) (key : Nat) (r : Remote) : Bool :=
  !r.sent && (s.liveOps r.after).isEmpty
    && !(slist s.pod.remotes).any (fun x => x.2.core = r.core && x.2.sector = r.sector
      && (if r.group.isSome then decide (x.2.seq < r.seq) else decide (x.1 < key))
      && (!x.2.sent || (x.2.tried ≠ [] && !x.2.receipt)))

/-- Send every request that may leave. -/
def State.flushRemotes (s : State) : State :=
  (slist s.pod.remotes).foldl (fun s x =>
    match oget s.pod.remotes x.1 with
    | some r => if s.remoteFree x.1 r then s.sendRemote x.1 r else s
    | none => s) s

/-- The open batch of a tag (R132, R133). -/
def Team.openBatch (t : Team) (tag : BitVec 2) : Nat := tag.toNat + 4 * sget 0 t.batchGen tag.toNat

/-- The open batch of a tag becomes one that is being closed. -/
def Team.nextBatch (t : Team) (tag : BitVec 2) : Team :=
  { t with peers := sset [] t.peers (t.openBatch tag) [], batchGen := sset 0 t.batchGen tag.toNat (sget 0 t.batchGen tag.toNat + 1) }

/-- Whether a close of a tag is outstanding (R133). -/
def Team.closing (t : Team) (tag : BitVec 2) : Bool := (slist t.closes).any (fun x => x.1 % 4 = tag.toNat)

/-- A request of an open batch that had been sent is lost: its peer will not count it, and counts as lost. -/
def Team.losePeer (t : Team) (tag chip : Nat) : Team :=
  { t with peers := sset [] t.peers tag ((sget [] t.peers tag).map (fun x => if x.1 = chip then (x.1, x.2.1 - 1, true) else x)) }

/-- Enter a request in a peer set and count it (R132, R329); `lost` when it was refused here as unreachable. -/
def Team.addPeer (t : Team) (tag chip : Nat) (lost : Bool) : Team :=
  let ps := sget [] t.peers tag
  let ps' := if ps.any (fun x => x.1 = chip) then
      ps.map (fun x => if x.1 = chip then (x.1, x.2.1 + (if lost then 0 else 1), x.2.2 || lost) else x)
    else ps ++ [(chip, if lost then 0 else 1, lost)]
  { t with peers := sset [] t.peers tag ps' }

end Sys2Proof.Machine
end

