-- ==== Sys2Proof/Machine/Coherence.lean ====
section
/-! DEFINITION. The L1 of each core and the homes (R155 to R170): shared operations. The events that deliver messages are in
`CohEvents`. -/

namespace Sys2Proof.Machine

/-! ### Operations under way -/

/-- No team: what a load record that fills no register names. -/
def noTeam : Nat := 2 ^ 64

/-- Start an operation. -/
def State.freshOp (s : State) (k : OpKind) (tid : Nat) (f : Bool) (spans : List Span := []) : Nat × State :=
  let n := s.newId
  (n.1, { n.2 with coh := { n.2.coh with ops := oset n.2.coh.ops n.1 (some ⟨k, tid, f, spans⟩) } })

/-- Start an operation of an arm: its identity enters the arm's scoreboard (R99). -/
def State.newOp (s : State) (k : OpKind) (tid : Nat) (f : Bool) (spans : List Span := []) : Nat × State :=
  let n := s.freshOp k tid f spans
  (n.1, n.2.modArm tid f (fun a => { a with ops := n.1 :: n.2.liveOps a.ops }))

def State.dropOp (s : State) (o : Nat) : State := { s with coh := { s.coh with ops := oset s.coh.ops o none } }

/-! ### Messages -/

def State.send (s : State) (toHome : Bool) (core sec : Nat) (b : MsgBody) (after : List Nat := []) : State :=
  let n := s.newId
  { n.2 with coh := { n.2.coh with net := n.2.coh.net ++ [⟨n.1, toHome, core, sec, b, after⟩] } }

/-- The message `id` when it may be delivered: first of its direction, core and sector (R156), nothing it follows still
under way (R118). -/
def State.deliverable (s : State) (id : Nat) : Option Msg :=
  match s.coh.net.find? (fun m => m.id = id) with
  | none => none
  | some m =>
    match s.coh.net.find? (fun x => x.toHome = m.toHome && x.core = m.core && x.sector = m.sector) with
    | some x => if x.id = id && (s.liveOps m.after).isEmpty then some m else none
    | none => none

def State.takeMsg (s : State) (id : Nat) : State :=
  { s with coh := { s.coh with net := s.coh.net.filter (fun m => m.id ≠ id) } }

/-! ### L1 and directory access -/

def State.l1? (s : State) (c sec : Nat) : Option L1Sec := oget s.coh.l1 (l1Key c sec)
def State.setL1 (s : State) (c sec : Nat) (x : Option L1Sec) : State :=
  { s with coh := { s.coh with l1 := oset s.coh.l1 (l1Key c sec) x } }

/-- The directory entry of a sector; one made now starts from its set's summary expiry (R158). -/
def State.dirEnt (s : State) (sec : Nat) : DirEnt :=
  (oget s.coh.dir sec).getD { DirEnt.init with exp := sget 0 s.coh.summary (dirSetOf sec) }
def State.setDir (s : State) (sec : Nat) (d : DirEnt) : State :=
  { s with coh := { s.coh with dir := oset s.coh.dir sec (some d) } }

def State.poisoned (s : State) (sec : Nat) : Bool := sget false s.coh.poison sec

/-- The 64 committed bytes of a sector. -/
def State.sectorData (s : State) (sec : Nat) : List Byte := Memory.bytes s.mem (sec * 64) 64

/-! ### Loads under way -/

/-- Bytes o to o + n - 1 of a sector's data as a number. -/
def dataAt (data : List Byte) (o n : Nat) : Nat := leNat ((data.drop o).take n)

/-- A loaded number extended to 64 bits (R74). -/
def extendTo (sx : Bool) (n x : Nat) : Word := BitVec.ofNat 64 (if sx then wrapTo 64 (signedOf (8 * n) x) else x)

def Load.vals (l : Load) (p : Part) (data : List Byte) : List Word :=
  p.lanes.map (fun x => extendTo l.sx l.n (dataAt data x.2 l.n))

def State.modPart (s : State) (load part : Nat) (g : Load → Part → Part) : State :=
  match oget s.coh.loads load with
  | none => s
  | some l =>
    match oget l.parts part with
    | none => s
    | some p =>
      let l' : Load := { l with parts := oset l.parts part (some (g l p)) }
      { s with coh := { s.coh with loads := oset s.coh.loads load (some l') } }

/-- The bytes of a part have arrived at the core. -/
def State.readyPart (s : State) (load part : Nat) (data : List Byte) : State :=
  s.modPart load part (fun l p => { p with
    st := if s.poisoned p.sector then .poisoned (l.vals p data) else .ready (l.vals p data) })

/-- The old value of an atomic performed in the L1. -/
def State.readyOld (s : State) (load part : Nat) (old : Nat) : State :=
  s.modPart load part (fun _ p => { p with
    st := if s.poisoned p.sector then .poisoned [BitVec.ofNat 64 old] else .ready [BitVec.ofNat 64 old] })

/-- The old values of the lanes of one remote atomic (R325). -/
def State.readyOlds (s : State) (load part : Nat) (olds : List Nat) (bad : Bool) : State :=
  let xs := olds.map (BitVec.ofNat 64)
  s.modPart load part (fun _ p => { p with st := if bad then .poisoned xs else .ready xs })

/-- A reply without a copy has reached the core: data, or the old value of an atomic. -/
def State.takeReply (s : State) (b : MsgBody) : State :=
  match b with
  | .data d bad ld p => s.modPart ld p (fun l x => { x with st := if bad then .poisoned (l.vals x d) else .ready (l.vals x d) })
  | .old v bad ld p =>
    s.modPart ld p (fun _ x => { x with st := if bad then .poisoned [BitVec.ofNat 64 v] else .ready [BitVec.ofNat 64 v] })
  | _ => s

def State.losePart (s : State) (load part chip : Nat) : State :=
  s.modPart load part (fun _ p => { p with st := .lost chip })

/-- A store of the core to a sector: replies of loads asked for before it install no copy. -/
def State.noInstall (s : State) (c sec : Nat) : State :=
  { s with coh := { s.coh with loads := smap s.coh.loads (fun _ l =>
    if l.core = c then { l with parts := smap l.parts (fun _ p =>
      if p.sector = sec then { p with install := false } else p) } else l) } }

/-! ### Atomic operations (R113, R114) -/

/-- The new value, none when CAS writes nothing. -/
def atomicNew (op : AOp) (wide : Bool) (old b c : Nat) : Option Nat :=
  let w := if wide then 64 else 32
  let f := if wide then F64 else F32
  match op with
  | .add => some (iadd w old b)
  | .and => some (old &&& b)
  | .or => some (old ||| b)
  | .xor => some (old ^^^ b)
  | .min => some (imin w old b)
  | .max => some (imax w old b)
  | .minn => some (iminn old b)
  | .maxn => some (imaxn old b)
  | .xchg => some b
  | .cas => if old = b then some c else none
  | .fadd => some (fAdd f ⟨.rne, false, false⟩ 0 old b).bits
  | .fmin => some (fMinMax false f false old b).bits
  | .fmax => some (fMinMax true f false old b).bits
  | .incn => some (if b ≤ old then 0 else old + 1)
  | .decn => some (if old = 0 ∨ b < old then b else old - 1)

def atomicBytes (wide : Bool) : Nat := if wide then 8 else 4

/-- The operand bits of an atomic. -/
def atomicArg (wide : Bool) (x : Word) : Nat := x.toNat % 2 ^ (8 * atomicBytes wide)

/-- The cells an atomic writes at key `k`, and the old value, from the bytes that stand there. -/
def atomicCells (aop : AOp) (wide : Bool) (k old : Nat) (b c : Word) : List (Nat × Byte) :=
  match atomicNew aop wide old (atomicArg wide b) (atomicArg wide c) with
  | some x => cellsOf k (leBytes (atomicBytes wide) x)
  | none => []

/-- The lanes of an atomic on one sector, applied in order to its bytes: the old values, and the cells written, later ones standing
(R113, R325). -/
def atomicLanes (aop : AOp) (wide : Bool) (sec : Nat) : List (Nat × Word × Word) → Memory → List Nat × List (Nat × Byte)
  | [], _ => ([], [])
  | x :: r, m =>
    let old := leNat (Memory.bytes m (sec * 64 + x.1 % 64) (atomicBytes wide))
    let cells := atomicCells aop wide (sec * 64 + x.1 % 64) old x.2.1 x.2.2
    let t := atomicLanes aop wide sec r (Memory.putAll m cells)
    (old :: t.1, cells ++ t.2)

/-- The old values of an atomic's lanes as its reply carries them. -/
def oldBytes (xs : List Nat) : List Byte := xs.flatMap (leBytes 8)

/-- The sectors of a list of cells. -/
def sectorsOf (cells : List (Nat × Byte)) : List Nat := (cells.map (fun c => c.1 / 64)).dedup

/-! ### Counting deliveries (R152, R259, R278, R279, R326) -/

/-- Add bytes to a tile's COUNT, if the name maps an entry. -/
def State.countTile (s : State) (key n : Nat) : State :=
  match oget s.eng.tiles key with
  | none => s
  | some t =>
    let t' : Tile := { t with count := t.count + BitVec.ofNat 32 n }
    { s with eng := { s.eng with tiles := oset s.eng.tiles key (some t') } }

/-- How many of a list of memory keys lie in [lo, lo + n). -/
def inRange (keys : List Nat) (lo n : Nat) : Nat := (keys.filter (fun k => decide (lo ≤ k) && decide (k < lo + n))).length

/-- The tile key an entry counts into for bytes on `core`, and how many of the delivered bytes its region reaches. `keys`
are scratchpad or Gallery keys (cls 0) or virtual addresses of context `ctx` (cls 1). A suspended launch has no scratchpad of its
own to deliver into (R313, R326). -/
def entryCounts (lid : Nat) (l : Launch) (e : PalEntry) (cls ctx : Nat) (keys : List Nat) : List (Nat × Nat) :=
  if !e.cnt || !e.ok then []
  else if e.space = Sp.gallery then
    (if cls = 0 then [(tileKey lid e.ccore e.cblock e.ctile, inRange keys (galleryKey e.base) e.limit)] else [])
  else if e.space = Sp.device then
    (if cls = 1 && ctx = l.ctx then [(tileKey lid e.ccore e.cblock e.ctile, inRange keys e.base e.limit)] else [])
  else if l.status = .suspended then []
  else if e.space = Sp.core ∨ e.space = Sp.gangcast then
    (if cls = 0 then
      -- every block's allocation of the launch, on every core of its rectangle
      (List.range ((l.lr.lw + 1) * (l.lr.lh + 1))).flatMap (fun i =>
        let core := (l.y0 + i / (l.lr.lw + 1)) * 16 + l.x0 + i % (l.lr.lw + 1)
        (List.range (l.lr.blocks + 1)).map (fun b =>
          (tileKey lid core e.cblock e.ctile, inRange keys (l.allocKey core b e.base) e.limit)))
     else [])
  else if e.space = Sp.gang then
    (if cls = 0 then
      (List.range ((l.lr.lw + 1) * (l.lr.lh + 1))).flatMap (fun i =>
        let core := (l.y0 + i / (l.lr.lw + 1)) * 16 + l.x0 + i % (l.lr.lw + 1)
        let p := l.inGang core
        let k := p.2 * l.gangW + p.1
        let lo := max e.base (k * l.lr.scratch)
        let hi := min (e.base + e.limit) ((k + 1) * l.lr.scratch)
        (List.range (l.lr.blocks + 1)).map (fun b =>
          (tileKey lid core e.cblock e.ctile, inRange keys (l.allocKey core b (lo - k * l.lr.scratch)) (hi - lo))))
     else [])
  else []

/-- Count a delivery for every palette entry of a resident or suspended launch that reaches it (R326, R313). A dynamic slot counts
nothing beside the entry that it narrows (DEDUCED, log 72). -/
def State.countDelivery (s : State) (cls ctx : Nat) (keys : List Nat) : State :=
  let hits := (slist s.alloc.launches).flatMap (fun kl => (kl.2.pal.flatMap (fun e => entryCounts kl.1 kl.2 e.2 cls ctx keys)))
  hits.foldl (fun s h => if h.2 = 0 then s else s.countTile h.1 h.2) s

/-! ### Bank writes (R146 to R149, R279) -/

/-- A write at scratchpad or Gallery banks; `counted` for deliveries that R152 counts. -/
def State.bankWrite (s : State) (cells : List (Nat × Byte)) (counted : Bool) : State :=
  let s := s.putCells cells
  let s := if counted then s.countDelivery 0 0 (cells.map (·.1)) else s
  (sectorsOf cells).foldl State.wakeSector s

/-- Whether a sector lies in a scratchpad or the Gallery: its bank stands where a home stands for other sectors (R115, R173). -/
def bankSector (sec : Nat) : Bool := decide (2 ^ 51 ≤ sec) && decide (sec < 2 ^ 53)

/-- Whether a lane write of core `c` to a bank counts: it goes to the scratchpad of another core (R152). -/
def bankCounts (c sec : Nat) : Bool := decide (2 ^ 52 ≤ sec) && decide ((sec - 2 ^ 52) / 2 ^ 14 ≠ c)

/-! ### Answers to other chips (R328, R329, R330) -/

/-- An answer to another chip; a chip that has stopped answering pod traffic sends none (R330). -/
def State.podEmit (s : State) (m : OutMsg) : State := if s.pod.answering then s.emit m else s

def BatchRec.is (b : BatchRec) (chip team tag : Nat) : Bool := b.chip = chip && b.team = team && b.tag = tag

def State.batch? (s : State) (chip team tag : Nat) : Option BatchRec := s.pod.batches.find? (fun b => b.is chip team tag)

/-- Keep a batch record; when its close request is answered it is freed. -/
def State.setBatch (s : State) (b : BatchRec) : State :=
  let rest := s.pod.batches.filter (fun x => !x.is b.chip b.team b.tag)
  match b.closing with
  | some n =>
    if n ≤ b.done then ({ s with pod := { s.pod with batches := rest } }).podEmit (.summary b.chip b.team b.tag b.poison b.xlate b.bounds)
    else { s with pod := { s.pod with batches := rest ++ [b] } }
  | none => { s with pod := { s.pod with batches := rest ++ [b] } }

/-- Whether a tagged request has a batch record, or one is free for it (R329). -/
def State.recordFree (s : State) (chip : Nat) (tag : Option (Nat × Nat)) : Bool :=
  match tag with
  | none => true
  | some (team, t) => (s.batch? chip team t).isSome || decide (s.pod.batches.length < 16384)

/-- An accepted request takes its batch record. -/
def State.openRecord (s : State) (chip : Nat) (tag : Option (Nat × Nat)) : State :=
  match tag with
  | none => s
  | some (team, t) => if (s.batch? chip team t).isSome then s else s.setBatch ⟨chip, team, t, 0, none, false, false, false⟩

/-- A tagged request that has been committed or refused is counted, with the error it raises. -/
def State.countBatch (s : State) (chip : Nat) (tag : Option (Nat × Nat)) (e : RemoteEnd) : State :=
  match tag with
  | none => s
  | some (team, t) =>
    let b := (s.batch? chip team t).getD ⟨chip, team, t, 0, none, false, false, false⟩
    let b : BatchRec := { b with done := b.done + 1 }
    s.setBatch (match e with
      | .done .. => b
      | .refusedExport => { b with bounds := true }
      | .refusedXlate => { b with xlate := true }
      | .poisoned _ => { b with poison := true }
      | .discarded => { b with poison := true })

/-- A served request with its reply. -/
def Served.answered (x : Served) (e : RemoteEnd) (gtc : Nat) : Served := { x with reply := some e, at_ := gtc, waiting := false }

/-- A saved reply, sent again: of a lease, what is left of it (R159). -/
def Served.again (x : Served) (gtc : Nat) : Option RemoteEnd :=
  x.reply.map (fun e => match e with
    | .done d lease => .done d (lease - (gtc - x.at_))
    | e => e)

/-- A duplicate of an accepted request is answered with the saved reply, or again with a receipt (R328). -/
def State.answerAgain (s : State) (chip seq : Nat) (x : Served) : State :=
  s.podEmit (match x.again s.sched.gtc with
    | some e => .reply chip seq e
    | none => .receipt chip seq)

/-- Answer the copy of an MCAST store: chip, number, batch; the reply is saved (R328). -/
def State.answerCopy (s : State) (r : Nat × Nat × Option (Nat × Nat)) (e : RemoteEnd) : State :=
  let k := memberKey r.1 r.2.1
  let x := (oget s.pod.served k).map (fun x => x.answered e s.sched.gtc)
  (({ s with pod := { s.pod with served := oset s.pod.served k x } }).podEmit (.reply r.1 r.2.1 e)).countBatch r.1 r.2.2 e

/-! ### Completion of an operation -/

/-- Operation `o` has completed: it leaves the scoreboards; a command's write leaves its command, and `wrote` says whether its bytes
have been written. -/
def State.finishOp (s : State) (o : Nat) (wrote : Bool := true) : State :=
  match oget s.coh.ops o with
  | none => s
  | some x =>
    let s := (s.dropOp o).flushRemotes
    match x.kind with
    | .cmdWrite c _ =>
      let y := (oget s.eng.cmds c).map (fun y => { y with writes := y.writes.filter (· ≠ o), wrote := y.wrote || wrote })
      { s with eng := { s.eng with cmds := oset s.eng.cmds c y } }
    | .cmdHold c =>
      let y := (oget s.eng.cmds c).map (fun y => { y with writes := y.writes.filter (· ≠ o) })
      { s with eng := { s.eng with cmds := oset s.eng.cmds c y } }
    | .guest site queue seq _ =>
      let s : State := match s.easel.packets.find? (fun p => p.site = site && p.queue = queue && p.seq = seq) with
        | some p =>
          let y := (oget s.eng.cmds p.cmd).map (fun (y : Cmd) => { y with wrote := true })
          { s with eng := { s.eng with cmds := oset s.eng.cmds p.cmd y } }
        | none => s
      s.emit (.portDone site queue seq)
    | .delivery (some r) _ => s.answerCopy r (.done [] 0)
    | .doneWrite i => { s with alloc := { s.alloc with insts := oset s.alloc.insts i none } }
    | _ => s

/-- The mark of a destination when its last value is in: loss and poison of lanes that have left the team count for nothing (R75,
R86, R318). -/
def Load.mark (l : Load) (live : LaneMask) : Mark :=
  match l.lost.find? (fun x => x.2 &&& live ≠ 0) with
  | some x => .lost x.1
  | none => if l.poison &&& live = 0 then .full else .poison (l.poison &&& live)

/-- A load goes on with the parts it still awaits, or with none fills its destination (R86). -/
def State.settleLoad (s : State) (load : Nat) (l : Load) : State :=
  if l.parts.isEmpty then
    ({ s with coh := { s.coh with loads := oset s.coh.loads load none } }.modTeam l.team (fun t =>
      t.setVMark l.vd (l.mark t.live))).finishOp l.op
  else { s with coh := { s.coh with loads := oset s.coh.loads load (some l) } }

/-- A load without the parts whose every lane has left the team (R64, R86). -/
def Load.onlyLive (l : Load) (live : LaneMask) : Load :=
  { l with parts := l.parts.filter (fun p => match p.2 with
    | some x => x.lanes.any (fun y => live.getLsbD y.1)
    | none => false) }

/-- Lanes have left a team: their outstanding values count as arrived (R86). -/
def State.arriveDead (s : State) (tid : Nat) : State :=
  match s.team? tid with
  | none => s
  | some t => ((slist s.coh.loads).filter (fun x => x.2.team = tid)).foldl (fun s x =>
      s.settleLoad x.1 (x.2.onlyLive t.live)) s

/-! ### The home (R163) -/

def HomeBody.isAcq : HomeBody → Bool
  | .siRead _ a _ _ => a
  | .wiRead a _ _ => a
  | .wtRead a _ _ => a
  | .atomic _ _ _ _ _ a _ _ _ => a
  | .atomics _ _ _ a => a
  | .own a => a
  | _ => false

def Agent.core? : Agent → Option Nat
  | .core c => some c
  | _ => none

def DirEnt.othersThan (d : DirEnt) (a : Agent) : List Nat := d.sharers.filter (fun c => some c ≠ a.core?)

/-- Answer a remote request (R328); the reply is saved. -/
def State.answerChip (s : State) (chip seq : Nat) (e : RemoteEnd) : State :=
  let k := remoteKey chip seq
  match oget s.pod.served k with
  | none => s.podEmit (.reply chip seq e)
  | some x =>
    (({ s with pod := { s.pod with served := oset s.pod.served k (some (x.answered e s.sched.gtc)) } }).podEmit
      (.reply chip seq e)).countBatch chip x.req.batch e

/-- The answer to a read by an agent that is no core, with the expiry of its lease. -/
def State.answerAgent (s : State) (sec id expiry : Nat) : State :=
  let r := (oget s.coh.reads id).map (fun r => { r with answer := some (s.sectorData sec, s.poisoned sec, expiry) })
  { s with coh := { s.coh with reads := oset s.coh.reads id r } }

/-- Data for a read of an agent, without a copy. -/
def State.answerData (s : State) (sec : Nat) (r : HomeReq) : State :=
  match r.src, r.body with
  | .core c, .siRead _ _ ld p => s.send false c sec (.data (s.sectorData sec) (s.poisoned sec) ld p)
  | .core c, .wiRead _ ld p => s.send false c sec (.data (s.sectorData sec) (s.poisoned sec) ld p)
  | .core c, .wtRead _ ld p => s.send false c sec (.data (s.sectorData sec) (s.poisoned sec) ld p)
  | .chip c q, _ =>
    s.answerChip c q (if s.poisoned sec then .poisoned (s.sectorData sec) else .done (s.sectorData sec) 0)
  | .op, .siRead _ _ id _ => s.answerAgent sec id 0
  | .op, .wtRead _ id _ => s.answerAgent sec id 0
  | _, _ => s

/-- An SI read granted a lease (R159). -/
def State.grantLease (s : State) (sec : Nat) (r : HomeReq) (len : Nat) : State :=
  let d := s.dirEnt sec
  let e := s.sched.gtc + len
  let s := s.setDir sec { d with exp := max d.exp e }
  match r.src, r.body with
  | .core c, .siRead _ _ ld p => s.send false c sec (.lease e (s.sectorData sec) ld p)
  | .chip c q, _ =>
    s.answerChip c q (if s.poisoned sec then .poisoned (s.sectorData sec) else .done (s.sectorData sec) len)
  | .op, .siRead _ _ id _ => s.answerAgent sec id e
  | _, _ => s

/-- Ask a sharer to drop its copy. -/
def State.sendInval (s : State) (sec c : Nat) : State :=
  let d := s.dirEnt sec
  (s.setDir sec { d with invs := (c, s.sched.nextId) :: d.invs.filter (·.1 ≠ c) }).send false c sec .inval

/-- A core shares the sector no longer; a later answer of it to an invalidation means nothing (R166). -/
def DirEnt.without (d : DirEnt) (c : Nat) : DirEnt :=
  { d with sharers := d.sharers.filter (· ≠ c), invs := d.invs.filter (·.1 ≠ c) }

/-- A commit in a sector (R164, R90, R279): exactly the enabled bytes change. -/
def State.commit (s : State) (sec : Nat) (cells : List (Nat × Byte)) (counted : Bool) (ctx : Nat) (vas : List Nat) : State :=
  let s := s.putCells cells
  let s := if counted then s.countDelivery 1 ctx vas else s
  if cells.isEmpty then s else s.wakeSector sec

/-- The context and virtual addresses under which a remote write is counted, from its served request's export. -/
def State.servedVas (s : State) (chip seq : Nat) (cells : List (Nat × Byte)) : Nat × List Nat :=
  match oget s.pod.served (chip * 2 ^ 32 + seq) with
  | none => (0, [])
  | some x =>
    let b := 0x400000 + 64 * x.req.exp
    ((s.bar0 (b + 24)).toNat % 65536,
      cells.map (fun c => (s.bar0 (b + 8)).toNat % 2 ^ 57 + x.req.off / 64 * 64 + c.1 % 64))

/-- The context and virtual address under which the write of an operation is counted (R152): engine commands, COPY
nodes, guests and network deliveries. -/
def State.opPlace (s : State) (op : Nat) : Option (Nat × Nat) :=
  match oget s.coh.ops op with
  | none => none
  | some x =>
    match x.kind with
    | .cmdWrite _ a => a
    | .guest _ _ _ a => a
    | .delivery _ a => a
    | .nodeWrite _ _ a => a
    | _ => none

/-- The operation of an agent's write has committed; the copy of an MCAST store is answered with the poison of its sector (R170). -/
def State.finishAt (s : State) (op sec : Nat) : State :=
  match oget s.coh.ops op with
  | none => s
  | some x =>
    match x.kind with
    | .delivery (some r) _ => (s.dropOp op).flushRemotes.answerCopy r (if s.poisoned sec then .poisoned [] else .done [] 0)
    | _ => s.finishOp op

/-- A CPYV of another chip has the sector of its version word (R265). -/
def State.chipHolds (s : State) (chip seq sec : Nat) : State :=
  match oget s.pod.served (remoteKey chip seq) with
  | none => s
  | some x => { s with pod := { s.pod with holds := s.pod.holds ++ [(chip, x.req.exp, x.req.off, sec)] } }

/-- A write or atomic performed at the home and acknowledged (R163). The writer's core leaves SHARERS (R161). -/
def State.homePerform (s : State) (sec : Nat) (r : HomeReq) : State :=
  let d := s.dirEnt sec
  let s := s.setDir sec (match r.src.core? with | some c => d.without c | none => d)
  match r.body with
  | .write cells op =>
    (match r.src with
     | .core c => (s.commit sec cells false 0 []).send false c sec (.ack op)
     | .chip c q =>
       let v := s.servedVas c q cells
       (s.commit sec cells true v.1 v.2).answerChip c q (if s.poisoned sec then .poisoned [] else .done [] 0)
     | .op =>
       (match s.opPlace op with
        | some p => (s.commit sec cells true p.1 (cells.map (fun c => p.2 + c.1 % 64))).finishAt op sec
        | none => (s.commit sec cells false 0 []).finishAt op sec))
  | .atomic aop wide off b c _ op ld p =>
    let old := leNat (Memory.bytes s.mem (sec * 64 + off) (atomicBytes wide))
    let cells := atomicCells aop wide (sec * 64 + off) old b c
    (match r.src with
     | .core k =>
       let s := s.commit sec cells false 0 []
       (s.send false k sec (.old old (s.poisoned sec) ld p)).send false k sec (.ack op)
     | .chip .. => s
     | .op => ((s.commit sec cells false 0 []).finishOp op).emit (.hostData (sec * 64 + off) (leBytes (atomicBytes wide) old)))
  | .atomics aop wide lanes _ =>
    (match r.src with
     | .chip k q =>
       let x := atomicLanes aop wide sec lanes s.mem
       let v := s.servedVas k q x.2
       (s.commit sec x.2 true v.1 v.2).answerChip k q
         (if s.poisoned sec then .poisoned (oldBytes x.1) else .done (oldBytes x.1) 0)
     | .core _ => s
     | .op => s)
  | .own _ =>
    (match r.src with
     | .core c => (s.setDir sec { s.dirEnt sec with owner := some c }).send false c sec (.grant (s.sectorData sec))
     | .chip .. => s
     | .op => s)
  | .hold op =>
    let s := s.setDir sec { s.dirEnt sec with held := true }
    (match r.src with
     | .chip c q => (s.chipHolds c q sec).answerChip c q (if s.poisoned sec then .poisoned (s.sectorData sec) else .done (s.sectorData sec) 0)
     | .core _ => s.finishOp op
     | .op => s.finishOp op)
  | .siRead .. => s
  | .wiRead .. => s
  | .wtRead .. => s

/-- Send the owner a recall, once. -/
def State.recallOwner (s : State) (sec : Nat) : State :=
  let d := s.dirEnt sec
  match d.owner with
  | none => s
  | some c => if d.recalled then s else (s.setDir sec { d with recalled := true }).send false c sec .recall

/-- Whether a write, atomic or ownership request is blocked in FREE (R163). -/
def DirEnt.blocked (d : DirEnt) (gtc : Nat) (a : Agent) : Bool := decide (gtc < d.exp) || !(d.othersThan a).isEmpty

/-- Before the load of its GTC a chip grants no new lease (R330). -/
def State.noLeases (s : State) : Bool := s.pod.timeStarted && !s.pod.locked && decide (20 < s.pod.offset.natAbs)

/-- Serve one request in FREE with nothing ahead of it; `pend` says whether WTPEND is nonzero behind it (R160). -/
def State.serveFree (s : State) (sec : Nat) (r : HomeReq) (pend : Bool) : State :=
  match r.body with
  | .siRead len _ _ _ => if pend || s.noLeases then s.answerData sec r else s.grantLease sec r len
  | .wiRead _ ld p =>
    (match r.src with
     | .core c =>
       if pend then s.answerData sec r
       else
         let d := s.dirEnt sec
         (s.setDir sec { d.without c with sharers := (c :: d.sharers).dedup }).send false c sec (.wiCopy (s.sectorData sec) ld p)
     | .chip .. => s.answerData sec r
     | .op => s)
  | .wtRead .. => s.answerData sec r
  | .write .. => s.homePerform sec r
  | .atomic .. => s.homePerform sec r
  | .atomics .. => s.homePerform sec r
  | .own _ => s.homePerform sec r
  | .hold _ => s.homePerform sec r

/-- Whether R168 holds an acquire: a nonempty NRH that the requester is not in. -/
def DirEnt.mustHold (d : DirEnt) (r : HomeReq) : Bool :=
  r.body.isAcq && !d.nrh.isEmpty && !(d.nrh.any (fun c => r.src = .core c))

/-- Hold an acquire and ask every holder not asked yet for a forced publish (R168). -/
def State.holdAcquire (s : State) (sec : Nat) (r : HomeReq) : State :=
  let d := s.dirEnt sec
  let toAsk := d.nrh.filter (fun c => !d.forced.contains c)
  let s := s.setDir sec { d with acqWait := d.acqWait ++ [r], forced := d.forced ++ toAsk }
  toAsk.foldl (fun s c => s.send false c sec .forced) s

/-- A blocked request invalidates every sharer except the requester, each once (R163). -/
def State.invalidateFor (s : State) (sec : Nat) (a : Agent) : State :=
  let d := s.dirEnt sec
  ((d.othersThan a).filter (fun c => !d.invs.any (fun x => x.1 = c))).foldl (fun s c => s.sendInval sec c) s

/-- Serve the queue in arrival order, each request under the state reached by the one before it (R163). The number bounds the
requests handled. -/
def State.serveQueue (s : State) (sec : Nat) : Nat → State
  | 0 => s
  | n + 1 =>
    let d := s.dirEnt sec
    match d.queue with
    | [] => s
    | r :: rest =>
      -- a held atomic or ownership request is ahead of what arrived after it
      if d.held || d.acqWait.any (fun x => !x.body.isRead) then s
      else
      let s' := s.setDir sec { d with queue := rest }
      if d.mustHold r then (s'.holdAcquire sec r).serveQueue sec n
      else
      match d.owner with
      | some _ =>
        (match r.body with
         | .wtRead .. =>
           let d' := s'.dirEnt sec
           let s' := s'.setDir sec { d' with pubWait := d'.pubWait ++ [r] }
           ((match d.owner with | some c => s'.send false c sec .publish | none => s')).serveQueue sec n
         | _ => s.recallOwner sec)
      | none =>
        if r.body.isRead then
          (s'.serveFree sec r (decide (0 < (s'.dirEnt sec).wtpend))).serveQueue sec n
        else if d.blocked s.sched.gtc r.src then s.invalidateFor sec r.src
        else (s'.homePerform sec r).serveQueue sec n

def State.serveAll (s : State) (sec : Nat) : State := s.serveQueue sec ((s.dirEnt sec).queue.length + 1)

/-- A request enters its home's table (R163). -/
def State.homeEnter (s : State) (sec : Nat) (r : HomeReq) : State :=
  let d := s.dirEnt sec
  if d.busy then s.setDir sec { d with queue := d.queue ++ [r] }
  else
    match d.owner with
    | some o =>
      if r.src = .core o then s.serveFree sec r true
      else
        (match r.body with
         | .wtRead .. => (s.setDir sec { d with pubWait := d.pubWait ++ [r] }).send false o sec .publish
         | _ => (s.setDir sec { d with queue := [r] }).recallOwner sec)
    | none =>
      if r.body.isRead then (s.setDir sec d).serveFree sec r false
      else if d.blocked s.sched.gtc r.src then (s.setDir sec { d with queue := [r] }).invalidateFor sec r.src
      else (s.setDir sec d).serveFree sec r false

/-- A request reaches a home (R163). An acquire from outside a nonempty NRH is held first (R168); one that is queued behind others is
held when its turn comes. -/
def State.homeArrive (s : State) (sec : Nat) (r : HomeReq) : State :=
  if (s.dirEnt sec).mustHold r && !(s.dirEnt sec).busy then s.holdAcquire sec r else s.homeEnter sec r

/-- A CPYV releases the sector it held (R265). -/
def State.releaseHold (s : State) (sec : Nat) : State := (s.setDir sec { s.dirEnt sec with held := false }).serveAll sec

/-- Whether the home accepts another request for the sector: at 16 it stops until one commits (R163). -/
def State.homeAccepts (s : State) (sec : Nat) : Bool := decide ((s.dirEnt sec).wtpend < 16)

/-- Ask for a sector as the head of its queue, where the home accepts the request. -/
def State.takeHold (s : State) (sec : Nat) (op : Nat) : State := s.homeEnter sec ⟨.op, .hold op⟩

/-- A write by an agent that is no core (R165, R182): operation `op` completes when it commits. -/
def State.agentWrite (s : State) (k : OpKind) (pa : Nat) (data : List Byte) : Nat × State :=
  let n := s.freshOp k 0 false
  (n.1, n.2.homeArrive (pa / 64) ⟨.op, .write (cellsOf pa data) n.1⟩)

/-! ### Reads at a home by agents that are no cores (R165, R343) -/

/-- The read of an agent of a sector that is under way or answered. -/
def State.agentRead? (s : State) (who : ReadAgent) (sec : Nat) : Option (Nat × AgentRead) :=
  (slist s.coh.reads).find? (fun r => r.2.who = who && r.2.sector = sec)

/-- An agent asks a home, once, where the home accepts the request: a WT read, or an SI read for a lease. -/
def State.askHome (s : State) (who : ReadAgent) (lease : Option Nat) (sec : Nat) : State :=
  if (s.agentRead? who sec).isSome || !s.homeAccepts sec then s
  else
    let n := s.newId
    let s : State := { n.2 with coh := { n.2.coh with reads := oset n.2.coh.reads n.1 (some ⟨who, sec, none⟩) } }
    s.homeArrive sec ⟨.op, match lease with | some len => .siRead len false n.1 0 | none => .wtRead false n.1 0⟩

/-- The reads of an agent that satisfy `p` end. -/
def State.dropReads (s : State) (who : ReadAgent) (p : Nat → Bool := fun _ => true) : State :=
  { s with coh := { s.coh with reads := s.coh.reads.filter (fun r => match r.2 with
    | some x => !(decide (x.who = who) && p x.sector) | none => false) } }

/-- What an agent reads at the homes of some sectors: the data of each, its poison and the expiry of its lease, once every home has answered. What it
has asked stands. -/
def State.agentAsk (s : State) (who : ReadAgent) (lease : Option Nat) (secs : List Nat) : Option (List (List Byte × Bool × Nat)) × State :=
  let s := secs.foldl (fun s sec => s.askHome who lease sec) s
  let got := secs.map (fun sec => (s.agentRead? who sec).bind (fun r => r.2.answer))
  (if got.all Option.isSome then some (got.filterMap id) else none, s)

/-- The same for an agent that has then done with these sectors. -/
def State.agentReads (s : State) (who : ReadAgent) (lease : Option Nat) (secs : List Nat) : Option (List (List Byte × Bool × Nat)) × State :=
  match s.agentAsk who lease secs with
  | (some ds, s') => (some ds, s'.dropReads who secs.contains)
  | (none, s') => (none, s')

/-- Whether an agent has asked for every one of some sectors. -/
def State.hasAsked (s : State) (who : ReadAgent) (secs : List Nat) : Bool := secs.all (fun sec => (s.agentRead? who sec).isSome)

/-! ### Accesses at a core's L1 (R161) -/

/-- Who accesses: core, team, arm; whether an ordered acquire; what must complete before the request leaves. -/
structure Req where
  core : Nat
  tid : Nat
  f : Bool
  acq : Bool
  after : List Nat

/-- Ask for ownership, or join a request that is out (R162; an ORD acquire too, DEDUCED, log 129). -/
def State.askOwn (s : State) (q : Req) (sec : Nat) (act : OwnAct) : State :=
  match oget s.coh.owns (l1Key q.core sec) with
  | some acts => { s with coh := { s.coh with owns := oset s.coh.owns (l1Key q.core sec) (some (acts ++ [act])) } }
  | none =>
    { s with coh := { s.coh with owns := oset s.coh.owns (l1Key q.core sec) (some [act]) } }.send true q.core sec (.req (.own q.acq))
      q.after

def State.ownPending (s : State) (c sec : Nat) : Bool := (oget s.coh.owns (l1Key c sec)).isSome

/-- Whether an L copy is still valid (R159). -/
def L1Sec.valid (x : L1Sec) (gtc : Nat) : Bool :=
  match x.st with
  | .l => decide (gtc < x.expiry)
  | .k => true
  | .o => true
  | .m => true

/-- A load of one sector under policy `pol` (0 SI, 1 WI, 2 OWN, 3 WT). -/
def State.l1Load (s : State) (q : Req) (sec pol lease load part : Nat) : State :=
  let ask := fun (b : HomeBody) => s.send true q.core sec (.req b) q.after
  let miss := if pol = 0 then ask (.siRead lease q.acq load part)
    else if pol = 1 then ask (.wiRead q.acq load part)
    else if pol = 2 then s.askOwn q sec (.load load part)
    else ask (.wtRead q.acq load part)
  if s.ownPending q.core sec then s.askOwn q sec (.load load part)
  else
    match s.l1? q.core sec with
    | none => miss
    | some x =>
      match x.st with
      | .o => s.readyPart load part x.data
      | .m => s.readyPart load part x.data
      | .k => if pol = 0 ∨ pol = 1 then s.readyPart load part x.data else miss
      | .l => if pol = 0 ∧ x.valid s.sched.gtc then s.readyPart load part x.data else miss

/-- A sector's data with cells of it written. -/
def patchData (sec : Nat) (data : List Byte) (cells : List (Nat × Byte)) : List Byte :=
  (List.range 64).map (fun i => match cells.reverse.find? (fun c => c.1 = sec * 64 + i) with
    | some c => c.2
    | none => (data[i]?).getD 0)

def dirtyOf (sec : Nat) (cells : List (Nat × Byte)) : BitVec 64 :=
  cells.foldl (fun m c => m ||| ((1 : BitVec 64) <<< (c.1 - sec * 64))) 0

/-- A store or atomic performed in an L1 that owns the sector, which becomes M (R161), in the step that reaches the L1 (log 128). -/
def State.l1Perform (s : State) (q : Req) (sec : Nat) (cells : List (Nat × Byte)) : State :=
  match s.l1? q.core sec with
  | none => s
  | some x => s.setL1 q.core sec (some { x with
      st := .m
      data := patchData sec x.data cells
      dirty := x.dirty ||| dirtyOf sec cells
      writers := ((q.tid, q.f) :: x.writers).dedup })

/-- The bytes a core holds of a sector. -/
def State.l1Data (s : State) (c sec : Nat) : List Byte :=
  match s.l1? c sec with
  | some x => x.data
  | none => []

def State.l1Owned (s : State) (c sec : Nat) : Bool :=
  match s.l1? c sec with
  | some x => x.st = .o || x.st = .m
  | none => false

/-- A store to one sector as operation `op`. -/
def State.l1Store (s : State) (q : Req) (sec pol op : Nat) (cells : List (Nat × Byte)) : State :=
  if s.ownPending q.core sec then s.askOwn q sec (.store op q.tid q.f cells)
  else if s.l1Owned q.core sec then (s.l1Perform q sec cells).finishOp op
  else if pol = 2 then s.askOwn q sec (.store op q.tid q.f cells)
  else ((s.setL1 q.core sec none).noInstall q.core sec).send true q.core sec (.req (.write cells op)) q.after

/-- An atomic of one lane (R115). -/
def State.l1Atomic (s : State) (q : Req) (sec pol op load part : Nat) (aop : AOp) (wide : Bool) (off : Nat) (b c : Word) :
    State :=
  if s.ownPending q.core sec then s.askOwn q sec (.atomic op load part q.tid q.f aop wide off b c)
  else if s.l1Owned q.core sec then
    let old := dataAt (s.l1Data q.core sec) off (atomicBytes wide)
    ((s.l1Perform q sec (atomicCells aop wide (sec * 64 + off) old b c)).readyOld load part old).finishOp op
  else if pol = 2 then s.askOwn q sec (.atomic op load part q.tid q.f aop wide off b c)
  else ((s.setL1 q.core sec none).noInstall q.core sec).send true q.core sec
    (.req (.atomic aop wide off b c q.acq op load part)) q.after

/-- The arms of a team that have an operation in their scoreboards (R99): the arm that issued it, in the absence of others. -/
def State.armsOf (s : State) (tid op : Nat) (f : Bool) : List Bool :=
  match [false, true].filter (fun g => ((s.armOf ⟨tid, g⟩).map (fun x => x.2.ops.contains op)).getD false) with
  | [] => [f]
  | gs => gs

/-- A store or atomic that waited for ownership is performed; its writers are the arms that have it in their scoreboards by now. -/
def State.l1PerformOp (s : State) (c sec op tid : Nat) (f : Bool) (cells : List (Nat × Byte)) : State :=
  (s.armsOf tid op f).foldl (fun s g => s.l1Perform ⟨c, tid, g, false, []⟩ sec cells) s

/-- Ownership arrives: the waiting operations are performed in order (R162). -/
def State.ownActs (s : State) (c sec : Nat) : List OwnAct → State
  | [] => s
  | a :: r =>
    let s := match a with
      | .load ld p => s.readyPart ld p (s.l1Data c sec)
      | .store op tid f cells => (s.l1PerformOp c sec op tid f cells).finishOp op
      | .atomic op ld p tid f aop wide off b x =>
        let old := dataAt (s.l1Data c sec) off (atomicBytes wide)
        ((s.l1PerformOp c sec op tid f (atomicCells aop wide (sec * 64 + off) old b x)).readyOld ld p old).finishOp op
    s.ownActs c sec r

/-- A core tells the home that its K copy is gone; copies still on their way to it are not kept (R162, R166). -/
def State.sendDrop (s : State) (c sec : Nat) : State := (s.noInstall c sec).send true c sec .sharerDrop

/-- The operations of a write-back: one for each arm that wrote the bytes, which its releases wait for (R118). -/
def State.writeBackOps (s : State) (writers : List (Nat × Bool)) : List Nat × State :=
  writers.foldl (fun acc w =>
    let n := acc.2.newOp .cache w.1 w.2
    (n.1 :: acc.1, n.2)) ([], s)

/-- A new copy takes a line: in a full set a victim line leaves (R155). Which set and victim are open (Config). -/
def State.evictSector (s : State) (c sec : Nat) : State :=
  match s.l1? c sec with
  | none => s
  | some x =>
    let s := s.setL1 c sec none
    match x.st with
    | .l => s
    | .k => s.sendDrop c sec
    | .o => s.send true c sec .ownerDrop
    | .m =>
      let n := s.writeBackOps x.writers
      n.2.send true c sec (.evictionWriteBack (dirtyCells sec x) n.1)

/-- The set of a line: 8,192 lines in 512 sets of 16 ways (R2). -/
def l1SetOf (line : Nat) : Nat := Config.l1Set line % 512

/-- Lines a core holds in the set of a line. -/
def State.setLines (s : State) (c line : Nat) : List Nat :=
  (((slist s.coh.l1).filter (fun kx => kx.1 % 256 = c && l1SetOf (kx.1 / 1024) = l1SetOf line)).map
    (fun kx => kx.1 / 1024)).dedup

def State.makeRoom (s : State) (c sec : Nat) : State :=
  let line := sec / 4
  let ls := s.setLines c line
  if ls.contains line || decide (ls.length < 16) then s
  else
    let v := (ls[Config.victim line s.sched.nextId % ls.length]?).getD 0
    [4 * v, 4 * v + 1, 4 * v + 2, 4 * v + 3].foldl (fun s x => s.evictSector c x) s

/-- Install a copy. -/
def State.install (s : State) (c sec : Nat) (x : L1Sec) : State := (s.makeRoom c sec).setL1 c sec (some x)

/-- Write back M sectors of a core that satisfy `p`, keeping them in O: the operations of their writers to wait for. -/
def State.publishSectors (s : State) (c : Nat) (p : L1Sec → Bool) : List Nat × State :=
  ((slist s.coh.l1).filter (fun kx => kx.1 % 256 = c && kx.2.st = .m && p kx.2)).foldl (fun acc kx =>
    let sec := kx.1 / 256
    let n := acc.2.writeBackOps kx.2.writers
    (n.1 ++ acc.1, (n.2.setL1 c sec (some { kx.2 with st := .o, dirty := 0, writers := [] })).send true c sec
      (.publishWriteBack (dirtyCells sec kx.2) n.1))) ([], s)

/-- An acquire at gang scope or wider makes every L sector of the core invalid (R117). -/
def State.dropLeases (s : State) (c : Nat) : State :=
  { s with coh := { s.coh with l1 := s.coh.l1.filter (fun kx =>
    match kx.2 with | some x => !(kx.1 % 256 = c && x.st = .l) | none => false) } }

end Sys2Proof.Machine
end

