-- ==== Sys2Proof/Machine/CohEvents.lean ====
section
/-! DEFINITION. The events of the L1s and the homes (R155 to R170): delivery of each kind of message, expiries, and the
replies that fill load destinations (R74, R75). -/

namespace Sys2Proof.Machine

/-! ### Messages that reach a home -/

/-- Deliver message `id` to its home when `p` accepts it: the message leaves the network and `g` is its effect. -/
def deliver (name : String) (id : Nat) (toHome : Bool) (s : State) (p : State → Msg → Bool) (g : State → Msg → State) : Out :=
  match s.deliverable id with
  | none => .refused (.notEnabled name)
  | some m => whenEnabled name (decide (m.toHome = toHome) && p s m) (g (s.takeMsg id) m)

/-- The request a message carries, when `p` holds of it and the home, or the bank, accepts it (R163): a bank that a CPYV holds takes
no other write (R265). -/
def reqIs (p : HomeBody → Bool) (s : State) (m : Msg) : Bool :=
  match m.body with
  | .req b => p b && (if bankSector m.sector then b.isRead || !(s.dirEnt m.sector).held else s.homeAccepts m.sector)
  | _ => false

/-- An access of core `c` is performed at the bank that holds its bytes (R74, R115, R173). -/
def bankArrive (s : State) (c sec : Nat) (b : HomeBody) : State :=
  match b with
  | .siRead _ _ ld p => s.send false c sec (.data (s.sectorData sec) (s.poisoned sec) ld p)
  | .wiRead _ ld p => s.send false c sec (.data (s.sectorData sec) (s.poisoned sec) ld p)
  | .wtRead _ ld p => s.send false c sec (.data (s.sectorData sec) (s.poisoned sec) ld p)
  | .write cells op => (s.bankWrite cells (bankCounts c sec)).send false c sec (.ack op)
  | .atomic aop wide off b x _ op ld p =>
    let old := leNat (Memory.bytes s.mem (sec * 64 + off) (atomicBytes wide))
    let s := s.bankWrite (atomicCells aop wide (sec * 64 + off) old b x) (bankCounts c sec)
    (s.send false c sec (.old old (s.poisoned sec) ld p)).send false c sec (.ack op)
  | .atomics .. => s
  | .own _ => s
  | .hold _ => s

/-- A request arrives at its home, or at its bank. -/
def reqArrive (s : State) (m : Msg) : State :=
  match m.body with
  | .req b => if bankSector m.sector then bankArrive s m.core m.sector b else s.homeArrive m.sector ⟨.core m.core, b⟩
  | _ => s

def HomeBody.isSi : HomeBody → Bool
  | .siRead .. => true
  | _ => false
def HomeBody.isWi : HomeBody → Bool
  | .wiRead .. => true
  | _ => false
def HomeBody.isWt : HomeBody → Bool
  | .wtRead .. => true
  | _ => false
def HomeBody.isWrite : HomeBody → Bool
  | .write .. => true
  | _ => false
def HomeBody.isAtomic : HomeBody → Bool
  | .atomic .. => true
  | _ => false
def HomeBody.isOwn : HomeBody → Bool
  | .own _ => true
  | _ => false

/-- SI_READ (R163). -/
def execSiRead (a : Nat) (s : State) : Out := deliver "SI_READ" a true s (reqIs HomeBody.isSi) reqArrive
/-- WI_READ (R163). -/
def execWiRead (a : Nat) (s : State) : Out := deliver "WI_READ" a true s (reqIs HomeBody.isWi) reqArrive
/-- WT_READ (R163): also a load at a scratchpad or Gallery bank. -/
def execWtRead (a : Nat) (s : State) : Out := deliver "WT_READ" a true s (reqIs HomeBody.isWt) reqArrive
/-- HOME_WRITE (R163, R164): also a store at a scratchpad or Gallery bank. -/
def execHomeWrite (a : Nat) (s : State) : Out := deliver "HOME_WRITE" a true s (reqIs HomeBody.isWrite) reqArrive
/-- HOME_ATOMIC (R115, R163): also an atomic at a scratchpad or Gallery bank. -/
def execHomeAtomic (a : Nat) (s : State) : Out := deliver "HOME_ATOMIC" a true s (reqIs HomeBody.isAtomic) reqArrive
/-- OWN_REQUEST (R163). -/
def execOwnRequest (a : Nat) (s : State) : Out := deliver "OWN_REQUEST" a true s (reqIs HomeBody.isOwn) reqArrive

/-- Whether a message is of a kind. -/
def bodyIs (p : MsgBody → Bool) (_ : State) (m : Msg) : Bool := p m.body

/-- The home removes a core from SHARERS and serves what that frees (R163). -/
def sharerGone (s : State) (m : Msg) : State :=
  (s.setDir m.sector ((s.dirEnt m.sector).without m.core)).serveAll m.sector

/-- INVALIDATION_ACKNOWLEDGEMENT (R163): one whose invalidation a sharer-drop notice has answered already is ignored (R166). -/
def execInvalidationAcknowledgement (a : Nat) (s : State) : Out :=
  deliver "INVALIDATION_ACKNOWLEDGEMENT" a true s (bodyIs (fun b => match b with | .invAck _ => true | _ => false)) (fun s m =>
    match m.body with
    | .invAck n => if (s.dirEnt m.sector).invs.contains (m.core, n) then sharerGone s m else s
    | _ => s)

/-- SHARER_DROP_NOTICE (R163, R166). -/
def execSharerDropNotice (a : Nat) (s : State) : Out :=
  deliver "SHARER_DROP_NOTICE" a true s (bodyIs (· = .sharerDrop)) sharerGone

/-- The owner no longer holds the sector: OWNER is cleared, WT reads that waited for a publish are answered, the queue is
served (R163). -/
def ownerGone (s : State) (sec core : Nat) : State :=
  let d := s.dirEnt sec
  if d.owner = some core then
    let s := s.setDir sec { d with owner := none, recalled := false, pubWait := [] }
    (d.pubWait.foldl (fun s r => s.answerData sec r) s).serveAll sec
  else s

/-- OWNER_DROP_NOTICE (R163). -/
def execOwnerDropNotice (a : Nat) (s : State) : Out :=
  deliver "OWNER_DROP_NOTICE" a true s (bodyIs (· = .ownerDrop)) (fun s m => ownerGone s m.sector m.core)

/-- Merge written-back bytes (R164). -/
def mergeBack (s : State) (sec : Nat) (cells : List (Nat × Byte)) : State :=
  if cells.isEmpty then s else s.commit sec cells false 0 []

/-- The bytes of a write-back have committed: the operations of the arms that wrote them are acknowledged (R118). -/
def ackAll (s : State) (c sec : Nat) (ops : List Nat) : State := ops.foldl (fun s o => s.send false c sec (.ack o)) s

/-- RECALL_ANSWER (R163): an answer for a sector no longer held is discarded. -/
def execRecallAnswer (a : Nat) (s : State) : Out :=
  deliver "RECALL_ANSWER" a true s (bodyIs (fun b => match b with | .recallAnswer .. => true | _ => false)) (fun s m =>
    match m.body with
    | .recallAnswer true cells ops => ownerGone (ackAll (mergeBack s m.sector cells) m.core m.sector ops) m.sector m.core
    | _ => s)

/-- PUBLISH_WRITE_BACK (R163). -/
def execPublishWriteBack (a : Nat) (s : State) : Out :=
  deliver "PUBLISH_WRITE_BACK" a true s (bodyIs (fun b => match b with | .publishWriteBack .. => true | _ => false)) (fun s m =>
    match m.body with
    | .publishWriteBack cells ops => ackAll (mergeBack s m.sector cells) m.core m.sector ops
    | _ => s)

/-- PUBLISH_ANSWER (R163): the WT read that asked is answered. -/
def execPublishAnswer (a : Nat) (s : State) : Out :=
  deliver "PUBLISH_ANSWER" a true s (bodyIs (fun b => match b with | .publishAnswer .. => true | _ => false)) (fun s m =>
    match m.body with
    | .publishAnswer cells ops =>
      let s := ackAll (mergeBack s m.sector cells) m.core m.sector ops
      let d := s.dirEnt m.sector
      (match d.pubWait with
       | [] => s
       | r :: rest => (s.setDir m.sector { d with pubWait := rest }).answerData m.sector r)
    | _ => s)

/-- EVICTION_WRITE_BACK (R163): it also satisfies a recall that crosses it. -/
def execEvictionWriteBack (a : Nat) (s : State) : Out :=
  deliver "EVICTION_WRITE_BACK" a true s (bodyIs (fun b => match b with | .evictionWriteBack .. => true | _ => false)) (fun s m =>
    match m.body with
    | .evictionWriteBack cells ops =>
      ownerGone (ackAll (mergeBack s m.sector cells) m.core m.sector ops) m.sector m.core
    | _ => s)

/-- NARROW_RELEASE_NOTICE (R167): a full NRH first asks its oldest holder for a forced publish, and the notice waits. -/
def execNarrowReleaseNotice (a : Nat) (s : State) : Out :=
  match s.deliverable a with
  | none => .refused (.notEnabled "NARROW_RELEASE_NOTICE")
  | some m =>
    let d := s.dirEnt m.sector
    if m.toHome && m.body = .narrowRelease then
      if d.nrh.contains m.core then .next (s.takeMsg a)
      else if d.nrh.length < 4 then .next ((s.takeMsg a).setDir m.sector { d with nrh := d.nrh ++ [m.core] })
      else
        match d.nrh.find? (fun c => !d.forced.contains c) with
        | some c => whenEnabled "NARROW_RELEASE_NOTICE" d.forced.isEmpty
            ((s.setDir m.sector { d with forced := d.forced ++ [c] }).send false c m.sector .forced)
        | none => .refused (.notEnabled "NARROW_RELEASE_NOTICE")
    else .refused (.notEnabled "NARROW_RELEASE_NOTICE")

/-- A holder leaves NRH; acquires held for it are served once every holder asked has answered (R168). -/
def holderGone (s : State) (m : Msg) : State :=
  let d := s.dirEnt m.sector
  let d := { d with nrh := d.nrh.filter (· ≠ m.core), forced := d.forced.filter (· ≠ m.core) }
  if d.forced.isEmpty then (s.setDir m.sector { d with acqWait := [], queue := d.acqWait ++ d.queue }).serveAll m.sector
  else s.setDir m.sector d

/-- A holder reports a release at gang scope or wider and leaves NRH; a forced publish asked of it is still awaited (R167, R168). -/
def holderReports (s : State) (m : Msg) : State :=
  let d := s.dirEnt m.sector
  s.setDir m.sector { d with nrh := d.nrh.filter (· ≠ m.core) }

/-- FORCED_PUBLISH_ANSWER (R167, R168): also a holder's report of a later wide release (log 58). -/
def execForcedPublishAnswer (a : Nat) (s : State) : Out :=
  deliver "FORCED_PUBLISH_ANSWER" a true s (bodyIs (fun b => b = .forcedAnswer || b = .narrowPublished)) (fun s m =>
    if m.body = .narrowPublished then holderReports s m else holderGone s m)

/-- Whether a sector has queued requests that no lease and no sharer holds back any more (R163). -/
def queueFree (s : State) (sec : Nat) : Bool :=
  match oget s.coh.dir sec with
  | none => false
  | some d =>
    match d.queue with
    | [] => false
    | r :: _ => d.owner.isNone && !d.blocked s.sched.gtc r.src

/-- LEASE_EXPIRES (R163): the last lease has expired and the queue is served. -/
def execLeaseExpires (a : Nat) (s : State) : Out := whenEnabled "LEASE_EXPIRES" (queueFree s a) (s.serveAll a)

/-- SUMMARY_EXPIRY (R158): the same for a sector whose entry was made anew under its set's summary expiry. -/
def execSummaryExpiry (a : Nat) (s : State) : Out :=
  whenEnabled "SUMMARY_EXPIRY"
    (queueFree s a && decide ((s.dirEnt a).exp = sget 0 s.coh.summary (dirSetOf a))) (s.serveAll a)

/-- DIRECTORY_ENTRY_REUSE (R158): owner, sharers and holders are asked; when none is left the entry goes and the set's
summary expiry takes its EXP. -/
def execDirectoryEntryReuse (a : Nat) (s : State) : Out :=
  match oget s.coh.dir a with
  | none => .refused (.notEnabled "DIRECTORY_ENTRY_REUSE")
  | some d =>
    let idle := d.queue.isEmpty && d.pubWait.isEmpty && d.acqWait.isEmpty && !d.held
    let toAsk := d.nrh.filter (fun c => !d.forced.contains c)
    if d.owner.isSome && !d.recalled then .next (s.recallOwner a)
    else if d.owner.isSome then .refused (.notEnabled "DIRECTORY_ENTRY_REUSE")
    else if !d.sharers.isEmpty then .next (d.sharers.foldl (fun s c => s.sendInval a c) s)
    else if !toAsk.isEmpty then
      .next (toAsk.foldl (fun s c => s.send false c a .forced) (s.setDir a { d with forced := d.forced ++ toAsk }))
    else if d.nrh.isEmpty && idle then
      let k := dirSetOf a
      .next { s with coh := { s.coh with
        dir := oset s.coh.dir a none
        summary := sset 0 s.coh.summary k (max (sget 0 s.coh.summary k) d.exp) } }
    else .refused (.notEnabled "DIRECTORY_ENTRY_REUSE")

/-! ### Messages that reach a core -/

/-- Whether the part of a load still waits for its bytes and may install a copy. -/
def State.mayInstall (s : State) (c sec load part : Nat) : Bool :=
  !s.ownPending c sec &&
  (match oget s.coh.loads load with
   | none => false
   | some l => (match oget l.parts part with | none => false | some p => p.install))

/-- LEASE_REPLY (R159, R161): valid until 64 ticks before the expiry the home gave. One for which no request is outstanding any more is
acknowledged and discarded (R162); the home keeps nothing that the acknowledgement would end. -/
def execLeaseReply (a : Nat) (s : State) : Out :=
  deliver "LEASE_REPLY" a false s (bodyIs (fun b => match b with | .lease .. => true | _ => false)) (fun s m =>
    match m.body with
    | .lease e data ld p =>
      let keep := s.mayInstall m.core m.sector ld p
        && (match s.l1? m.core m.sector with | none => true | some x => x.st = .l) && decide (s.sched.gtc < e - 64)
      let stale := ((oget s.coh.loads ld).bind (fun l => oget l.parts p)).isNone
      let s := s.readyPart ld p data
      if keep then s.install m.core m.sector ⟨.l, data, 0, e - 64, []⟩
      else if stale then s.send true m.core m.sector (.invAck m.id)
      else s
    | _ => s)

/-- WI_COPY_REPLY (R161). A copy the L1 has no use for is acknowledged and discarded (R162): the home is told that it is gone, or,
where the core holds another one, only that this reply has come. -/
def execWiCopyReply (a : Nat) (s : State) : Out :=
  deliver "WI_COPY_REPLY" a false s (bodyIs (fun b => match b with | .wiCopy .. => true | _ => false)) (fun s m =>
    match m.body with
    | .wiCopy data ld p =>
      let keep := s.mayInstall m.core m.sector ld p && !s.l1Owned m.core m.sector
      let s := s.readyPart ld p data
      if keep then s.install m.core m.sector ⟨.k, data, 0, 0, []⟩
      else if (s.l1? m.core m.sector).map (·.st) = some .k then s.send true m.core m.sector (.invAck m.id)
      else s.sendDrop m.core m.sector
    | _ => s)

/-- OWNERSHIP_GRANT (R162): the waiting accesses are performed at once. -/
def execOwnershipGrant (a : Nat) (s : State) : Out :=
  deliver "OWNERSHIP_GRANT" a false s (bodyIs (fun b => match b with | .grant _ => true | _ => false)) (fun s m =>
    match m.body with
    | .grant data =>
      (match oget s.coh.owns (l1Key m.core m.sector) with
       | none => s.send true m.core m.sector .ownerDrop
       | some acts =>
         let s := { s with coh := { s.coh with owns := oset s.coh.owns (l1Key m.core m.sector) none } }
         (s.install m.core m.sector ⟨.o, data, 0, 0, []⟩).ownActs m.core m.sector acts)
    | _ => s)

/-- VALIDITY_END (R159). -/
def execValidityEnd (a b : Nat) (s : State) : Out :=
  whenEnabled "VALIDITY_END"
    (match s.l1? a b with | some x => x.st = .l && decide (x.expiry ≤ s.sched.gtc) | none => false) (s.setL1 a b none)

/-- INVALIDATION (R161, R166): a sector that is not K is acknowledged again. -/
def execInvalidation (a : Nat) (s : State) : Out :=
  deliver "INVALIDATION" a false s (bodyIs (· = .inval)) (fun s m =>
    let s := match s.l1? m.core m.sector with
      | some x => if x.st = L1State.k then s.setL1 m.core m.sector none else s
      | none => s
    s.send true m.core m.sector (.invAck m.id))

/-- RECALL (R161, R163). -/
def execRecall (a : Nat) (s : State) : Out :=
  deliver "RECALL" a false s (bodyIs (· = .recall)) (fun s m =>
    match s.l1? m.core m.sector with
    | some x =>
      if x.st = .o ∨ x.st = .m then
        let o := (s.setL1 m.core m.sector none).writeBackOps (if x.st = .m then x.writers else [])
        o.2.send true m.core m.sector (.recallAnswer true (dirtyCells m.sector x) o.1)
      else s.send true m.core m.sector (.recallAnswer false [] [])
    | none => s.send true m.core m.sector (.recallAnswer false [] []))

/-- PUBLISH_REQUEST (R161). A sector that has left is answered by its eviction. -/
def execPublishRequest (a : Nat) (s : State) : Out :=
  deliver "PUBLISH_REQUEST" a false s (bodyIs (· = .publish)) (fun s m =>
    match s.l1? m.core m.sector with
    | some x =>
      if x.st = .o ∨ x.st = .m then
        let o := (s.setL1 m.core m.sector (some { x with st := .o, dirty := 0, writers := [] })).writeBackOps
          (if x.st = .m then x.writers else [])
        o.2.send true m.core m.sector (.publishAnswer (dirtyCells m.sector x) o.1)
      else s
    | none => s)

/-- FORCED_PUBLISH (R168): every M sector is written back; the answer leaves once they have committed. -/
def execForcedPublish (a : Nat) (s : State) : Out :=
  deliver "FORCED_PUBLISH" a false s (bodyIs (· = .forced)) (fun s m =>
    let r := s.publishSectors m.core (fun _ => true)
    r.2.send true m.core m.sector .forcedAnswer r.1)

/-- HOME_ACKNOWLEDGEMENT (R118). -/
def execHomeAcknowledgement (a : Nat) (s : State) : Out :=
  deliver "HOME_ACKNOWLEDGEMENT" a false s (bodyIs (fun b => match b with | .ack _ => true | _ => false)) (fun s m =>
    match m.body with
    | .ack op => s.finishOp op
    | _ => s)

/-- STM_COPY_DELIVERY (R121): written at the destination's scratchpad and counted. -/
def execStmCopyDelivery (a : Nat) (s : State) : Out :=
  deliver "STM_COPY_DELIVERY" a true s
    (fun s m => !(s.dirEnt m.sector).held && (match m.body with | .stmCopy .. => true | _ => false)) (fun s m =>
    match m.body with
    | .stmCopy cells op => (s.bankWrite cells true).finishOp op
    | _ => s)

/-! ### Filling a destination -/

/-- Values of lanes of one register. -/
def writeVals (vd : Nat) (lanes : List Lane) : List (Nat × Word) → List Lane
  | [] => lanes
  | x :: r => writeVals vd (lanes.modify x.1 (fun l => l.setReg vd x.2)) r

/-- Part `part` of a load is delivered to its lanes that are still in the team. -/
def fillPart (s : State) (load part : Nat) (l : Load) (p : Part) : State :=
  let l1 : Load :=
    match p.st with
    | .lost c => { l with lost := (c, maskWhere p.lanes (fun _ _ => true)) :: l.lost }
    | .poisoned _ => { l with poison := l.poison ||| maskWhere p.lanes (fun _ _ => true) }
    | _ => l
  let vals : List (Nat × Word) := match p.st with
    | .ready v => (p.lanes.map (·.1)).zip v
    | .poisoned v => (p.lanes.map (·.1)).zip v
    | _ => []
  (s.modTeam l.team (fun t =>
    { t with lanes := writeVals l.vd t.lanes (vals.filter (fun x => t.live.getLsbD x.1)) })).settleLoad load
      { l1 with parts := oset l.parts part none }

def PartState.isWaiting : PartState → Bool
  | .waiting => true
  | _ => false

/-- Whether a message brings the values of part `b` of load `a`. -/
def MsgBody.fills (a b : Nat) : MsgBody → Bool
  | .data _ _ x y => x = a && y = b
  | .old _ _ x y => x = a && y = b
  | _ => false

/-- The value of a part is handed on: a register's load fills it, a walker's keeps it for the walker. -/
def State.handOn (s : State) (a b : Nat) : State :=
  match oget s.coh.loads a with
  | none => s
  | some l =>
    match oget l.parts b with
    | none => s
    | some p => if p.st.isWaiting || l.walker.isSome then s else fillPart s a b l p

/-- LOAD_REPLY (R74): the value of part `b` of load `a` arrives, by a message of its home or from the L1; the destination fills when
every lane's value is in. -/
def execLoadReply (a b : Nat) (s : State) : Out :=
  match s.coh.net.find? (fun m => m.body.fills a b) with
  | some m =>
    (match s.deliverable m.id with
     | some m => .next (((s.takeMsg m.id).takeReply m.body).handOn a b)
     | none => .refused (.notEnabled "LOAD_REPLY"))
  | none =>
    match oget s.coh.loads a with
    | none => .refused (.notEnabled "LOAD_REPLY")
    | some l =>
      match oget l.parts b with
      | none => .refused (.notEnabled "LOAD_REPLY")
      | some p => whenEnabled "LOAD_REPLY" (!p.st.isWaiting && l.walker.isNone) (fillPart s a b l p)

end Sys2Proof.Machine
end

