-- ==== Sys2Proof/Machine/Region.lean ====
section
/-! DEFINITION. The bytes a region of a handle reaches, as the range locks compare them (R280), and the checks that a
target chip makes of an access from outside (R324, R325). -/

namespace Sys2Proof.Machine

/-- The pieces of a GANG region, one for each core it touches (R147). -/
def gangPieces (l : Launch) (g : TeamGeom) (lo hi : Nat) : List Span :=
  let S := l.lr.scratch
  ((List.range (l.gangW * l.gangH)).filter (fun k => decide (lo < (k + 1) * S) && decide (k * S < hi))).map (fun k =>
    let a := max lo (k * S) - k * S
    let b := min hi ((k + 1) * S) - k * S
    let key := l.allocKey (l.gangCore g.core k) g.block a
    ⟨0, 0, key, key + (b - a)⟩)

/-- The bytes that `len` bytes at offset `off` of an entry reach; none for MCAST and NET. A LANE entry used by the whole team reaches
the slice of lane 0 (DESIGN CHOICE, log 56). -/
def regionPieces (l : Launch) (g : TeamGeom) (e : PalEntry) (off len : Nat) : List Span :=
  if len = 0 then []
  else if e.space = Sp.gang then gangPieces l g (e.base + off) (e.base + off + len)
  else
    match (placeOf l g e 0 off).span l.ctx len with
    | some x => [x]
    | none => []

/-- Whether a region overlaps a range held in a core's table. -/
def lockedRegion (s : State) (core : Nat) (ps : List Span) : Bool :=
  s.eng.locks.any (fun k => k.core = core && s.awake k.launch && ps.any (fun p => p.overlaps k.span))

/-- Report a replayable fault to the driver, one record for each page of a die (R307). -/
def State.reportFault (s : State) (ctx page die : Nat) (write : Bool) (team : Nat) : State :=
  if s.easel.faults.any (fun f => f.ctx = ctx && f.page = page && f.die = die) then s
  else ({ s with easel := { s.easel with
      faults := s.easel.faults ++ [(⟨ctx, page, die⟩ : FaultRec)]
      denied := s.easel.denied.filter (· ≠ (ctx, page)) } }).emit
    (.faultRecord ctx (page * 2 ^ 17) write team)

/-- A walk by an agent that waits for the driver by trying again: a page that the driver has answered as fatal is fatal (R307). -/
def xlHeld (s : State) (u ctx va : Nat) (acc : Acc) : Walk × Nat :=
  match xlNow s u ctx va acc with
  | (.replay r w a, x) => if s.easel.denied.contains (ctx, va / 2 ^ 17) then (.fatal, 0) else (.replay r w a, x)
  | r => r
/-! ### The export table (R324, R325) -/

/-- Word i of export e. -/
def State.expWord (s : State) (e i : Nat) : Word := s.bar0 (0x400000 + 64 * e + 8 * i)

/-- What the target's checks make of an access to an export. -/
inductive ExpRes
  /-- a Gallery byte, by memory key -/
  | bank (key : Nat)
  /-- context, virtual and physical address -/
  | mem (ctx va pa : Nat)
  | replay (ctx page : Nat)
  /-- refused by the export checks -/
  | bad
  /-- refused by a fatal translation -/
  | fatal
  /-- a page table cannot be read yet -/
  | busy
  deriving DecidableEq

/-- Whether PERM allows an access. -/
def expPerm (w : Word) : Acc → Bool
  | .read => w.getLsbD 8
  | .write => w.getLsbD 9
  | .atomic => w.getLsbD 10

/-- The translation of an offset of a DEVICE export reads the page tables. -/
def State.exportWalked (s : State) (e off : Nat) : State :=
  if fld (s.expWord e 0) 0 4 = Sp.device then s.walked (dieUnit 0) (fld (s.expWord e 3) 0 16) (fld (s.expWord e 1) 0 57 + off) else s

/-- The checks of R325 of an access of n bytes at an offset of export e. -/
def State.exportAt (s : State) (e off n : Nat) (acc : Acc) : ExpRes :=
  let w := s.expWord e 0
  let base := fld (s.expWord e 1) 0 57
  if !(w.getLsbD 63 && expPerm w acc && base % 64 = 0) || decide (fld (s.expWord e 2) 0 57 < off + n) then .bad
  else if fld w 0 4 = Sp.gallery then (if base + off + n ≤ 2 ^ 27 then .bank (galleryKey (base + off)) else .bad)
  else if fld w 0 4 = Sp.device then
    let ctx := fld (s.expWord e 3) 0 16
    match xlHeld s (dieUnit 0) ctx (base + off) acc with
    | (.page .., pa) => .mem ctx (base + off) pa
    | (.replay .., _) => .replay ctx ((base + off) / 2 ^ 17)
    | (.fatal, _) => .fatal
    | (.busy, _) => .busy
  else .bad

/-- Where n bytes at an offset of an export of this chip lie, whatever access it permits: the memory key of the first. -/
def State.exportKey (s : State) (e off n : Nat) : Option Nat :=
  [Acc.read, .write, .atomic].findSome? (fun acc => match s.exportAt e off n acc with
    | .bank k => some k
    | .mem _ _ pa => some pa
    | _ => none)

end Sys2Proof.Machine
end

