-- ==== Sys2Proof/Machine/Remote.lean ====
section
/-! DEFINITION. Requests to other chips and to groups as an arm or an engine makes them (R290, R298, R325 to R332), and what
ordered accesses wait for (R117, R118, R123, R167). -/

namespace Sys2Proof.Machine

/-! ### Groups (R290, R302) -/

/-- Word i of the tree-table entry of a group. -/
def State.treeWord (s : State) (g i : Nat) : Word := s.bar0 (0x200000 + 64 * g + 8 * i)
def State.groupValid (s : State) (g : Nat) : Bool := (s.treeWord g 0).getLsbD 63
def State.groupRoot (s : State) (g : Nat) : Nat := fld (s.treeWord g 0) 52 10
def State.groupSize (s : State) (g : Nat) : Nat := fld (s.treeWord g 0) 42 10 + 1
def State.groupMember (s : State) (g : Nat) : Bool := (s.treeWord g 0).getLsbD 62
def State.groupRank (s : State) (g : Nat) : Nat := fld (s.treeWord g 0) 32 10
/-- The chip whose node failed, of a group marked failed (R302). -/
def State.groupMarked (s : State) (g : Nat) : Option Nat := (s.atrium.failed.find? (fun x => x.1 = g)).map (·.2)

/-- h of a node of n ranks. -/
def rankHalf (n : Nat) : Nat := 2 ^ Nat.log2 (n - 1)

/-- A node slot. -/
structure TreeNode where
  a : Nat
  b : Nat
  die : Nat
  parent : Nat
  left : Nat
  right : Nat
  deriving DecidableEq, Repr

/-- The ranks of the children of a node. -/
def TreeNode.half (n : TreeNode) : Nat := rankHalf (n.b - n.a + 1)
def TreeNode.leftRange (n : TreeNode) : Nat × Nat := (n.a, n.a + n.half - 1)
def TreeNode.rightRange (n : TreeNode) : Nat × Nat := (n.a + n.half, n.b)

def slotNode (w : Word) : TreeNode := ⟨fld w 50 10, fld w 40 10, fld w 62 1, fld w 30 10, fld w 19 10, fld w 9 10⟩

/-- The nodes of a group that an entry's words hold. -/
def entryNodes (w : List Word) : List TreeNode := ((w.drop 1).take 4).filterMap (fun x => if x.getLsbD 63 then some (slotNode x) else none)

/-- The nodes of a group that this chip hosts. -/
def State.nodes (s : State) (g : Nat) : List TreeNode := entryNodes ((List.range 8).map (s.treeWord g))

/-- The chip of a leaf child of a node, when it is that of rank r. -/
def TreeNode.leaf? (n : TreeNode) (r : Nat) : Option Nat :=
  if n.leftRange = (r, r) then some n.left else if n.rightRange = (r, r) then some n.right else none

/-- The chip of the member of a rank (R290): this one, one that the table names as a leaf, or one that only other chips' tables know. -/
def State.memberChip (s : State) (g r : Nat) : Nat :=
  if s.groupMember g ∧ s.groupRank g = r then s.self
  else ((s.nodes g).findSome? (fun n => n.leaf? r)).getD (Config.memberChip g r)

/-- The chips of a group's members, by rank. -/
def State.members (s : State) (g : Nat) : List Nat := (List.range (s.groupSize g)).map (s.memberChip g)

/-- The chips that hear of a group error: members, and the hosts of nodes that this chip knows; every chip it has a route to when it
has no valid entry for the group. -/
def State.groupChips (s : State) (g : Nat) : List Nat :=
  if !s.groupValid g then (List.range 1024).filter (fun c => (s.routeWord c).getLsbD 63 && decide (c ≠ s.self))
  else ((s.members g ++ [s.groupRoot g, fld (s.treeWord g 0) 22 10] ++ (s.nodes g).flatMap (fun n => [n.parent, n.left, n.right])).dedup).filter
    (· ≠ s.self)

/-- The chip with which a group fails: that of the node that failed, or a member or a node's host that is declared dead (R301, R332). -/
def State.groupFailed (s : State) (g : Nat) : Option Nat :=
  (s.groupMarked g).orElse (fun _ => if s.groupValid g then (s.groupChips g).find? s.pod.dead.contains else none)

/-! ### Batches being closed (R133, R134) -/

def flagBit (b : Bool) (i : Nat) : Nat := if b then 2 ^ i else 0

/-- The lowest chip with an error, 0 when there is none. -/
def Close.first (c : Close) : Nat :=
  match c.failed with
  | [] => 0
  | x :: r => r.foldl (fun m y => min m y) x

/-- The status word of BCLOSE (R134). -/
def Close.status (c : Close) : Word :=
  let errs : Nat := flagBit c.poison 20 + flagBit c.xlate 19 + flagBit c.bounds 18 + flagBit c.lost 17 + flagBit (!c.failed.isEmpty) 16
  let n : Nat := c.failed.length
  BitVec.ofNat 64 (c.peers * 2 ^ 32 + n * 2 ^ 21 + errs + c.first)

/-- A close whose last reply is in fills its register (R133). -/
def State.settleClose (s : State) (tid tag : Nat) (c : Close) : State :=
  s.modTeam tid (fun t =>
    if c.waiting = [] then
      { (t.setG c.gd c.status).setGMark c.gd .full with closes := oset t.closes tag none }
    else { t with closes := oset t.closes tag (some c) })

/-- A close that names the peer counts it as lost. -/
def State.loseClose (s : State) (chip tid tag : Nat) (c : Close) : State :=
  if c.waiting.contains chip then
    s.settleClose tid tag { c with waiting := c.waiting.filter (· ≠ chip), failed := (chip :: c.failed).dedup, lost := true }
  else s

/-! ### One remote request -/

/-- Who makes a remote request: the core, the team and its tag when it is tagged, what must complete before it leaves. -/
structure Sender where
  core : Nat
  tag : Option (Nat × Nat)
  after : List Nat

/-- Note a tagged request in its team's peer set. -/
def State.notePeer (s : State) (q : Sender) (chip : Nat) (lost : Bool) : State :=
  match q.tag with
  | some (tid, tag) => s.modTeam tid (fun t => t.addPeer tag chip lost)
  | none => s

def remoteIsRead : RemoteOp → Bool
  | .siRead _ => true
  | .wtRead => true
  | .write _ => false
  | .atomic .. => false
  | .hold => false
  | .release _ => false

def remoteIsWrite : RemoteOp → Bool
  | .write _ => true
  | _ => false

/-- A request that ends as unreachable (R332): its destination is lost, a store counts as completed. -/
def State.unreachable (s : State) (q : Sender) (chip : Nat) (op : RemoteOp) (opId load part : Nat) : State :=
  let s := if remoteIsRead op then s else s.notePeer q chip true
  let s := if remoteIsWrite op then s else s.losePart load part chip
  if remoteIsRead op then s else s.finishOp opId false

/-- Fail the command an operation writes for (R256). -/
def State.failCmdOp (s : State) (opId code chip : Nat) : State :=
  match oget s.coh.ops opId with
  | some x =>
    (match x.kind with
     | .cmdWrite c _ =>
       let y := (oget s.eng.cmds c).map (fun y => { y with fail := some (y.fail.getD ⟨code, chip, false, false⟩) })
       { s with eng := { s.eng with cmds := oset s.eng.cmds c y } }
     | .cmdRead c _ _ =>
       let y := (oget s.eng.cmds c).map (fun y => { y with
         fail := some (y.fail.getD ⟨code, chip, false, false⟩), writes := y.writes.filter (· ≠ opId) })
       ({ s with eng := { s.eng with cmds := oset s.eng.cmds c y } }).dropOp opId
     | .cmdHold c =>
       let y := (oget s.eng.cmds c).map (fun y => { y with fail := some (y.fail.getD ⟨code, chip, false, false⟩) })
       { s with eng := { s.eng with cmds := oset s.eng.cmds c y } }
     | _ => s)
  | none => s

/-- Make a remote request (R327, R328); to a chip that cannot be reached it is refused at once (R332). -/
def State.remoteSend (s : State) (q : Sender) (chip exp off n : Nat) (op : RemoteOp) (acq : Bool) (opId load part : Nat)
    (count : Option (Nat × Nat)) : State :=
  if s.reachable chip then
    let s := if remoteIsRead op then s else s.notePeer q chip false
    let seq := sget 0 s.pod.nextSeq chip
    let tag := if remoteIsRead op then none else q.tag
    let r : Remote := ⟨chip, seq, q.core, podSector chip exp off, exp, off, n, op, acq, tag, opId, load, part, 0, [], false,
      false, s.sched.gtc, count, q.after, none⟩
    let s := { s with pod := { s.pod with
      nextSeq := sset 0 s.pod.nextSeq chip ((seq + 1) % 2 ^ 32)
      remotes := oset s.pod.remotes (remoteKey chip seq) (some r) } }
    s.flushRemotes
  else ((s.failCmdOp opId 0x0F chip).unreachable q chip op opId load part)

/-- Whether a group's work can reach its ROOT from here (R327). -/
def State.rootReachable (s : State) (g : Nat) : Bool := s.groupRoot g = s.self || s.reachable (s.groupRoot g)

/-- A store of one sector through an MCAST entry (R298): one record for each member's copy; the sector goes to ROOT. Copies that cannot
reach their members are lost (R132, R301, R302, R327). -/
def State.mcastSend (s : State) (q : Sender) (g exp off : Nat) (cells : List (Nat × Byte)) (rtype rop base : Nat)
    (newMemberOp : State → Nat × State) (count : Option (Nat × Nat)) : State :=
  let token := s.newId
  let s := token.2
  let data := (List.range 64).map (fun i => (((cells.find? (fun c => c.1 % 64 = i)).map (·.2)).getD 0 : Byte))
  let mask := cells.foldl (fun m c => m ||| 2 ^ (c.1 % 64)) 0
  let sec : GroupSec := ⟨g, token.1, .store, off / 64 * 64 - base, rtype, rop, base, exp, 0, s.self, 0, 0, mask, q.tag, false, false, data, true⟩
  (s.members g).zipIdx.foldl (fun s (m : Nat × Nat) =>
    let o := newMemberOp s
    let s := o.2
    if (s.groupFailed g).isSome || !s.rootReachable g then s.unreachable q m.1 (.write []) o.1 0 0
    else
        let s := s.notePeer q m.1 false
        let r : Remote := ⟨m.1, token.1, q.core, podSector (1024 + g) exp off, exp, off, cells.length, .write cells, false,
          q.tag, o.1, 0, 0, 0, [], decide (m.2 ≠ 0), false, s.sched.gtc, count, q.after, some sec⟩
        ({ s with pod := { s.pod with remotes := oset s.pod.remotes (memberKey m.1 token.1) (some r) } }).flushRemotes) s

/-- Requests of reducing loads leave while their Atrium has one of its 64 entries free (R298). -/
def State.sendLoads (s : State) : State :=
  (slist s.atrium.rloads).foldl (fun s x =>
    if x.2.sent || decide (64 ≤ ((slist s.atrium.rloads).filter (fun y => y.2.sent && y.2.die = x.2.die)).length) then s
    else
      let r := x.2
      let root := s.groupRoot r.group
      let sec := podSector root r.exp r.off
      let m := OutMsg.loadRequest root ⟨s.self, x.1, r.group, r.rtype, r.rop⟩ r.exp r.off r.n 0 (s.groupSize r.group - 1)
      let leaves := fun (s : State) (p : Nat) => { s with atrium := { s.atrium with
        rloads := oset s.atrium.rloads x.1 (some { r with sent := true, port := p, since := s.sched.gtc }) } }
      if root = s.self then (leaves s 48).emit m
      else
        match s.pickPort root sec r.tried with
        | none => s
        | some p => ((leaves s p).sendFlit p).emit (.via p (s.flitNo p) m)) s

/-- The key of a reducing load among what is kept until it is answered: beside those of requests and copies. -/
def rloadKey (load part : Nat) : Nat := remoteKey (4096 + load) part

/-- A reducing load of one lane (R298): a request to ROOT. A failed group loses the destination (R301, R302), and so does a ROOT that no
request can reach (R327, R332). -/
def State.reduceSend (s : State) (g exp off n rop rtype load part : Nat) : State :=
  match s.groupFailed g with
  | some c => s.losePart load part c
  | none =>
    if !s.rootReachable g then s.losePart load part (s.groupRoot g)
    else
    let k := rloadKey load part
    let r : RLoad := ⟨coreDie (((oget s.coh.loads load).map (·.core)).getD 0), false, 0, [], false, s.sched.gtc, load, part, g, exp, off,
      n, rop, rtype⟩
    { s with atrium := { s.atrium with rloads := oset s.atrium.rloads k (some r) } }.sendLoads

/-! ### Ordering of an arm's accesses -/

def State.cmdLive (s : State) (c : Nat) : Bool := (oget s.eng.cmds c).isSome

/-- Whether a hold still holds. -/
def State.holdLive (s : State) (h : Hold) : Bool := h.ops.any s.opLive || h.cmds.any s.cmdLive

/-- Whether an arm's holds let an access issue: a load is held by acquires, anything else by releases too (R117, R123). -/
def State.held (s : State) (a : Arm) (load : Bool) : Bool := a.holds.any (fun h => (h.acquire || !load) && s.holdLive h)

/-- The holds that have ended leave; an acquire at gang scope or wider drops the L sectors of the core (R117). -/
def State.passHolds (s : State) (tid : Nat) (f : Bool) (load : Bool) : State :=
  match s.team? tid with
  | none => s
  | some t =>
    match t.arm? f with
    | none => s
    | some a =>
      if a.holds = [] then s
      else
        let mine := a.holds.filter (fun h => h.acquire || !load)
        let s1 := s.modArm tid f (fun a => { a with holds := a.holds.filter (fun h => !(h.acquire || !load)) })
        if mine.any (·.drop) then s1.dropLeases t.geom.core else s1

def State.addHold (s : State) (tid : Nat) (f : Bool) (h : Hold) : State :=
  s.modArm tid f (fun a => { a with holds := a.holds ++ [h] })

/-- Whether a core holds in M a sector that an arm wrote. -/
def State.wroteM (s : State) (core tid : Nat) (f : Bool) : Bool :=
  (slist s.coh.l1).any (fun kx => kx.1 % 256 = core && kx.2.st = .m && kx.2.writers.contains (tid, f))

/-- Whether an action that waits for ownership is a store or atomic of a scoreboard. -/
def OwnAct.isOf (ops : List Nat) : OwnAct → Bool
  | .store op _ _ _ => ops.contains op
  | .atomic op _ _ _ _ _ _ _ _ _ => ops.contains op
  | .load .. => false

/-- Whether a store or atomic in an arm's scoreboard waits for the ownership that its core has asked for (R99, R162). -/
def State.awaitsOwn (s : State) (core tid : Nat) (f : Bool) : Bool :=
  match s.armOf ⟨tid, f⟩ with
  | some (_, a) => (slist s.coh.owns).any (fun kx => kx.1 % 256 = core && kx.2.any (OwnAct.isOf a.ops))
  | none => false

/-- Sectors whose home has, or is about to have, the core as a narrow-release holder (R167). -/
def State.narrowHomes (s : State) (core : Nat) : List Nat :=
  (((slist s.coh.dir).filter (fun kd => kd.2.nrh.contains core)).map (·.1)
    ++ (s.coh.net.filter (fun m => m.core = core && m.toHome && m.body = .narrowRelease)).map (·.sector)).dedup

/-- A release at gang scope or wider writes back every M sector the arm has written (R118) and is reported to the homes that
hold the core in NRH (R167). Answers the operations of the write-backs. The sectors whose ownership the arm's stores still await are
none of them: who releases waits for them first (`State.awaitsOwn`). -/
def State.wideRelease (s : State) (core tid : Nat) (f : Bool) : List Nat × State :=
  let r := s.publishSectors core (fun x => x.writers.contains (tid, f))
  (r.1, (s.narrowHomes core).foldl (fun s sec => s.send true core sec .narrowPublished r.1) r.2)

end Sys2Proof.Machine
end

