-- ==== Sys2Proof/Machine/Mem.lean ====
section
/-! DEFINITION. Loads, stores, multicast stores and atomics, plain and ordered (R73, R74, R111 to R121). -/

namespace Sys2Proof.Machine

/-- The ordering of an access: none, or that of its ORD prefix (R23). -/
structure Order where
  acq : Bool
  rel : Bool
  scope : Nat

def Order.plain : Order := ⟨false, false, 0⟩

def Order.of (o : OrdKind) (sc : Scope) : Order :=
  match o with
  | .acquire => ⟨true, false, sc.code⟩
  | .release => ⟨false, true, sc.code⟩
  | .acqRel => ⟨true, true, sc.code⟩

def iwBytes (w : IW) : Nat := w.bits / 8

/-- The launch of a unit's team and the entry its handle register names; an invalid handle traps HANDLE (R72, R73). -/
def withHandle (k : Ctx) (s : State) (gh : Nat) (fn : Launch → PalEntry → Res) : Res :=
  match s.launch? k.t.geom.launch with
  | none => .wait
  | some l =>
    match k.t.handle s (k.t.greg gh) with
    | none => .trap Code.handle (k.t.greg gh)
    | some e => fn l e

/-- TRAPINFO of POLICY (R73). -/
def policyInfo (pol mask : Nat) : Word := BitVec.ofNat 64 (pol + mask * 256)

/-- Width in bytes that RTYPE asks of a reducing load (R153). -/
def rtypeBytes (r : Nat) : Nat := if r = 0 then 2 else if r = 1 then 4 else 8

/-- Step 2 of R73 for a load. -/
def loadCheck (s : State) (e : PalEntry) (h : Word) (sx : Bool) (n pol : Nat) : Option (Nat × Word) :=
  if e.space = Sp.net ∨ e.space = Sp.gangcast then some (Code.handle, h)
  else if e.space = Sp.mcast ∧ (sx ∨ n ≠ rtypeBytes e.rtype ∨ s.groupValid e.target = false) then some (Code.handle, h)
  else if !e.canRead then some (Code.handle, h)
  else if bitsOf e.polmask pol 1 = 0 then some (Code.policy, policyInfo pol e.polmask)
  else if e.space = Sp.mcast ∧ e.isSealed then some (Code.sealedReduce, h)
  else none

/-- Step 2 of R73 for a store. -/
def storeCheck (s : State) (e : PalEntry) (h : Word) (pol : Nat) : Option (Nat × Word) :=
  if e.space = Sp.net ∨ e.space = Sp.gangcast then some (Code.handle, h)
  else if e.space = Sp.mcast ∧ s.groupValid e.target = false then some (Code.handle, h)
  else if !e.canWrite then some (Code.handle, h)
  else if bitsOf e.polmask pol 1 = 0 then some (Code.policy, policyInfo pol e.polmask)
  else none

/-- The aops a HOST handle carries (R112). -/
def hostAop (a : AOp) : Bool := a = .add || a = .xchg || a = .cas

/-- Step 2 of R112 for an atomic. -/
def atomicCheck (e : PalEntry) (h : Word) (a : AOp) : Option (Nat × Word) :=
  if e.space = Sp.net ∨ e.space = Sp.gangcast ∨ e.space = Sp.mcast then some (Code.handle, h)
  else if !(e.canRead && e.canWrite && e.canAtomic) then some (Code.handle, h)
  else if e.space = Sp.host ∧ hostAop a = false then some (Code.handle, h)
  else if bitsOf e.polmask e.defpol 1 = 0 then some (Code.policy, policyInfo e.defpol e.polmask)
  else none

/-- Steps 3 and 4 of R73 over the executing lanes. -/
def lanesThen (k : Ctx) (s : State) (l : Launch) (e : PalEntry) (offs : LaneOffs) (n : Nat) (acc : Acc) (go : Res)
    (at_ : Nat → Nat → List Place := fun L o => [placeOf l k.t.geom e L o]) : Res :=
  match laneCheck s l k.t.geom e offs n at_ with
  | some x => .trap x.1 x.2
  | none =>
    match xlateVas s (coreUnit k.t.geom.core) l.ctx acc (vasOf (offs.map (fun x => placeOf l k.t.geom e x.1 x.2))) with
    | .fatal i => .trap Code.xlateFatal i
    | .miss ps => .park ps
    | .ok => go

/-- A physical address from the TLBs (after step 4). -/
def paOf (s : State) (u ctx va : Nat) : Nat :=
  match s.tlbFind u ctx va with
  | some e => e.phys va
  | none => 0

/-- The key of the first byte of an access: memory key, physical address, or export offset. -/
def keyOf (s : State) (l : Launch) (g : TeamGeom) (e : PalEntry) (L o : Nat) : Nat :=
  match placeOf l g e L o with
  | .bank key => key
  | .va va => paOf s (coreUnit g.core) l.ctx va
  | .pod _ _ off => off
  | .mcast _ _ off => off
  | .none => 0

/-- The sector key of a byte key in an entry's space. -/
def sectorOf (e : PalEntry) (key : Nat) : Nat := if e.space = Sp.pod then podSector e.target e.aux key else key / 64

/-! ### Accesses to the same bytes (R74, R151, R172, R178) -/

/-- The bytes of this chip that an export names: class 5 by memory key, class 7 where the export or its page is not in force, so that
they may be any. -/
def ownSpan (s : State) (e o n : Nat) : Span :=
  match s.exportKey e o n with
  | some k => ⟨5, 0, k, k + n⟩
  | none => ⟨7, 0, 0, 0⟩

/-- The bytes of an access as a later one of its team compares with them, beside the classes of the range locks: 3 memory keys of this
chip, 4 bytes of another chip's export, 6 the same reached through a group, 5 and 7 this chip's bytes reached through an export. -/
def aliasSpans (s : State) (l : Launch) (u : Nat) (p : Place) (n : Nat) : List Span :=
  match p with
  | .bank k => [⟨3, 0, k, k + n⟩]
  | .va a => [⟨3, 0, paOf s u l.ctx a, paOf s u l.ctx a + n⟩]
  | .pod c e o => [if c = s.self then ownSpan s e o n else ⟨4, c * 65536 + e, o, o + n⟩]
  | .mcast g e o => (s.members g).map (fun c => if c = s.self then ownSpan s e o n else ⟨6, c * 65536 + e, o, o + n⟩)
  | .none => []

/-- The bytes that one lane's access of `n` bytes at an offset reaches. -/
def laneSpans (s : State) (l : Launch) (g : TeamGeom) (e : PalEntry) (n : Nat) (x : Nat × Nat) : List Span :=
  let p := placeOf l g e x.1 x.2
  (p.span l.ctx n).toList ++ aliasSpans s l (coreUnit g.core) p n

/-- Whether accesses may reach the same bytes by ways that do not keep them in order (log 60): this chip's bytes through an export, or
a chip's bytes through a group or through two exports, which may name the same bytes (R151). -/
def Span.clash (p q : Span) : Bool :=
  let meet := decide (p.lo < q.hi) && decide (q.lo < p.hi)
  ([3, 5, 7].contains p.cls && [3, 5, 7].contains q.cls && ((p.cls, q.cls) != (3, 3)) && (p.cls = 7 || q.cls = 7 || meet))
    || ([4, 6].contains p.cls && [4, 6].contains q.cls && p.tag / 65536 = q.tag / 65536
      && (p.tag != q.tag || ((p.cls, q.cls) != (4, 4) && meet)))

/-- Whether an access of a team must wait for an earlier one of its team to the same bytes (R74; log 60). -/
def mustFollow (s : State) (tid : Nat) (ps : List Span) : Bool :=
  (slist s.coh.ops).any (fun o => o.2.team = tid && o.2.spans.any (fun q => ps.any (fun p => p.clash q)))

/-- Whether a load of a sector under a policy hits a copy that other agents' writes may have overtaken or may yet. -/
def State.hitsCopy (s : State) (core sec pol : Nat) : Bool :=
  !s.ownPending core sec && (match s.l1? core sec with
    | some x => (x.st = .k && decide (pol ≤ 1)) || (x.st = .l && pol = 0 && x.valid s.sched.gtc)
    | none => false)

/-- Whether some lane's load would hit a copy while an earlier load of the lane from the same bytes still waits for its value, and so
could return the older of two values (R172, R181; log 60). -/
def overtakes (s : State) (tid core pol n : Nat) (keys : List (Nat × Nat × Nat)) : Bool :=
  keys.any (fun x => s.hitsCopy core x.2.1 pol && (slist s.coh.loads).any (fun l => l.2.team = tid
    && (slist l.2.parts).any (fun p => p.2.sector = x.2.1 && p.2.st = .waiting
      && p.2.lanes.any (fun y => y.1 = x.1 && decide (y.2 < x.2.2 + n) && decide (x.2.2 < y.2 + l.2.n)))))

/-- Group lanes by sector: for each sector its first byte's key, and each lane with its offset. -/
def groupLanes : List (Nat × Nat) → List (Nat × List (Nat × Nat))
  | [] => []
  | (L, key) :: r =>
    let rest := groupLanes r
    if rest.any (fun g => g.1 = key / 64) then
      rest.map (fun g => if g.1 = key / 64 then (g.1, (L, key % 64) :: g.2) else g)
    else (key / 64, [(L, key % 64)]) :: rest

/-- The cells of a store, the highest lane's byte standing where lanes overlap (R74). -/
def lastCells (cells : List (Nat × Byte)) : List (Nat × Byte) :=
  slist (cells.foldl (fun (m : Store (Option Byte)) c => oset m c.1 (some c.2)) [])

/-- The arm of a unit as a requester. -/
def Ctx.req (k : Ctx) (acq : Bool) (after : List Nat) : Req := ⟨k.t.geom.core, k.tid, k.f, acq, after⟩

def Ctx.sender (k : Ctx) (after : List Nat) : Sender := ⟨k.t.geom.core, some (k.tid, k.t.openBatch k.a.tag), after⟩

/-- Where a POD entry counts at the sender (R152). -/
def PalEntry.senderCount (e : PalEntry) (launch n : Nat) : Option (Nat × Nat) :=
  if e.cnt ∧ e.space = Sp.pod then some (tileKey launch e.ccore e.cblock e.ctile, n) else none

/-! ### Loads -/

/-- First offset and length of the bytes that lanes need of a sector. -/
def spanOf (n : Nat) (offs : List (Nat × Nat)) : Nat × Nat :=
  let lo := offs.foldl (fun m x => min m x.2) 63
  (lo, offs.foldl (fun m x => max m (x.2 + n)) 0 - lo)

/-- One part of a load asks for its bytes. -/
def loadPart (k : Ctx) (e : PalEntry) (s : State) (q : Req) (pol n load part base : Nat) (offs : List (Nat × Nat)) : State :=
  if e.bank then s.send true q.core base (.req (.wtRead q.acq load part)) q.after
  else if e.space = Sp.pod then
    let sec := podSector e.target e.aux (base * 64)
    let sp := spanOf n offs
    let miss := s.remoteSend (k.sender []) e.target e.aux (base * 64 + sp.1) sp.2
      (if pol = 0 then .siRead e.leaseTicks else .wtRead) q.acq load load part none
    match s.l1? q.core sec with
    | some x => if pol = 0 ∧ x.valid s.sched.gtc then s.readyPart load part x.data else miss
    | none => miss
  else if e.space = Sp.mcast then
    s.reduceSend e.target e.aux (base * 64 + ((offs.head?).map (·.2)).getD 0) n e.rop e.rtype load part
  else s.l1Load q base pol e.leaseTicks load part

/-- The load itself (R74): its destination becomes empty, each sector is asked for once. -/
def startLoad (k : Ctx) (e : PalEntry) (s : State) (vd n pol : Nat) (sx : Bool) (ord : Order) (keys : List (Nat × Nat))
    (spans : List Span) : State :=
  let o := s.newOp .load k.tid k.f spans
  let s := o.2
  let groups := if e.space = Sp.mcast then keys.map (fun x => (x.2 / 64, [(x.1, x.2 % 64)])) else groupLanes keys
  let parts := groups.zipIdx.map (fun g => (g.2, some (⟨sectorOf e (g.1.1 * 64), g.1.2, .waiting, true⟩ : Part)))
  let ld : Load := ⟨k.tid, none, k.t.geom.core, o.1, vd, n, sx, parts, 0, []⟩
  let s := { s with coh := { s.coh with loads := oset s.coh.loads o.1 (some ld) } }
  let s := s.modTeam k.tid (fun t => t.setVMark vd .empty)
  let s := groups.zipIdx.foldl (fun s g => loadPart k e s (k.req ord.acq []) pol n o.1 g.2 g.1.1 g.1.2) s
  if ord.acq then s.addHold k.tid k.f ⟨true, [o.1], [], decide (2 ≤ ord.scope)⟩ else s

/-- LD and LDS, plain or as an ordered acquire. -/
def loadEff (f : LM) (sx : Bool) (ord : Order) (k : Ctx) (s : State) : Res :=
  if s.held k.a true then .wait
  else
    let s := s.passHolds k.tid k.f true
    withHandle k s f.gh.toNat (fun l e =>
      let n := iwBytes f.sz
      match loadCheck s e (k.t.greg f.gh.toNat) sx n f.pol.code with
      | some x => .trap x.1 x.2
      | none =>
        let offs := (lanesOf k.ex k.t.geom.lanes).map (fun L => (L, (k.src L (k.t.lane L) f.vo.toNat).toNat))
        if offs = [] then .done s
        else
          let keys := offs.map (fun x => (x.1, keyOf s l k.t.geom e x.1 x.2))
          let spans := offs.flatMap (laneSpans s l k.t.geom e n)
          lanesThen k s l e offs n .read
            (if mustFollow s k.tid spans
                || overtakes s k.tid k.t.geom.core f.pol.code n (keys.map (fun x => (x.1, sectorOf e x.2, x.2 % 64))) then .wait
             else .done (startLoad k e s f.vd.toNat n f.pol.code sx ord keys spans)))

def loadUse (f : LM) : Use :=
  { pg := some f.pg.toNat, vr := [(f.vo.toNat, false)], vw := [f.vd.toNat], gr := [(f.gh.toNat, false)] }

/-- LD (R73, R74). -/
def execLd (f : LM) (s : State) : Out := issueUnit (.ld f) (loadUse f) s (loadEff f false .plain)

/-- LDS (R73, R74). -/
def execLds (f : LM) (s : State) : Out := issueUnit (.lds f) (loadUse f) s (loadEff f true .plain)

/-! ### Release order -/

/-- What a release does before its bytes leave (R118, R119, R167): wait, publish and stay, or go on with the operations the
bytes follow. -/
inductive RelRes
  | wait
  | stay (s : State)
  | go (after : List Nat) (s : State)

/-- `near` says that some lane's bytes are performed at once: in an owned sector, or behind an ownership request of the core. A
release at gang scope or wider waits until the arm's stores have the ownership they await, so that it writes them back too. -/
def releaseStep (k : Ctx) (s : State) (ord : Order) (near : Bool) : RelRes :=
  let core := k.t.geom.core
  if !ord.rel then .go [] s
  else if 2 ≤ ord.scope ∧ s.awaitsOwn core k.tid k.f then .wait
  else if near then
    if 2 ≤ ord.scope ∧ s.wroteM core k.tid k.f then .stay (k.s0.wideRelease core k.tid k.f).2
    else if !(s.liveOps k.a.ops).isEmpty then .wait
    else if 2 ≤ ord.scope then .go [] (s.wideRelease core k.tid k.f).2
    else .go [] s
  else if 2 ≤ ord.scope then
    let r := s.wideRelease core k.tid k.f
    .go (r.1 ++ s.liveOps k.a.ops) r.2
  else .go (s.liveOps k.a.ops) s

/-- Narrow-release notices for the sectors a release touches whose home is on this chip (R167). A store that still awaits ownership
precedes the release's bytes, and its sector is M by then. -/
def narrowNotices (k : Ctx) (s : State) (e : PalEntry) (ord : Order) (secs after : List Nat) : State :=
  if ord.rel && decide (ord.scope < 2) && decide (e.space = Sp.device ∨ e.space = Sp.host)
      && (s.wroteM k.t.geom.core k.tid k.f || s.awaitsOwn k.t.geom.core k.tid k.f) then
    secs.foldl (fun s sec => s.send true k.t.geom.core sec .narrowRelease after) s
  else s

/-- Whether an access to one of these sectors is performed at once. -/
def nearAccess (s : State) (core : Nat) (secs : List Nat) : Bool :=
  secs.any (fun sec => s.l1Owned core sec || s.ownPending core sec)

/-! ### Stores -/

/-- One sector of a store. `spans` are the bytes it writes there. -/
def storeSector (k : Ctx) (e : PalEntry) (q : Req) (pol : Nat) (s : State) (base : Nat) (cells : List (Nat × Byte))
    (spans : List Span) : State :=
  if e.bank then
    let o := s.newOp .store k.tid k.f spans
    o.2.send true q.core base (.req (.write cells o.1)) q.after
  else if e.space = Sp.pod then
    let sec := podSector e.target e.aux (base * 64)
    let s := (s.setL1 q.core sec none).noInstall q.core sec
    let o := s.newOp .store k.tid k.f spans
    let lo := (cells.map (·.1)).headD 0
    let hi := (cells.map (·.1)).getLastD 0
    o.2.remoteSend (k.sender q.after) e.target e.aux lo (hi + 1 - lo) (.write cells) false o.1 0 0
      (e.senderCount k.t.geom.launch cells.length)
  else if e.space = Sp.mcast then
    s.mcastSend (k.sender q.after) e.target e.aux (base * 64) cells e.rtype e.rop e.base (fun s => s.newOp .store k.tid k.f spans) none
  else
    let o := s.newOp .store k.tid k.f spans
    o.2.l1Store q base pol o.1 cells

/-- The sectors of a store in turn. -/
def storeAll (k : Ctx) (e : PalEntry) (q : Req) (pol : Nat) (s : State) (cells : List (Nat × Byte))
    (spans : Nat → List Span) : State :=
  (sectorsOf cells).foldl (fun s b => storeSector k e q pol s b (cells.filter (fun c => c.1 / 64 = b)) (spans b)) s

/-- ST, plain or as an ordered release. -/
def storeEff (f : LM) (ord : Order) (k : Ctx) (s : State) : Res :=
  if s.held k.a false then .wait
  else
    let s := s.passHolds k.tid k.f false
    withHandle k s f.gh.toNat (fun l e =>
      let n := iwBytes f.sz
      match storeCheck s e (k.t.greg f.gh.toNat) f.pol.code with
      | some x => .trap x.1 x.2
      | none =>
        let offs := (lanesOf k.ex k.t.geom.lanes).map (fun L => (L, (k.src L (k.t.lane L) f.vo.toNat).toNat))
        if offs = [] then .done s
        else
          let cells := lastCells (offs.flatMap (fun x =>
            cellsOf (keyOf s l k.t.geom e x.1 x.2) (leBytes n (k.src x.1 (k.t.lane x.1) f.vd.toNat).toNat)))
          let secs := (sectorsOf cells).map (fun b => sectorOf e (b * 64))
          let spans := fun b => (offs.filter (fun x => keyOf s l k.t.geom e x.1 x.2 / 64 = b)).flatMap (laneSpans s l k.t.geom e n)
          lanesThen k s l e offs n .write
            (if mustFollow s k.tid (offs.flatMap (laneSpans s l k.t.geom e n)) then .wait
             else
               match releaseStep k s ord (nearAccess s k.t.geom.core secs) with
               | .wait => .wait
               | .stay s' => .stay s'
               | .go after s' =>
                 .done (storeAll k e (k.req false after) f.pol.code (narrowNotices k s' e ord secs after) cells spans)))

def storeUse (f : LM) : Use :=
  { pg := some f.pg.toNat, vr := [(f.vo.toNat, false), (f.vd.toNat, false)], gr := [(f.gh.toNat, false)] }

/-- ST (R73, R74). -/
def execSt (f : LM) (s : State) : Out := issueUnit (.st f) (storeUse f) s (storeEff f .plain)

/-! ### Multicast stores into a gang (R120, R121) -/

/-- The copies for one destination core: each goes to the bank of its sector, behind the issuing core's earlier accesses there
(R74, R151). -/
def stmCopies (k : Ctx) (l : Launch) (e : PalEntry) (vals : List (Nat × List Byte)) (s : State) (dest : Nat) : State :=
  let cells := lastCells (vals.flatMap (fun x => cellsOf (l.allocKey dest k.t.geom.block (e.base + x.1)) x.2))
  (sectorsOf cells).foldl (fun s b =>
    let own := cells.filter (fun c => c.1 / 64 = b)
    let o := s.newOp .stm k.tid k.f (own.map (fun c => ⟨0, 0, c.1, c.1 + 1⟩))
    o.2.send true k.t.geom.core b (.stmCopy own o.1)) s

/-- STM. -/
def stmEff (f : LM) (k : Ctx) (s : State) : Res :=
  if s.held k.a false then .wait
  else
    let s := s.passHolds k.tid k.f false
    withHandle k s f.gh.toNat (fun l e =>
      let h := k.t.greg f.gh.toNat
      let mask := k.t.greg (f.gh.toNat + 1)
      let n := iwBytes f.sz
      if e.space ≠ Sp.gangcast then .trap Code.handle h
      else if !e.canWrite then .trap Code.handle h
      else if bitsOf e.polmask f.pol.code 1 = 0 then .trap Code.policy (policyInfo f.pol.code e.polmask)
      else if 2 ^ (l.gangW * l.gangH) ≤ mask.toNat then .trap Code.mcastRange mask
      else
        let offs := (lanesOf k.ex k.t.geom.lanes).map (fun L => (L, (k.src L (k.t.lane L) f.vo.toNat).toNat))
        if offs = [] then .done s
        else
          let vals := offs.map (fun x => (x.2, leBytes n (k.src x.1 (k.t.lane x.1) f.vd.toNat).toNat))
          let dests := ((List.range (l.gangW * l.gangH)).filter (fun i => mask.getLsbD i)).map (l.gangCore k.t.geom.core)
          lanesThen k s l e offs n .write (.done (dests.foldl (stmCopies k l e vals) s))
            (fun _ o => dests.map (fun d => .bank (l.allocKey d k.t.geom.block (e.base + o)))))

/-- STM (R120). -/
def execStm (f : LM) (s : State) : Out :=
  issueUnit (.stm f) { storeUse f with gr := [(f.gh.toNat, false), (f.gh.toNat + 1, false)] } s (stmEff f)

/-! ### Atomics -/

/-- One lane of an atomic: part `part` of its load. -/
def atomicLane (k : Ctx) (f : LA) (wide : Bool) (e : PalEntry) (q : Req) (load part : Nat) (s : State) (L key : Nat)
    (spans : List Span) : State :=
  let b := k.src L (k.t.lane L) f.vd.toNat
  let c := k.src L (k.t.lane L) (f.vd.toNat + 1)
  if e.bank then
    let o := s.newOp .atomic k.tid k.f spans
    o.2.send true q.core (key / 64) (.req (.atomic f.aop wide (key % 64) b c q.acq o.1 load part)) q.after
  else
    let o := s.newOp .atomic k.tid k.f spans
    o.2.l1Atomic q (key / 64) e.defpol o.1 load part f.aop wide (key % 64) b c

/-- One part of an atomic: the first byte's key of its sector, and its lanes, each with its place in the list of lanes and its key. -/
abbrev AtomPart := Nat × List (Nat × Nat × Nat)

/-- The parts of an atomic: one a lane, and to another chip one a sector (R325). -/
def atomicParts (e : PalEntry) (keys : List (Nat × Nat)) : List AtomPart :=
  if e.space = Sp.pod then
    (groupLanes (keys.zipIdx.map (fun x => (x.2, x.1.2)))).map (fun g =>
      (g.1 * 64, g.2.map (fun y => (y.1, ((keys[y.1]?).getD (0, 0)).1, g.1 * 64 + y.2))))
  else keys.zipIdx.map (fun x => (x.1.2 / 64 * 64, [(x.2, x.1.1, x.1.2)]))

/-- The lanes of an atomic whose bytes lie in one sector of another chip travel as one request (R325). -/
def atomicPod (k : Ctx) (f : LA) (wide : Bool) (e : PalEntry) (q : Req) (load part : Nat) (s : State) (p : AtomPart)
    (spans : List Span) : State :=
  let sec := podSector e.target e.aux p.1
  let s := (s.setL1 q.core sec none).noInstall q.core sec
  let o := s.newOp .atomic k.tid k.f spans
  let sp := spanOf (atomicBytes wide) (p.2.map (fun y => (y.2.1, y.2.2 % 64)))
  o.2.remoteSend (k.sender q.after) e.target e.aux (p.1 + sp.1) sp.2
    (.atomic f.aop wide (p.2.map (fun y =>
      (y.2.2 % 64, k.src y.2.1 (k.t.lane y.2.1) f.vd.toNat, k.src y.2.1 (k.t.lane y.2.1) (f.vd.toNat + 1)))))
    q.acq o.1 load part (e.senderCount k.t.geom.launch (atomicBytes wide))

/-- One part of an atomic is performed, or leaves. -/
def atomicPart (k : Ctx) (f : LA) (wide : Bool) (e : PalEntry) (q : Req) (load part : Nat) (s : State) (p : AtomPart)
    (spans : List (List Span)) : State :=
  let sp := p.2.flatMap (fun y => (spans[y.1]?).getD [])
  if e.space = Sp.pod then atomicPod k f wide e q load part s p sp
  else p.2.foldl (fun s y => atomicLane k f wide e q load part s y.2.1 y.2.2 sp) s

/-- The atomic itself (R113, R115): lanes in ascending order. -/
def startAtomic (k : Ctx) (f : LA) (wide : Bool) (e : PalEntry) (ord : Order) (after : List Nat) (s : State)
    (keys : List (Nat × Nat)) (spans : List (List Span)) : State :=
  let o := s.newOp .load k.tid k.f spans.flatten
  let s := o.2
  let ps := (atomicParts e keys).zipIdx
  let parts := ps.map (fun x =>
    (x.2, some (⟨sectorOf e x.1.1, x.1.2.map (fun y => (y.2.1, y.2.2 % 64)), .waiting, false⟩ : Part)))
  let ld : Load := ⟨k.tid, none, k.t.geom.core, o.1, f.vd.toNat, atomicBytes wide, false, parts, 0, []⟩
  let s := { s with coh := { s.coh with loads := oset s.coh.loads o.1 (some ld) } }
  let s := s.modTeam k.tid (fun t => t.setVMark f.vd.toNat .empty)
  let s := ps.foldl (fun s x => atomicPart k f wide e (k.req ord.acq after) o.1 x.2 s x.1 spans) s
  if ord.acq then s.addHold k.tid k.f ⟨true, [o.1], [], decide (2 ≤ ord.scope)⟩ else s

/-- ATOM32 and ATOM64, plain or ordered. -/
def atomicEff (f : LA) (wide : Bool) (ord : Order) (k : Ctx) (s : State) : Res :=
  if s.held k.a false then .wait
  else
    let s := s.passHolds k.tid k.f false
    withHandle k s f.gh.toNat (fun l e =>
      match atomicCheck e (k.t.greg f.gh.toNat) f.aop with
      | some x => .trap x.1 x.2
      | none =>
        let offs := (lanesOf k.ex k.t.geom.lanes).map (fun L => (L, (k.src L (k.t.lane L) f.vo.toNat).toNat))
        if offs = [] then .done s
        else
          let keys := offs.map (fun x => (x.1, keyOf s l k.t.geom e x.1 x.2))
          let secs := (keys.map (fun x => sectorOf e x.2)).dedup
          let spans := offs.map (laneSpans s l k.t.geom e (atomicBytes wide))
          lanesThen k s l e offs (atomicBytes wide) .atomic
            (if mustFollow s k.tid spans.flatten then .wait
             else
               match releaseStep k s ord (nearAccess s k.t.geom.core secs) with
               | .wait => .wait
               | .stay s' => .stay s'
               | .go after s' => .done (startAtomic k f wide e ord after (narrowNotices k s' e ord secs after) keys spans)))

def atomicUse (f : LA) : Use :=
  { pg := some f.pg.toNat
    vr := [(f.vo.toNat, false), (f.vd.toNat, false)] ++ (if f.aop = .cas then [(f.vd.toNat + 1, false)] else [])
    vw := [f.vd.toNat]
    gr := [(f.gh.toNat, false)] }

/-- ATOM32 (R111 to R116). -/
def execAtom32 (f : LA) (s : State) : Out := issueUnit (.atom32 f) (atomicUse f) s (atomicEff f false .plain)

/-- ATOM64 (R111 to R116). -/
def execAtom64 (f : LA) (s : State) : Out := issueUnit (.atom64 f) (atomicUse f) s (atomicEff f true .plain)

/-! ### Ordered accesses -/

def accessUse : Access → Use
  | .ld f => loadUse f
  | .lds f => loadUse f
  | .st f => storeUse f
  | .atom32 f => atomicUse f
  | .atom64 f => atomicUse f

def accessEff (a : Access) (ord : Order) : Ctx → State → Res :=
  match a with
  | .ld f => loadEff f false ord
  | .lds f => loadEff f true ord
  | .st f => storeEff f ord
  | .atom32 f => atomicEff f false ord
  | .atom64 f => atomicEff f true ord

/-- ORD with the access it orders (R23, R117 to R119). -/
def execOrd (a : OrdKind) (b : Scope) (c : Access) (s : State) : Out :=
  issueUnit (.ord a b c) (accessUse c) s (accessEff c (Order.of a b))

end Sys2Proof.Machine
end

