-- ==== Sys2Proof/Machine/Sync.lean ====
section
/-! DEFINITION. Fences, barriers, cache operations, pauses, batches, narrowed handles and palette queries (R122 to R137,
R154). -/

namespace Sys2Proof.Machine

/-! ### Fences (R122 to R124) -/

/-- Commands of an arm that are not complete. -/
def State.liveCmds (s : State) (cs : List Nat) : List Nat := cs.filter s.cmdLive

/-- The loads and atomics among the operations whose values are still to come. -/
def State.liveLoads (s : State) (os : List Nat) : List Nat :=
  os.filter (fun o => match oget s.coh.ops o with | some x => x.kind = OpKind.load | none => false)

/-- The release part of a fence (R123). -/
def fenceRelease (k : Ctx) (s : State) (scope : Nat) (eng : Bool) : State :=
  let r := if 2 ≤ scope then s.wideRelease k.t.geom.core k.tid k.f else ([], s)
  r.2.addHold k.tid k.f ⟨false, r.1 ++ r.2.liveOps k.a.ops, if eng then r.2.liveCmds k.a.cmds else [], false⟩

/-- The acquire part of a fence (R123). -/
def fenceAcquire (k : Ctx) (s : State) (scope : Nat) (eng : Bool) : State :=
  s.addHold k.tid k.f ⟨true, s.liveLoads k.a.ops, if eng then s.liveCmds k.a.cmds else [], decide (2 ≤ scope) || eng⟩

/-- The first step of FENCE.SC (R124): the arm drains. -/
def fenceSc (k : Ctx) (s : State) (eng : Bool) : State :=
  let r := s.wideRelease k.t.geom.core k.tid k.f
  r.2.modArm k.tid k.f (fun a =>
    { a with wait := .scDrain (r.1 ++ r.2.liveOps k.a.ops) (if eng then r.2.liveCmds k.a.cmds else []) })

/-- What a fence orders (R123, R124). One that writes back waits until the arm's stores have the ownership they await, so that it
writes them back too (R118). -/
def fenceOrder (k : Ctx) (s : State) (scope : Nat) (c : FenceKind) (eng : Bool) : Res :=
  if c ≠ .acquire ∧ (2 ≤ scope ∨ c = .sc) ∧ s.awaitsOwn k.t.geom.core k.tid k.f then .wait
  else
  match c with
  | .release => .done (fenceRelease k s scope eng)
  | .acquire => .done (fenceAcquire k s scope eng)
  | .acqRel => .done (fenceAcquire k (fenceRelease k s scope eng) scope eng)
  | .sc => .stay (fenceSc k s eng)

/-- A fence with eng = 1 waits for the arm's commands; a failure recorded by then traps, and the trap consumes the record
(R257). -/
def fenceEff (scope : Nat) (c : FenceKind) (eng : Bool) (k : Ctx) (s : State) : Res :=
  if eng then
    if !(s.liveCmds k.a.cmds).isEmpty then .wait
    else
      match k.t.engcode with
      | some x =>
        .jump (takeTrap (s.setTeam k.tid { k.t with engcode := none }) k.tid k.f k.a.pc k.len x.1 (BitVec.ofNat 64 (fld x.2 0 57)))
      | none => fenceOrder k s scope c eng
  else fenceOrder k s scope c eng

/-- FENCE (R122 to R124, R257). -/
def execFence (a : BitVec 3) (b : Scope) (c : FenceKind) (d : Bool) (s : State) : Out :=
  issueUnit (.fence a b c d) { qg := a.toNat } s (fenceEff b.code c d)

/-- SC_FENCE_WAIT_END (R124, R330, R355): held until Stage D, and while the chip's time bound is lost. -/
def execScFenceWaitEnd (a : ArmId) (s : State) : Out :=
  match s.team? a.team with
  | none => .refused (.notEnabled "SC_FENCE_WAIT_END")
  | some t =>
    match t.arm? a.f with
    | none => .refused (.notEnabled "SC_FENCE_WAIT_END")
    | some x =>
      match x.wait with
      | .scWait h =>
        whenEnabled "SC_FENCE_WAIT_END" (decide (128 * h + 80 ≤ s.sched.gtc) && s.pod.locked && s.pod.bounded && decide (s.mgmt.stage = 4))
          ((s.setTeam a.team (t.setArm a.f (some x.wake))).dropLeases t.geom.core)
      | _ => .refused (.notEnabled "SC_FENCE_WAIT_END")

/-! ### Barriers (R125 to R128) -/

def State.barrier (s : State) (key : Nat) : Barrier := (oget s.eng.barriers key).getD Barrier.init

def State.setBarrier (s : State) (key : Nat) (b : Barrier) : State :=
  { s with eng := { s.eng with barriers := oset s.eng.barriers key (some b) } }

/-- Key of the barrier of BAR.GANG: on the gang's first core. -/
def gangBarKey (lid : Nat) (l : Launch) (core : Nat) : Nat := barKey lid (l.gangCore core 0) 0 63

/-- The arms that wait for a phase go on; after BAR.GANG their core's leases are dropped (R117, R127). -/
def State.releaseBarrier (s : State) (key phase : Nat) (gang : Bool) : State :=
  let hit := fun (a : Arm) => decide (a.wait = .barrier key phase)
  let any := fun (t : Team) => (t.armT.map hit).getD false || (t.armF.map hit).getD false
  let cores := ((slist s.alloc.teams).filter (fun kt => any kt.2)).map (fun kt => kt.2.geom.core)
  let go := fun (a : Arm) => if hit a then a.wake else a
  let s := { s with alloc := { s.alloc with teams := smap s.alloc.teams (fun _ t =>
    { t with armT := t.armT.map go, armF := t.armF.map go }) } }
  if gang then cores.dedup.foldl (fun s c => s.dropLeases c) s else s

/-- Complete a counting phase if its count has been reached (R126). `teams` are the teams not ended. -/
def State.settleBarrier (s : State) (key : Nat) (teams : List Nat) (gang : Bool) : State :=
  let b := s.barrier key
  let full :=
    if gang then teams.all (fun t => b.arrived.contains t)
    else
      match b.expected with
      | some n => decide (n ≤ b.arrived.length)
      | none => decide (teams.length ≤ b.arrived.length)
  if b.counting && full then
    (s.setBarrier key ⟨(b.phase + 1) % 2 ^ 32, false, [], none⟩).releaseBarrier key b.phase gang
  else s

/-- The teams of a block that have not ended. -/
def State.blockLive (s : State) (lid core block : Nat) : List Nat := (s.blockTeams lid core block).map (·.1)

/-- The teams of a gang that have not ended. -/
def State.gangLive (s : State) (lid : Nat) (l : Launch) (core : Nat) : List Nat :=
  ((s.teamsOf lid).filter (fun kt => l.gangCore kt.2.geom.core 0 = l.gangCore core 0)).map (·.1)

/-- TRAPINFO of BARRIER (R128). -/
def barInfo (b cause : Nat) : Word := BitVec.ofNat 64 (b + cause * 256)

/-- The lowest cause of R128 of an arrival. -/
def arriveCause (t : Team) (tid : Nat) (b : Barrier) (cnt : Option Word) : Option Nat :=
  if t.split then some 1
  else
    match cnt with
    | some x =>
      if x = 0 ∨ 16 < x.toNat then some 2
      else if b.counting ∧ b.expected ≠ some x.toNat then some 3
      else if b.counting ∧ b.arrived.contains tid then some 4 else none
    | none =>
      if b.counting ∧ b.expected ≠ none then some 3
      else if b.counting ∧ b.arrived.contains tid then some 4 else none

/-- An arrival that counts: the barrier's phase and the team's record of it. -/
def arrive (k : Ctx) (s : State) (key num : Nat) (cnt : Option Word) (teams : List Nat) (gang : Bool) : State :=
  let b := s.barrier key
  let s := s.setBarrier key ⟨b.phase, true, b.arrived ++ [k.tid], if b.counting then b.expected else cnt.map (·.toNat)⟩
  let s := s.modTeam k.tid (fun t => { t with barPhase := oset t.barPhase num (some b.phase) })
  s.settleBarrier key teams gang

/-- Wait until the phase of the team's arrival completes: the arm stays at its unit until then. -/
def waitPhase (k : Ctx) (s : State) (key phase : Nat) : Res :=
  if (s.barrier key).phase = phase then .stay (s.modArm k.tid k.f (fun a => { a with wait := .barrier key phase }))
  else .done s

/-- ARR or SYNC of a named barrier. -/
def arriveEff (f : UBar) (sync : Bool) (k : Ctx) (s : State) : Res :=
  let g := k.t.geom
  let key := barKey g.launch g.core g.block f.b.toNat
  let cnt := f.cnt.map (fun r => k.t.greg r.toNat)
  let phase := (s.barrier key).phase
  match arriveCause k.t k.tid (s.barrier key) cnt with
  | some c => .trap Code.barrier (barInfo f.b.toNat c)
  | none =>
    if !(s.liveOps k.a.ops).isEmpty then .wait
    else
      let s := arrive k s key f.b.toNat cnt (s.blockLive g.launch g.core g.block) false
      if sync then waitPhase k s key phase else .done s

def barUse (f : UBar) : Use :=
  { qg := f.qg.toNat, bars := [f.b.toNat], gr := (f.cnt.map (fun r => [(r.toNat, false)])).getD [] }

/-- BAR.ARR (R125 to R128). -/
def execBarArr (f : UBar) (s : State) : Out := issueUnit (.barArr f) (barUse f) s (arriveEff f false)

/-- BAR.SYNC (R125 to R128). -/
def execBarSync (f : UBar) (s : State) : Out := issueUnit (.barSync f) (barUse f) s (arriveEff f true)

/-- BAR.WAIT (R126). -/
def execBarWait (a : BitVec 3) (b : BitVec 5) (s : State) : Out :=
  issueUnit (.barWait a b) { qg := a.toNat, bars := [b.toNat] } s (fun k s =>
    let g := k.t.geom
    let key := barKey g.launch g.core g.block b.toNat
    if k.t.split then .trap Code.barrier (barInfo b.toNat 1)
    else
      match oget k.t.barPhase b.toNat with
      | some p => waitPhase k s key p
      | none => .done s)

/-- BAR.GANG (R126 to R128): a release and an acquire at gang scope. -/
def execBarGang (a : BitVec 3) (s : State) : Out :=
  issueUnit (.barGang a) { qg := a.toNat } s (fun k s =>
    match s.launch? k.t.geom.launch with
    | none => .wait
    | some l =>
      let g := k.t.geom
      let key := gangBarKey g.launch l g.core
      let phase := (s.barrier key).phase
      match arriveCause k.t k.tid (s.barrier key) none with
      | some c => .trap Code.barrier (barInfo 0 c)
      | none =>
        if s.wroteM g.core k.tid k.f then .stay (s.wideRelease g.core k.tid k.f).2
        else if !(s.liveOps k.a.ops).isEmpty then .wait
        else
          let s := arrive k (s.wideRelease g.core k.tid k.f).2 key 32 none (s.gangLive g.launch l g.core) true
          match waitPhase k s key phase with
          | .done s => .done (s.dropLeases g.core)
          | x => x)

/-! ### Cache operations (R129, R130) -/

inductive CacheOp | pub | invl | drop | pref
  deriving DecidableEq, Repr

/-- Fetch one sector that is not held, under the handle's default policy. -/
def prefetch (k : Ctx) (e : PalEntry) (s : State) (sec base : Nat) : State :=
  if e.defpol = 3 ∨ bitsOf e.polmask e.defpol 1 = 0 ∨ ((s.l1? k.t.geom.core sec).map (·.valid s.sched.gtc)).getD false ∨
      s.ownPending k.t.geom.core sec then s
  else
    let n := s.newId
    let ld : Load := ⟨noTeam, none, k.t.geom.core, noTeam, 0, 1, false, [(0, some ⟨sec, [], .waiting, true⟩)], 0, []⟩
    let s := { n.2 with coh := { n.2.coh with loads := oset n.2.coh.loads n.1 (some ld) } }
    if e.space = Sp.pod then
      if s.reachable e.target then
        s.remoteSend ⟨k.t.geom.core, none, []⟩ e.target e.aux base 1 (.siRead e.leaseTicks) false n.1 n.1 0 none
      else { s with coh := { s.coh with loads := oset s.coh.loads n.1 none } }
    else s.l1Load (k.req false []) sec e.defpol e.leaseTicks n.1 0

/-- The operations of the write-back that a CACHE causes: its own, and one for each other arm that wrote the bytes (R118, R130). -/
def cacheOps (k : Ctx) (s : State) (x : L1Sec) (span : List Span) : List Nat × State :=
  let o := s.newOp .cache k.tid k.f span
  let w := o.2.writeBackOps (x.writers.filter (· ≠ (k.tid, k.f)))
  (o.1 :: w.1, w.2)

/-- What a form does to one sector of the core's L1 (R130). -/
def cacheSector (k : Ctx) (op : CacheOp) (e : PalEntry) (ctx : Nat) (s : State) (sec base : Nat) : State :=
  let c := k.t.geom.core
  let span := ((Place.va base).span ctx 64).toList
  match op with
  | .pref => prefetch k e s sec base
  | _ =>
    match s.l1? c sec with
    | none => s
    | some x =>
      let gone := s.setL1 c sec none
      match op, x.st with
      | .pub, .m =>
        let o := cacheOps k s x span
        (o.2.setL1 c sec (some { x with st := .o, dirty := 0, writers := [] })).send true c sec
          (.publishWriteBack (dirtyCells sec x) o.1)
      | .pub, _ => s
      | .invl, .m =>
        let o := cacheOps k gone x span
        o.2.send true c sec (.evictionWriteBack (dirtyCells sec x) o.1)
      | _, .l => gone
      | _, .k => gone.sendDrop c sec
      | _, .o => gone.send true c sec .ownerDrop
      | _, .m => gone.send true c sec .ownerDrop

/-- The sectors a range of an entry touches: sector key and first offset in the space. A page whose translation would fault
is skipped. -/
def rangeSectors (s : State) (l : Launch) (c : Nat) (e : PalEntry) (off len : Nat) : List (Nat × Nat) :=
  if len = 0 ∨ e.bank then []
  else
    let lo := (e.base + off) / 64
    let hi := (e.base + off + len - 1) / 64
    (List.range (hi + 1 - lo)).filterMap (fun i =>
      let a := (lo + i) * 64
      if e.space = Sp.pod then some (podSector e.target e.aux a, a)
      else
        match xlNow s (coreUnit c) l.ctx a .read with
        | (.page .., pa) => some (pa / 64, a)
        | _ => none)

/-- The first pages of the 128 KiB pages of a range. -/
def rangePages (e : PalEntry) (off len : Nat) : List Nat :=
  if len = 0 ∨ e.bank ∨ e.space = Sp.pod then []
  else (List.range ((e.base + off + len - 1) / 2 ^ 17 + 1 - (e.base + off) / 2 ^ 17)).map (fun i => ((e.base + off) / 2 ^ 17 + i) * 2 ^ 17)

/-- Whether a page of a range cannot be translated yet. -/
def rangeBusy (s : State) (l : Launch) (c : Nat) (e : PalEntry) (off len : Nat) : Bool :=
  (rangePages e off len).any (fun a => (xlNow s (coreUnit c) l.ctx a .read).1 = .busy)

/-- The state after the walks of a range's pages. -/
def rangeWalked (s : State) (l : Launch) (c : Nat) (e : PalEntry) (off len : Nat) : State :=
  (rangePages e off len).foldl (fun s a => s.walked (coreUnit c) l.ctx a) s

/-- CACHE (R129, R130). -/
def cacheEff (f : UCache) (op : CacheOp) (k : Ctx) (s : State) : Res :=
  if s.held k.a false then .wait
  else
    let s := s.passHolds k.tid k.f false
    withHandle k s f.gh.toNat (fun l e =>
      let h := k.t.greg f.gh.toNat
      let go := k.t.greg f.go.toNat
      let gl := (k.t.greg f.gl.toNat).toNat
      if e.space = Sp.net ∨ e.space = Sp.gangcast ∨ e.space = Sp.mcast then .trap Code.handle h
      else if (op = .drop ∧ e.canWrite = false) ∨ e.canRead = false then .trap Code.handle h
      else if e.limit < go.toNat + gl then .trap Code.bounds go
      else if op = .drop ∧ (go.toNat % 64 ≠ 0 ∨ gl % 64 ≠ 0) then .trap Code.alignIssue go
      else if (op = .drop ∨ op = .invl) ∧ lockedRegion s k.t.geom.core (regionPieces l k.t.geom e go.toNat gl) then
        .trap Code.rangeLocked go
      else
        let c := k.t.geom.core
        if rangeBusy s l c e go.toNat gl then .wait
        else .done ((rangeSectors s l c e go.toNat gl).foldl (fun s x => cacheSector k op e l.ctx s x.1 x.2)
          (rangeWalked s l c e go.toNat gl)))

def cacheUse (f : UCache) : Use :=
  { qg := f.qg.toNat, gr := [(f.gh.toNat, false), (f.go.toNat, false), (f.gl.toNat, false)] }

/-- CACHE.PUB -/
def execCachePub (f : UCache) (s : State) : Out := issueUnit (.cachePub f) (cacheUse f) s (cacheEff f .pub)
/-- CACHE.INVL -/
def execCacheInvl (f : UCache) (s : State) : Out := issueUnit (.cacheInvl f) (cacheUse f) s (cacheEff f .invl)
/-- CACHE.DROP -/
def execCacheDrop (f : UCache) (s : State) : Out := issueUnit (.cacheDrop f) (cacheUse f) s (cacheEff f .drop)
/-- CACHE.PREF -/
def execCachePref (f : UCache) (s : State) : Out := issueUnit (.cachePref f) (cacheUse f) s (cacheEff f .pref)

/-! ### PAUSE (R90, R131) -/

def parkPause (k : Ctx) (s : State) (watch : Option Nat) : State :=
  s.modArm k.tid k.f (fun a => { a with wait := .paused s.sched.cycle watch })

/-- PAUSE without a watch. -/
def execPause (a : BitVec 3) (s : State) : Out :=
  issueUnit (.pause a) { qg := a.toNat } s (fun k s => .stay (parkPause k s none))

/-- PAUSE with a watch. -/
def execPauseWatch (a : BitVec 3) (b c : BitVec 6) (s : State) : Out :=
  issueUnit (.pauseWatch a b c) { qg := a.toNat, gr := [(b.toNat, false), (c.toNat, false)] } s (fun k s =>
    withHandle k s b.toNat (fun l e =>
      let go := k.t.greg c.toNat
      if e.canRead = false ∨ (e.space ≠ Sp.device ∧ e.space ≠ Sp.pod ∧ e.space ≠ Sp.gallery) then
        .trap Code.handle (k.t.greg b.toNat)
      else if e.limit < go.toNat + 1 then .trap Code.bounds go
      else
        match placeOf l k.t.geom e 0 go.toNat with
        | .bank key => .stay (parkPause k s (some (key / 64)))
        | .pod chip exp off =>
          let s := parkPause k s (some (podSector chip exp off))
          -- a registration that cannot leave is lost: the arm then wakes at its bound (R332)
          .stay (if s.pod.dead.contains chip then s
            else s.sendOut chip (podSector chip exp off) (.watch chip exp off (2 * k.tid + if k.f then 1 else 0)))
        | .va va =>
          (match xlateVas s (coreUnit k.t.geom.core) l.ctx .read [va] with
           | .fatal i => .trap Code.xlateFatal i
           | .miss ps => .park ps
           | .ok => .stay (parkPause k s (some (paOf s (coreUnit k.t.geom.core) l.ctx va / 64))))
        | .mcast .. => .wait
        | .none => .wait))

/-- PAUSE_TIMEOUT (R90): 64 cycles, 4,096 with a watch. -/
def execPauseTimeout (a : ArmId) (s : State) : Out :=
  match s.armOf a with
  | none => .refused (.notEnabled "PAUSE_TIMEOUT")
  | some (t, x) =>
    match x.wait with
    | .paused since watch =>
      whenEnabled "PAUSE_TIMEOUT" (decide (since + pauseLimit watch ≤ s.sched.cycle))
        (s.setTeam a.team (t.setArm a.f (some x.wake)))
    | _ => .refused (.notEnabled "PAUSE_TIMEOUT")

/-- WAKE (R131): the home of chip `a` says that the sector an arm watches was written; the message of a watch that has ended does
nothing, nor does one of a dead chip (R331). -/
def execWake (a : Nat) (b : ArmId) (s : State) : Out :=
  match s.armOf b with
  | none => .next s
  | some (t, x) =>
    match x.wait with
    | .paused _ (some sec) =>
      if 2 ^ 60 ≤ sec ∧ (sec - 2 ^ 60) / 2 ^ 68 = a ∧ s.pod.dead.contains a = false then .next (s.setTeam b.team (t.setArm b.f (some x.wake))) else .next s
    | _ => .next s

/-! ### Batches (R132 to R134, R329) -/

/-- BTAG (R132). -/
def execBtag (a : BitVec 3) (b : BitVec 2) (s : State) : Out :=
  issueUnit (.btag a b) { qg := a.toNat } s (fun k s => .done (s.modArm k.tid k.f (fun a => { a with tag := b })))

/-- BCLOSE (R133): later requests of the tag belong to its next batch. A second close of a tag waits for the first. -/
def execBclose (a : BitVec 3) (b : BitVec 6) (c : BitVec 2) (s : State) : Out :=
  issueUnit (.bclose a b c) { qg := a.toNat, gw := [b.toNat] } s (fun k s =>
    if k.t.closing c then .wait
    else
      let tag := k.t.openBatch c
      let ps := sget [] k.t.peers tag
      -- a peer to which nothing of the batch went, or to which no request can go now, is not asked (R332)
      let gone := fun (x : Nat × Nat × Bool) => x.2.1 = 0 || (x.1 ≠ s.self && !s.reachable x.1)
      let live := ps.filter (fun x => !gone x)
      let lost := (ps.filter (fun x => gone x || x.2.2)).map (·.1)
      let asks := live.map (fun x => (x.1, x.2.1, (s.pickPort x.1 0 []).getD 48))
      let cl : Close := ⟨b.toNat, live.map (·.1), ps.length, lost, false, false, false, !lost.isEmpty, asks⟩
      let s := s.modTeam k.tid (fun t => (t.nextBatch c).setGMark b.toNat .empty)
      let s := live.foldl (fun s x => s.sendOut x.1 0 (.closeRequest x.1 k.tid tag x.2.1)) s
      .done (s.settleClose k.tid tag cl))

/-! ### Narrowed handles and queries (R135 to R137, R154) -/

/-- The entry of a new slot (R154). -/
def PalEntry.narrow (e : PalEntry) (off len drop : Nat) : PalEntry :=
  let e1 := { e with base := e.base + off, limit := len, perm := bitsOf (e.perm &&& (7 - drop % 8)) 0 3 }
  if e.format ≠ 0 ∧ (e.eplane < off ∨ (e.scale ≠ 0 ∧ e.splane < off)) then
    { e1 with format := 0, scale := 0, clamp := 0, eplane := 0, splane := 0, recOk := true }
  else { e1 with eplane := e.eplane - off, splane := if e.scale = 0 then e.splane else e.splane - off }

/-- The lowest free dynamic slot. -/
def Team.freeSlot (t : Team) : Option Nat := (List.range 16).find? (fun i => (oget t.slots i).isNone)

/-- HNARROW (R135, R136). The freeing form uses no pair: it checks only that gB itself exists and waits for neither register
(DESIGN CHOICE, log 61). TRAPINFO of its BOUNDS, which R303 does not list, is the offset (DEDUCED, log 27). -/
def execHnarrow (f : UR) (perm : BitVec 4) (s : State) : Out :=
  issueUnit (.hnarrow f perm)
    (if perm.getLsbD 3 then { qg := f.qg.toNat, gr := [(f.ga.toNat, false)], gn := [f.gb.toNat], gw := [f.gd.toNat] }
     else
      { qg := f.qg.toNat, gr := [(f.ga.toNat, false), (f.gb.toNat, false), (f.gb.toNat + 1, false)], gw := [f.gd.toNat] }) s
    (fun k s =>
      let h := k.t.greg f.ga.toNat
      if perm.getLsbD 3 then
        if 256 ≤ h.toNat ∧ h.toNat < 272 ∧ (oget k.t.slots (h.toNat - 256)).isSome then
          .done (s.setTeam k.tid ({ k.t with slots := oset k.t.slots (h.toNat - 256) none }.setG f.gd.toNat 0x1FF))
        else .trap Code.handle h
      else
        let off := (k.t.greg f.gb.toNat)
        let len := (k.t.greg (f.gb.toNat + 1)).toNat
        match k.t.handle s h with
        | none => .trap Code.handle h
        | some e =>
          if len = 0 ∨ e.limit < off.toNat + len then .trap Code.bounds off
          else if off.toNat % 64 ≠ 0 then .trap Code.alignIssue off
          else
            match k.t.freeSlot with
            | none => .trap Code.handle h
            | some i =>
              .done (s.setTeam k.tid ({ k.t with slots := oset k.t.slots i (some (e.narrow off.toNat len perm.toNat)) }.setG
                f.gd.toNat (BitVec.ofNat 64 (256 + i)))))

/-- The value a query answers (R137). -/
def palValue (e : PalEntry) : PalQ → Nat
  | .limit => e.limit
  | .space => e.space
  | .policies => e.polmask
  | .default => e.defpol
  | .target => if e.space = Sp.pod ∨ e.space = Sp.mcast then e.target else 0
  | .perm => e.perm
  | .sealed => if e.isSealed then 1 else 0
  | .format => e.format

/-- PALQ (R137). -/
def execPalq (f : UU) (fn : PalQ) (s : State) : Out :=
  issueUnit (.palq f fn) { qg := f.qg.toNat, gr := [(f.ga.toNat, false)], gw := [f.gd.toNat] } s (fun k s =>
    match k.t.handle s (k.t.greg f.ga.toNat) with
    | none => .trap Code.handle (k.t.greg f.ga.toNat)
    | some e => writeG k s f.gd.toNat (BitVec.ofNat 64 (palValue e fn)))

end Sys2Proof.Machine
end

