-- ==== Sys2Proof/Machine/EngineBase.lean ====
section
/-! DEFINITION. What every engine command shares: tiles, ranges, queue slots, joining a block command, completion, failure
(R251 to R264, R278 to R284). -/

namespace Sys2Proof.Machine

/-! ### Tiles (R259, R278) -/

def State.tile? (s : State) (key : Nat) : Option Tile := oget s.eng.tiles key

def State.setTile (s : State) (key : Nat) (t : Option Tile) : State :=
  { s with eng := { s.eng with tiles := oset s.eng.tiles key t } }

/-- The key of tile t in the view of a unit's block. -/
def Ctx.tile (k : Ctx) (t : Nat) : Nat := tileKey k.t.geom.launch k.t.geom.core k.t.geom.block t

/-- D of a tile, signed. -/
def Tile.d (t : Tile) : Int := (t.expect - t.count).toInt

/-- The state TSTATE reports: 0 empty, 1 filling, 2 ready, 3 draining. -/
def tileCode (t : Option Tile) : Nat :=
  match t with
  | none => 0
  | some x => if x.drains ≠ [] then 3 else if 0 < x.d then 1 else 2

/-- TRAPINFO of TILE (R252). -/
def tileInfo (t cause : Nat) : Word := BitVec.ofNat 64 (t + cause * 256)

/-- A tile that a command names: empty traps cause 1, marked traps its code (R257). -/
def withTile (k : Ctx) (s : State) (t : Nat) (fn : Tile → Res) : Res :=
  match s.tile? (k.tile t) with
  | none => .trap Code.tile (tileInfo t 1)
  | some x => if x.fail ≠ 0 then .trap x.fail (BitVec.ofNat 64 t) else fn x

/-- Bits of an element of a tile. -/
def Tile.elBits (t : Tile) : Nat := fmtBits t.entry.format

/-- Bytes of a row's elements. -/
def Tile.rowBytes (t : Tile) : Nat := t.cols * t.elBits / 8

/-- Elements of a group or block (R222); 0 when there is no side plane. -/
def sideGroup (scale : Nat) : Nat := if scale = 1 then 32 else if scale = 2 then 16 else 0

/-- Side-row pitch P (R222). -/
def sidePitch (scale cols : Nat) : Nat := (cols / sideGroup scale * scale + 63) / 64 * 64

/-- Bytes of the element plane and of the side plane from their origins. -/
def Tile.elSpan (t : Tile) : Nat := (t.rows - 1) * t.stride + t.rowBytes
def Tile.sideSpan (t : Tile) : Nat :=
  if t.entry.scale = 0 then 0
  else (t.rows - 1) * sidePitch t.entry.scale t.cols + t.cols / sideGroup t.entry.scale * t.entry.scale

/-- Bytes L of a tile with contiguous rows (R272). -/
def Tile.bytes (t : Tile) : Nat := t.rows * t.rowBytes

/-! ### Commands and their queues (R283) -/

def CmdKind.matrix : CmdKind → Bool
  | .mma .. => true
  | .mepi .. => true
  | .mzero .. => true
  | _ => false

def CmdKind.coll? : CmdKind → Bool
  | .coll .. => true
  | _ => false

def CmdKind.easel? : CmdKind → Bool
  | .easel .. => true
  | _ => false

def CmdKind.streams (k : CmdKind) : Bool := !(k.matrix || k.coll? || k.easel?)

/-- The accumulator set of a matrix command. -/
def CmdKind.set? : CmdKind → Option Nat
  | .mma a .. => some a
  | .mepi a .. => some a
  | .mzero a _ _ => some a
  | _ => none

def State.cmd? (s : State) (c : Nat) : Option Cmd := oget s.eng.cmds c
def State.setCmd (s : State) (c : Nat) (x : Option Cmd) : State := { s with eng := { s.eng with cmds := oset s.eng.cmds c x } }
def State.modCmd (s : State) (c : Nat) (f : Cmd → Cmd) : State := s.setCmd c ((s.cmd? c).map f)

/-- An open block command at which a team of its block has not arrived (R284). -/
def openTo (c : Cmd) (g : TeamGeom) (tid : Nat) : Bool :=
  c.joining && c.launch = g.launch && c.core = g.core && c.block = g.block && !c.slices.any (fun x => x.team = tid)

/-- Range-lock entries of an arrived slice (R253). -/
def Slice.entries (kind : CmdKind) (x : Slice) : Nat :=
  match kind with
  | .cpy => if (x.dst.map (·.len)).getD 0 = 0 then 0 else 2
  | .fill => if (x.dst.map (·.len)).getD 0 = 0 then 0 else 1
  | _ => 1

/-- Range-lock entries a command keeps from others. -/
def claims (g : TeamGeom) (tid : Nat) (c : Cmd) : Nat :=
  if openTo c g tid then (c.slices.map (Slice.entries c.kind)).sum else c.reserved

/-- The commands whose ranges a core's table holds. -/
def tableCmds (s : State) (core : Nat) : List (Nat × Cmd) :=
  (slist s.eng.cmds).filter (fun x => x.2.core = core && s.awake x.2.launch)

/-- Whether a core's table has room for `need` entries of a team's command (R253); those that a block command still keeps for the team
do not count (R284). -/
def lockRoom (s : State) (g : TeamGeom) (tid need : Nat) : Bool :=
  decide (((tableCmds s g.core).map (fun x => claims g tid x.2)).sum + need ≤ 32)

/-- Whether a command of `need` entries has to take some that an open block command claims (R284). -/
def draws (s : State) (core need : Nat) : Bool := decide (32 < ((tableCmds s core).map (fun x => x.2.reserved)).sum + need)

/-- Whether commands stand in the same queue: matrix per core, streamer per cluster, collective per die (R283). -/
def sameQueue (kind : CmdKind) (core : Nat) (c : Cmd) : Bool :=
  if kind.matrix then c.kind.matrix && c.core = core
  else if kind.coll? then c.kind.coll? && coreDie c.core = coreDie core
  else c.kind.streams && coreCluster c.core = coreCluster core

def queueDepth (kind : CmdKind) : Nat := if kind.matrix then 32 else if kind.coll? then 256 else 64

/-- The slot a queue has for a team's command: one of its own (`some false`), or one beyond its depth for a team kept out only by the
open block command of its block (`some true`), of which there is one for each team (R283, R284). -/
def slotRoom (s : State) (g : TeamGeom) (tid : Nat) (kind : CmdKind) : Option Bool :=
  let q := (slist s.eng.cmds).filter (fun x => s.awake x.2.launch && sameQueue kind g.core x.2)
  let own := q.filter (fun x => !x.2.lent)
  if own.length < queueDepth kind then some false
  else if decide (own.length - (own.filter (fun x => openTo x.2 g tid)).length < queueDepth kind)
      && !q.any (fun x => x.2.lent && x.2.team = tid) then some true
  else none

/-- The bytes of a region of a command. -/
def Region.pieces (r : Region) (l : Launch) (g : TeamGeom) : List Span := regionPieces l g r.entry r.off r.len

/-- Register ranges for a command (R253). -/
def State.addLocks (s : State) (launch c core : Nat) (write : Bool) (ps : List Span) : State :=
  { s with eng := { s.eng with locks := s.eng.locks ++ ps.map (fun p => ⟨launch, c, core, p.cls, p.tag, p.lo, p.hi, write⟩) } }

def Cmd.init (kind : CmdKind) (k : Ctx) (sg : Nat) : Cmd where
  kind := kind
  launch := k.t.geom.launch
  team := k.tid
  core := k.t.geom.core
  block := k.t.geom.block
  sg := sg
  addr := k.a.pc
  lane := ((lanesOf k.a.active k.t.geom.lanes).head?).getD 0
  slices := []
  joining := false
  number := 0
  reserved := 0
  lent := false
  drew := false
  order := 0
  started := false
  startCycle := 0
  progress := 0
  sent := []
  refused := false
  got := 0
  writes := []
  wrote := false
  fail := none
  since := k.s0.sched.gtc
  badEl := false
  vmiss := false
  flags := 0
  tiles := []
  parked := none
  stopped := false

/-- Enter a command: its arm notes it, its STAT register becomes empty (R251). -/
def State.enterCmd (s : State) (k : Ctx) (c : Cmd) (stat : Stat) : Nat × State :=
  let n := s.newId
  let s := n.2.setCmd n.1 (some c)
  let s := s.modArm k.tid k.f (fun a => { a with
    cmds := n.1 :: s.liveCmds a.cmds
    mcmds := if c.kind.matrix then n.1 :: a.mcmds else a.mcmds })
  (n.1, match stat with | some r => s.modTeam k.tid (fun t => t.setGMark r.toNat .empty) | none => s)

/-- A slice of a unit's team. -/
def Ctx.slice (k : Ctx) (stat : Stat) (src dst : Option Region) (pattern : Word) : Slice :=
  ⟨k.tid, k.t.geom.index, k.f, stat.map (·.toNat), src, dst, pattern, 0, k.a.pc, []⟩

/-! ### Completion and failure (R256 to R258) -/

/-- The status word (R256). -/
def statusWord (gres : Nat) (fail : Option Fail) (vmiss wrote : Bool) : Word :=
  match fail with
  | some f => BitVec.ofNat 64 (gres * 2 ^ 32 + f.code * 2 ^ 24 + f.chip * 8 + (if f.part || wrote then 2 else 0) + 1)
  | none => BitVec.ofNat 64 (gres * 2 ^ 32 + (if vmiss then 5 else 0))

/-- The tiles a destination counts into (R152, R257), those that are mapped. -/
def destTiles (s : State) (l : Launch) (g : TeamGeom) (r : Option Region) : List Nat :=
  match r with
  | none => []
  | some r =>
    let e := r.entry
    if !e.cnt then []
    else
      let keys :=
        if e.space = Sp.gang then
          ((List.range (l.gangW * l.gangH)).filter (fun i => decide (e.base + r.off < (i + 1) * l.lr.scratch)
            && decide (i * l.lr.scratch < e.base + r.off + r.len))).map
            (fun i => tileKey g.launch (l.gangCore g.core i) e.cblock e.ctile)
        else if e.space = Sp.core then [tileKey g.launch g.core e.cblock e.ctile]
        else [tileKey g.launch e.ccore e.cblock e.ctile]
      keys.filter (fun key => (s.tile? key).isSome)

def State.markTile (s : State) (code key : Nat) : State :=
  s.setTile key ((s.tile? key).map (fun t => { t with fail := code }))

/-- A failure with neither status register nor counted tile is recorded with the team (R257). -/
def Team.recordFail (t : Team) (code : Nat) (addr : Word) : Team :=
  { t with engfail := true, engcode := some (t.engcode.getD (code, addr)) }

/-- The geometry of a command's team when the team is still there, else what the command itself knows. -/
def Cmd.geom (c : Cmd) : TeamGeom := ⟨c.launch, c.core, c.block, 0, 0, 0, 0, 0, 0, 0⟩

/-- What one slice of a completed command leaves with its team. -/
def settleSlice (c : Cmd) (gres : Nat) (extra : List Nat) (s : State) (x : Slice) : State :=
  match x.stat with
  | some r =>
    s.modTeam x.team (fun t => (t.setG r (statusWord gres c.fail c.vmiss c.wrote)).setGMark r .full)
  | none =>
    match c.fail, s.launch? c.launch with
    | some f, some l =>
      let ts := (destTiles s l c.geom x.dst ++ extra).filter (fun key => (s.tile? key).isSome)
      if ts = [] then s.modTeam x.team (fun t => t.recordFail f.code x.addr)
      else ts.foldl (fun s key => s.markTile f.code key) s
    | _, _ => s

/-- OR the flags of an engine conversion into a lane (R258). -/
def addFlags (s : State) (tid lane : Nat) (fl : BitVec 8) : State :=
  s.modTeam tid (fun t => { t with lanes := t.lanes.modify lane (fun x => { x with fpflags := x.fpflags ||| fl }) })

/-- Where a failure is kept of a command that is in no batch yet. -/
def unbatched (cid : Nat) : Nat := 2 ^ 32 + cid

/-- A failed matrix command marks its batch (R257), the one that MFENCE will close it into when it is in none yet. -/
def markBatch (s : State) (cid : Nat) (c : Cmd) : State :=
  match c.fail with
  | none => s
  | some f => s.modTeam c.team (fun t =>
      if (slist t.batches).any (fun b => b.2.cmds.contains cid) then
        { t with batches := smap t.batches (fun _ b => if b.cmds.contains cid then { b with fail := some f.code } else b) }
      else { t with batches := oset t.batches (unbatched cid) (some ⟨[], some f.code⟩) })

/-- The slices that report a command's end, with the region each writes. -/
def Cmd.reports (c : Cmd) : List Slice :=
  match c.kind with
  | .gath table _ _ _ _ _ scat => (c.slices.take 1).map (fun x => if scat then { x with dst := some table } else x)
  | .cpyv _ => c.slices.take 1
  | _ => if c.kind.matrix then [] else c.slices

/-- GATH and SCAT end with BOUNDS when an element has failed so and nothing else has stopped them; then PART says that some element
succeeded (R266): of GATH, one that was not filled with zeros, counted in `got`; of SCAT, one whose bytes have been written. -/
def Cmd.settled (c : Cmd) (self : Nat) : Cmd :=
  match c.kind with
  | .gath _ _ _ _ _ _ scat =>
    if c.badEl && c.fail.isNone then
      { c with wrote := if scat then c.wrote else decide (0 < c.got), fail := some ⟨Code.bounds, self, false, false⟩ }
    else c
  | _ => c

/-- Completion is a release at the scope of the destination; its observer's acquire at gang scope or wider drops the leases
of the core (R117, R178, R179). -/
def Cmd.wide (c : Cmd) : Bool :=
  c.kind.coll? || c.kind.easel? || c.reports.any (fun x => match x.dst with | some r => r.entry.space ≠ Sp.core | none => false)

/-- Complete a command: status, flags, marks; its ranges, tile drains and slot are given back (R178, R256 to R258). -/
def State.completeCmd (s : State) (cid gres : Nat) (extra : List Nat) : State :=
  match (s.cmd? cid).map (fun c => c.settled s.self) with
  | none => s
  | some c =>
    let s := c.reports.foldl (settleSlice c gres extra) s
    let s := if c.kind.matrix then markBatch s cid c else s
    let s := addFlags s c.team c.lane c.flags
    let s := (if c.wide then s.dropLeases c.core else s).dropReads (.cmd cid)
    { s with eng := { s.eng with
      cmds := oset s.eng.cmds cid none
      locks := s.eng.locks.filter (fun k => k.cmd ≠ cid)
      tiles := smap s.eng.tiles (fun _ t => { t with drains := t.drains.filter (· ≠ cid) }) } }

def Cmd.failWith (c : Cmd) (code chip : Nat) : Cmd :=
  { c with fail := some (c.fail.getD ⟨code, chip, c.wrote, false⟩), parked := none }

/-- A command on a failed group fails at issue (R302). -/
def Cmd.onGroup (c : Cmd) (s : State) (g : Nat) : Cmd :=
  match s.groupFailed g with
  | some ch => c.failWith 0x80 ch
  | none => c

/-- The group into which a slice copies, if any (R262, R302). -/
def Slice.group? (x : Slice) : Option Nat := x.dst.bind (fun r => if r.entry.space = Sp.mcast then some r.entry.target else none)

/-! ### Block-collective commands (R263, R284) -/

/-- Whether two commands may be slices of one block command. -/
def sameForm : CmdKind → CmdKind → Bool
  | .cpy, .cpy => true
  | .fill, .fill => true
  | .coll f _ g r _, .coll f' _ g' r' _ => f = f' && g.target = g'.target && r = r'
  | _, _ => false

/-- The block command that a team's next block-collective command joins, when an earlier team has opened it. -/
def State.blockCmd (s : State) (g : TeamGeom) (n : Nat) : Option (Nat × Cmd) :=
  (slist s.eng.cmds).find? (fun x => x.2.joining && x.2.launch = g.launch && x.2.core = g.core && x.2.block = g.block
    && x.2.number = n)

/-- A block command starts to be served when every team not ended has arrived (R263). -/
def State.settleJoin (s : State) (cid : Nat) : State :=
  match s.cmd? cid with
  | none => s
  | some c =>
    if c.joining && (s.blockLive c.launch c.core c.block).all (fun t => c.slices.any (fun x => x.team = t)) then
      let n := s.newId
      n.2.setCmd cid (some { c with joining := false, order := n.1, since := s.sched.gtc })
    else s

/-- Whether an arriving slice's own entries are free (R253, R284): no command that its team has issued past the block command's claims
still has entries of them, and those of the slices that have arrived and of every other command leave room. -/
def sliceRoom (s : State) (tid cid : Nat) (c : Cmd) (need : Nat) : Bool :=
  !(tableCmds s c.core).any (fun x => x.2.team = tid && x.2.drew) && decide (((tableCmds s c.core).map (fun x => if x.1 = cid then 0 else x.2.reserved)).sum
    + (c.slices.map (Slice.entries c.kind)).sum + need ≤ 32)

/-- Join or open block command n with this team's slice: `kind` is the command with the operation number it has if this team opens it,
`ranges` what the slice registers, `opened` what the first arrival does beside. -/
def joinBlock (k : Ctx) (s : State) (kind : CmdKind) (sg : Nat) (stat : Stat) (x : Slice)
    (ranges : List (Bool × List Span)) (tiles : List Nat) (opened : State → Nat → State) : Res :=
  let g := k.t.geom
  if k.t.split then .trap Code.barrier (barInfo 0 1)
  else
    let claim := fun (s : State) (cid : Nat) =>
      let s := ranges.foldl (fun s r => s.addLocks g.launch cid g.core r.1 r.2) s
      let s := match x.group? with | some gr => s.modCmd cid (fun c => c.onGroup s gr) | none => s
      let s := s.modTeam k.tid (fun t =>
        let t := { t with collSeq := t.collSeq + 1 }
        match stat with | some r => t.setGMark r.toNat .empty | none => t)
      s.settleJoin cid
    match s.blockCmd g k.t.collSeq with
    | some (cid, c) =>
      let stat0 := (c.slices.head?).bind (·.stat)
      if !sameForm c.kind kind || (kind.coll? && (c.tiles ≠ tiles || stat0 ≠ x.stat)) then .trap Code.barrier (barInfo 0 3)
      else if !sliceRoom s k.tid cid c (x.entries kind) then .wait
      else
        let c := { c with slices := c.slices ++ [x] }
        let s := s.setCmd cid (some { c with reserved := max c.reserved (c.slices.map (Slice.entries kind)).sum })
        let s := s.modArm k.tid k.f (fun a => { a with cmds := cid :: s.liveCmds a.cmds })
        .done (claim s cid)
    | none =>
      let need := x.entries kind * (((s.launch? g.launch).map (fun l => l.lr.teams)).getD 0 + 1)
      match slotRoom s g k.tid kind with
      | none => .wait
      | some lent =>
        if !lockRoom s g k.tid need then .wait
        else
          let c := { Cmd.init kind k sg with
            slices := [x], joining := true, number := k.t.collSeq, reserved := need, lent := lent
            drew := draws s g.core need, tiles := tiles }
          let r := s.enterCmd k c none
          .done (opened (claim r.2 r.1) r.1)

/-- Whether a unit's earlier accesses let a command with these ranges issue (R178): every store, atomic and CACHE operation of its arm
that overlaps one of them has completed, and every load that overlaps one it writes has its value. -/
def Ctx.quiet (k : Ctx) (s : State) (ranges : List (Bool × List Span)) : Bool :=
  !(k.a.ops.any (fun o => match oget s.coh.ops o with
    | none => false
    | some x => ranges.any (fun r => (r.1 || x.kind ≠ .load) && x.spans.any (fun q => r.2.any (fun p => p.overlaps q)))))

/-- Whether every load that a unit's arm issued earlier has its value: a command that writes elsewhere than in its ranges, into a group,
an export or a guest's buffers, waits for it, so that its writes do not reach such a load (R178). -/
def Ctx.loaded (k : Ctx) (s : State) : Bool :=
  !k.a.ops.any (fun o => match oget s.coh.ops o with | some x => decide (x.kind = .load) | none => false)

/-- Whether a command that a team issues alone writes elsewhere than in its ranges. -/
def CmdKind.writesAfar : CmdKind → Bool
  | .mepi _ _ _ _ _ send _ _ _ _ _ _ => send.isSome
  | .easel .. => true
  | _ => false

/-- Whether a range registered for command `a` stands in the table before one of command `b` with which it clashes: they overlap, and
one of the two is written. The table is in the order of issue, slice by slice. -/
def State.clashes (s : State) (a b core : Nat) : Bool :=
  let ks := (s.eng.locks.filter (fun k => k.core = core && s.awake k.launch)).zipIdx
  ks.any (fun x => x.1.cmd = a && ks.any (fun y => y.1.cmd = b && decide (x.2 < y.2) && (x.1.write || y.1.write)
    && x.1.span.overlaps y.1.span))

/-- R281: an earlier command of the core with an overlapping range that one of the two writes. Of a block command each slice is issued
at its team's arrival; where each of two commands has a range that precedes one of the other's, the one that arrived first goes
first (DESIGN CHOICE, log 125). -/
def State.blockedBy (s : State) (cid : Nat) (core : Nat) : Bool :=
  (s.eng.locks.map (·.cmd)).dedup.any (fun o => o ≠ cid && s.clashes o cid core && !(decide (cid < o) && s.clashes cid o core))

end Sys2Proof.Machine
end

