-- ==== Sys2Proof/Machine/Matrix.lean ====
section
/-! DEFINITION. The matrix engine's arithmetic: elements of a tile, sums in k-blocks, the Hadamard transform, quantisation
(R215 to R232, R267, R270). -/

namespace Sys2Proof.Machine

/-- Environment of engine arithmetic: RNE, nothing flushed. -/
def rneEnv : FEnv := ⟨.rne, false, false⟩

/-! ### Elements of a tile (R218 to R222) -/

/-- The narrow format of a format code. -/
def narrowOf (f : Nat) : Option NF :=
  match f with
  | 0x10 => some .e4m3 | 0x11 => some .e5m2 | 0x12 => some .e2m3 | 0x13 => some .e3m2 | 0x14 => some .e2m1
  | 0x15 => some .sm2 | 0x16 => some .sm4 | 0x17 => some .sm8 | 0x18 => some .e8m0
  | _ => none

/-- The IEEE format of a format code. -/
def ieeeOf (f : Nat) : Option Fmt :=
  match f with
  | 0x01 => some F64 | 0x02 => some F32 | 0x03 => some F16 | 0x04 => some BF16
  | _ => none

/-- Bytes of a region by offset. -/
abbrev TileBytes := Nat → Byte

/-- The code of element c of a row that starts at `row` (R221). -/
def codeAt (rd : TileBytes) (row w c : Nat) : Nat :=
  let b := row + c * w / 8
  if w ≤ 8 then
    let lo := (rd b).toNat
    let x := if c * w % 8 + w ≤ 8 then lo else lo + 256 * (rd (b + 1)).toNat
    bitsOf x (c * w % 8) w
  else leNat ((List.range (w / 8)).map (fun i => rd (b + i)))

/-- A value times 2^k. -/
def scaleV (v : FV) (k : Int) : FV :=
  match v with
  | .fin s m e => .fin s m (e + k)
  | x => x

/-- The value of element (r, c) of a tile, its scale and μ applied. -/
def tileVal (t : Tile) (rd : TileBytes) (r c : Nat) : FV :=
  let code := codeAt rd (t.eorg + r * t.stride) t.elBits c
  match ieeeOf t.entry.format with
  | some f => unpack f false code
  | none =>
    match narrowOf t.entry.format with
    | none => .fin false 0 0
    | some n =>
      let side := t.sorg + r * sidePitch t.entry.scale t.cols + c / sideGroup t.entry.scale * t.entry.scale
      if t.entry.scale = 0 then narrowVal n 0 code
      else
        let x := (rd side).toNat
        if x = 255 then .nan false
        else
          let mu := if t.entry.scale = 2 then bitsOf (rd (side + 1)).toNat (c % 16 / 2) 1 else 0
          scaleV (narrowVal n mu code) ((x : Int) - 127)

/-! ### Exact sums -/

/-- An exact sum of values as a value (R231, R232). -/
def exactV (vs : List FV) : FV :=
  if vs.any FV.isNan || (vs.any (fun x => x = .inf false) && vs.any (fun x => x = .inf true)) then .nan false
  else if vs.any (fun x => x = .inf false) then .inf false
  else if vs.any (fun x => x = .inf true) then .inf true
  else
    let ts := termsOf vs
    let e0 := minExp ts 0
    let x := sumInt ts e0
    .fin (if x = 0 then zeroSign .rne ts else decide (x < 0)) x.natAbs e0

/-- Parity of the bits that i and j share. -/
def parity : Nat → Nat → Nat → Bool
  | 0, _, _ => false
  | n + 1, i, j => xor (i.testBit n && j.testBit n) (parity n i j)

/-- The Hadamard transform of position c of a row of values, in runs of h (R232). -/
def hadV (h : Nat) (row : Nat → FV) (c : Nat) : FV :=
  exactV ((List.range h).map (fun j =>
    let v := row (c - c % h + j)
    if parity 6 (c % h) j then negV v else v))

/-- Points of a Hadamard field: MMA.H counts from 16, MEPI has 0 for none. -/
def mmaPoints (hn : Nat) : Nat := 16 * 2 ^ hn
def mepiPoints (hn : Nat) : Nat := if hn = 0 then 0 else 8 * 2 ^ hn

/-! ### MMA (R231, R267) -/

/-- k-block of the wider of two formats. -/
def kBlock (fa fb : Nat) : Nat :=
  let w := max (fmtBits fa) (fmtBits fb)
  if w = 64 then 4 else if w = 32 then 8 else if w = 16 then 16 else 32

def setFmt (f64 : Bool) : Fmt := if f64 then F64 else F32

/-- One k-block: the accumulator plus the exact sum of its products, rounded once. -/
def addBlock (f : Fmt) (a b : Nat → FV) (k0 kb acc : Nat) : Nat :=
  let ps := (List.range kb).map (fun i => mulV (a (k0 + i)) (b (k0 + i)))
  (sumV f rneEnv 0 (unpack f false acc :: ps) [] false).bits

/-- Blocks from k0 on, `n` of them. -/
def addBlocks (f : Fmt) (a b : Nat → FV) (kb : Nat) : Nat → Nat → Nat → Nat
  | 0, _, acc => acc
  | n + 1, k0, acc => addBlocks f a b kb n (k0 + kb) (addBlock f a b k0 kb acc)

/-- An element of an accumulator set; mode 0 is 256 × 128, mode 1 128 × 128. -/
def AccSet.at (x : AccSet) (m n : Nat) : Nat := (sget 0 x.el (m * 128 + n)).toNat
def AccSet.rows (x : AccSet) : Nat := if x.f64 then 128 else 256

/-- Set every element from its position and old bits. -/
def AccSet.mapEl (x : AccSet) (f : Nat → Nat → Nat → Nat) : AccSet :=
  { x with el := (List.range (x.rows * 128)).foldl (fun el i =>
    sset 0 el i (BitVec.ofNat 64 (f (i / 128) (i % 128) (x.at (i / 128) (i % 128))))) [] }

/-- MMA over k from `lo` to `hi`, both multiples of the k-block. -/
def mmaRange (x : AccSet) (had : Option Nat) (ta tb : Tile) (ra rb : TileBytes) (lo hi : Nat) : AccSet :=
  let kb := kBlock ta.entry.format tb.entry.format
  let op := fun (t : Tile) (rd : TileBytes) (r k : Nat) =>
    match had with
    | some h => hadV h (tileVal t rd r) k
    | none => tileVal t rd r k
  x.mapEl (fun m n old => addBlocks (setFmt x.f64) (op ta ra m) (op tb rb n) kb ((hi - lo) / kb) lo old)

/-! ### Quantisation (R217, R223 to R226, R228, R230) -/

/-- The clamp bound B of an entry: CLAMP as m × 2^e, else the format's largest value. -/
def clampBound (clamp : BitVec 32) (mx : Nat × Int) : Nat × Int :=
  if clamp = 0 then mx
  else
    match unpack F32 false clamp.toNat with
    | .fin _ m e => if m = 0 then mx else (m, e)
    | _ => mx

/-- Magnitude bits of m × 2^e in a format, rounded towards zero. -/
def magBits (f : Fmt) (m : Nat) (e : Int) : Nat :=
  if m = 0 then 0 else min f.maxFin ((roundVal f ⟨.rtz, false, false⟩ 0 false m 1 e).bits)

/-- A value into an IEEE format by an engine conversion (R224, R226): bits and flags. -/
def toIeee (f : Fmt) (clamp : BitVec 32) (rm : Rm) (X : Nat) (v : FV) : Nat × Nat :=
  match v with
  | .nan sn => (f.qnan, Fl.nf + (if sn then Fl.iv else 0))
  | .inf s => (f.sign s + f.inf, 0)
  | .fin s m e =>
    if m = 0 then (f.sign s, 0)
    else
      let l := flog2 m 1 + e
      let k0 := l - f.mb
      let k := if k0 < f.emin then f.emin else k0
      let q := roundAt rm X s m 1 e k
      let mag := (k - f.emin).toNat * 2 ^ f.mb + q.1
      let u := roundAt rm X s m 1 e k0
      let tiny := decide (k0 < f.emin) && !(decide (k0 = f.emin - 1) && decide (2 ^ (f.mb + 1) ≤ u.1))
      let b := if clamp = 0 then f.maxFin else
        (match unpack F32 false clamp.toNat with | .fin _ cm ce => magBits f cm ce | _ => f.maxFin)
      let fl := (if q.2 then Fl.nx + (if tiny then Fl.uf else 0) else 0)
      if b < mag then (f.sign s + b, fl ||| Fl.cl) else (f.sign s + mag, fl)

/-- A value into an E8M0 element (R217). What a magnitude is clamped to when the bound is below every code is open (log 69). -/
def toE8m0 (clamp : BitVec 32) (rm : Rm) (X : Nat) (v : FV) : Nat × Nat :=
  let b : Nat × Int := clampBound clamp (1, 127)
  let lb := flog2 b.1 1 + b.2
  let top := fun (m : Nat) (e : Int) =>
    if lb < -127 then (Config.e8m0Below clamp m e).toNat else min 254 (lb + 127).toNat
  match v with
  | .nan sn => (255, Fl.nf + (if sn then Fl.iv else 0))
  | .inf _ => (top 0 0, Fl.cl)
  | .fin _ m e =>
    if m = 0 then (0, Fl.nx)
    else
      let l := flog2 m 1 + e
      if l < -127 then (0, Fl.uf + Fl.nx)
      else
        let code := (l + 127).toNat
        -- the fraction above 2^l, in units of 2^l: r / D
        let D := 2 ^ (Nat.log2 m)
        let r := m - D
        let up := roundsUp rm X false (code % 2) r D
        let c := if up then code + 1 else code
        let fl := if r = 0 then 0 else Fl.nx
        if lb < -127 ∨ min 254 (lb + 127).toNat < c then (top m e, fl ||| Fl.cl) else (c, fl)

/-- Magnitude of a finite value, as a pair to compare. -/
def FV.mag? : FV → Option (Nat × Int)
  | .fin _ m e => some (m, e)
  | _ => none

/-- floor(log2 X) of the largest finite magnitude of a list, none when it is 0. -/
def maxLog (vs : List FV) : Option Int :=
  vs.foldl (fun best v =>
    match v.mag? with
    | some (m, e) =>
      if m = 0 then best
      else
        let l := flog2 m 1 + e
        (match best with | some b => some (if b < l then l else b) | none => some l)
    | none => best) none

/-- emax of R223. -/
def emaxOf (n : NF) : Int :=
  match n with
  | .e4m3 => 8
  | .e5m2 => 15
  | .e2m3 => 2
  | .e3m2 => 4
  | .e2m1 => 2
  | _ => 0

/-- The shared exponent of a block or group (R223). -/
def sharedExp (n : NF) (vs : List FV) : Nat :=
  match maxLog vs with
  | none => 0
  | some l => (max 0 (min 254 (l - emaxOf n + 127))).toNat

/-- Quantise a block or group: element codes, side bytes, flags. `X i` is the draw of element i. -/
def quantGroup (n : NF) (scale : Nat) (clamp : BitVec 32) (rm : Rm) (X : Nat → Nat) (vs : List FV) : List Nat × List Nat × Nat :=
  if vs.any FV.isNan then
    (vs.map (fun _ => 0), if scale = 2 then [255, 0] else [255],
      Fl.nf + (if vs.any FV.isSnan then Fl.iv else 0))
  else
    let E := sharedExp n vs
    let s : Int := 127 - (E : Int)
    let b := clampBound clamp (magVal n n.maxCode)
    let mu := fun i => if scale = 2 then pairMu n ((vs[i / 2 * 2]?).getD (.fin false 0 0)) ((vs[i / 2 * 2 + 1]?).getD (.fin false 0 0)) s
      else 0
    let rs := vs.zipIdx.map (fun x =>
      let r := fcvtnEl n rm (X x.2) (mu x.2) b s x.1
      -- an engine conversion sets NF only for a NaN (R224, R226)
      (r.1, if x.1.isInf then r.2.1 - Fl.nf else r.2.1))
    let micro := ((List.range 8).map (fun i => mu (2 * i) * 2 ^ i)).sum
    (rs.map (·.1), if scale = 2 then [E, micro] else [E], rs.foldl (fun a r => a ||| r.2) 0)

/-- One element with no block or group (R226): code and flags. `sg` is the sign of a NaN (log 70). -/
def quantOne (f : Nat) (clamp : BitVec 32) (rm : Rm) (X : Nat) (sg : Bool) (v : FV) : Nat × Nat :=
  match ieeeOf f with
  | some g => toIeee g clamp rm X v
  | none =>
    match narrowOf f with
    | none => (0, 0)
    | some .e8m0 => toE8m0 clamp rm X v
    | some n =>
      match v with
      | .nan sn =>
        let s := if sg then 2 ^ (n.width - 1) else 0
        if n = .e4m3 then (s + 0x7F, Fl.nf + (if sn then Fl.iv else 0))
        else if n = .e5m2 then (s + 0x7E, Fl.nf + (if sn then Fl.iv else 0))
        else (s, Fl.iv + Fl.nf)
      | .inf s =>
        if n = .e5m2 then ((if s then 0x80 else 0) + 0x7C, 0)
        else
          let b := clampBound clamp (magVal n n.maxCode)
          ((if s then 2 ^ (n.width - 1) else 0) + narrowInf n 0 b.1 b.2, Fl.cl)
      | .fin s m e =>
        let b := clampBound clamp (magVal n n.maxCode)
        let r := narrowRound n rm X 0 b.1 b.2 m e
        ((if s then 2 ^ (n.width - 1) else 0) + r.1, r.2)

/-- Groups of a row. -/
def chunks {α : Type} (g : Nat) : Nat → List α → List (List α)
  | 0, _ => []
  | n + 1, l => if l.isEmpty then [] else l.take g :: chunks g n (l.drop g)

/-- Quantise one row: codes, side bytes, flags. `sg i` is the sign of element i where it is a NaN. -/
def quantRow (t : PalEntry) (rm : Rm) (X : Nat → Nat) (sg : Nat → Bool) (vs : List FV) : List Nat × List Nat × Nat :=
  if t.scale = 0 then
    let rs := vs.zipIdx.map (fun x => quantOne t.format t.clamp rm (X x.2) (sg x.2) x.1)
    (rs.map (·.1), [], rs.foldl (fun a r => a ||| r.2) 0)
  else
    match narrowOf t.format with
    | none => ([], [], 0)
    | some n =>
      let g := sideGroup t.scale
      let rs := (chunks g vs.length vs).zipIdx.map (fun x => quantGroup n t.scale t.clamp rm (fun i => X (x.2 * g + i)) x.1)
      (rs.flatMap (·.1), rs.flatMap (·.2.1), rs.foldl (fun a r => a ||| r.2.2) 0)

/-- Codes of width w as a little-endian bit stream (R221). -/
def packCodes (w : Nat) (codes : List Nat) : List Byte :=
  leBytes (codes.length * w / 8) (codes.zipIdx.foldl (fun a x => a + x.1 * 2 ^ (x.2 * w)) 0)

/-- The draw of element (r, c) in RSR (R230). -/
def engineDraw (seed : Word) (hbase r c : Nat) : Nat :=
  let s := seed ^^^ (BitVec.ofNat 64 (hbase + 128 * r + c) * goldenSeed)
  (draw (if s = 0 then goldenSeed else s)).toNat

/-- The scale s of MEPI and its flags (R270). -/
def mepiScale (x : AccSet) (unsc : Bool) (gs : Word) : Nat × Nat :=
  let lo := gs.toNat % 2 ^ 32
  if unsc then
    let q := fDiv F32 rneEnv 0 lo x.tag.toNat
    (q.bits, q.fl ||| (if gs.toNat / 2 ^ 32 = x.tag.toNat then 0 else Fl.scl))
  else (lo, 0)

/-- y(m, n) of MEPI, exact, whether 0 × ∞ was met, and the sign y has where it is a NaN. -/
def mepiVal (x : AccSet) (h s m n : Nat) : FV × Bool × Bool :=
  let f := setFmt x.f64
  let c := if h = 0 then x.at m n else (sumV F32 rneEnv 0 [hadV h (fun j => unpack f false (x.at m j)) n] [] false).bits
  let a := unpack (if h = 0 then f else F32) false c
  let sv := unpack F32 false s
  (mulV a sv, mulInvalid a sv, Config.nanSign c s)

/-- The rows of the converted set: element bytes, side bytes, flags. `tr` takes the transpose. -/
def mepiRows (x : AccSet) (t : PalEntry) (tr : Bool) (h s : Nat) (rsr : Bool) (seed : Word) (hbase : Nat) :
    List (List Byte × List Byte × Nat) :=
  let rows := if tr then 128 else x.rows
  let cols := if tr then x.rows else 128
  (List.range rows).map (fun r =>
    let ys := (List.range cols).map (fun c => if tr then mepiVal x h s c r else mepiVal x h s r c)
    let q := quantRow t (if rsr then .rsr else .rne) (engineDraw seed hbase r)
      (fun c => ((ys[c]?).map (·.2.2)).getD false) (ys.map (·.1))
    (packCodes (fmtBits t.format) q.1, q.2.1.map (BitVec.ofNat 8), q.2.2 ||| (if ys.any (·.2.1) then Fl.iv else 0)))

end Sys2Proof.Machine
end

