-- ==== Sys2Proof/Machine/EngineIo.lean ====
section
/-! DEFINITION. How an engine reads and writes the bytes of a region (R165, R253, R257, R264, R287), and the streamer's
movement of bytes and elements (R245, R262 to R266, R281, R312). -/

namespace Sys2Proof.Machine

/-- Outcome of one engine access. -/
inductive Io
  | ok (data : List Byte) (s : State)
  /-- the page is not resident (R257) -/
  | park (page : Nat) (write : Bool)
  | fail (code chip : Nat)
  /-- nothing can be done now -/
  | wait (s : State)
  deriving DecidableEq

/-- Bytes a command has had from another chip or the network. -/
def bufBytes (b : Store (Option Byte)) (o n : Nat) : Option (List Byte) :=
  ((List.range n).map (fun i => oget b (o + i))).foldr (fun x acc => match x, acc with | some v, some l => some (v :: l) | _, _ => none)
    (some [])

/-- Ask another chip for bytes a command reads, once. -/
def askRemote (s : State) (cid sl : Nat) (c : Cmd) (e : PalEntry) (a n : Nat) : State :=
  if c.writes.any (fun o => match oget s.coh.ops o with | some x => x.kind = .cmdRead cid sl (a / 64 * 64) | none => false) then s
  else
    let o := s.freshOp (.cmdRead cid sl (a / 64 * 64)) 0 false
    let s := o.2.modCmd cid (fun c => { c with writes := o.1 :: c.writes })
    s.remoteSend ⟨c.core, none, []⟩ e.target e.aux a n .wtRead false o.1 noTeam 0 none

/-- Read n bytes at an offset of an entry, within one sector, for slice `sl` of command `cid`. -/
def engRead (s : State) (l : Launch) (cid sl : Nat) (c : Cmd) (e : PalEntry) (off n : Nat) : Io :=
  let buf := ((c.slices[sl]?).map (·.buf)).getD []
  if e.space = Sp.pod then
    match bufBytes buf (e.base + off) n with
    | some d => .ok d s
    | none => .wait (askRemote s cid sl c e (e.base + off) n)
  else if e.space = Sp.net then
    match bufBytes buf off n with
    | some d => .ok d s
    | none => .wait s
  else
    match placeOf l c.geom e 0 off with
    | .bank key => if s.poisoned (key / 64) then .fail Code.soft s.self else .ok (Memory.bytes s.mem key n) s
    | .va va =>
      let s := s.walked (clusterUnit c.core) l.ctx va
      (match xlNow s (clusterUnit c.core) l.ctx va .read with
       | (.page .., pa) =>
         (match s.agentReads (.cmd cid) none [pa / 64] with
          | (some ((d, bad, _) :: _), s') => if bad then .fail Code.soft s.self else .ok ((d.drop (pa % 64)).take n) s'
          | (_, s') => .wait s')
       | (.replay .., _) => .park (va / 2 ^ 17) false
       | (.fatal, _) => .fail Code.xlateFatal s.self
       | (.busy, _) => .wait s)
    | .pod .. => .wait s
    | .mcast .. => .wait s
    | .none => .wait s

/-- Note that a write of a command is under way. -/
def Cmd.writing (c : Cmd) (op : Nat) : Cmd := { c with writes := op :: c.writes }

/-- Whether a CPYV holds the bank of a sector (R265): no other write to it is performed. -/
def State.bankHeld (s : State) (sec : Nat) : Bool := (s.dirEnt sec).held

/-- Write bytes at an offset of an entry, within one sector. -/
def engWrite (s : State) (l : Launch) (cid : Nat) (c : Cmd) (e : PalEntry) (off : Nat) (data : List Byte) : Io :=
  if e.space = Sp.pod then
    let o := s.freshOp (.cmdWrite cid none) 0 false
    let s := o.2.modCmd cid (fun c => c.writing o.1)
    let a := e.base + off
    .ok [] (s.remoteSend ⟨c.core, none, []⟩ e.target e.aux a data.length (.write (cellsOf a data)) false o.1 noTeam 0
      (e.senderCount c.launch data.length))
  else if e.space = Sp.mcast then
    match (s.groupFailed e.target).orElse (fun _ => if s.groupValid e.target then none else some s.self) with
    | some ch => .fail 0x80 ch
    | none =>
      .ok [] (s.mcastSend ⟨c.core, none, []⟩ e.target e.aux (e.base + off) (cellsOf (e.base + off) data) e.rtype e.rop e.base
        (fun s =>
          let o := s.freshOp (.cmdWrite cid none) 0 false
          (o.1, o.2.modCmd cid (fun c => c.writing o.1))) none)
  else if e.space = Sp.net then
    let rexp := fld (s.bar0 (0x810000 + 64 * e.aux + 16)) 32 16
    .ok [] (s.emit (.uet e.aux rexp (e.base + off) data false))
  else
    match placeOf l c.geom e 0 off with
    | .bank key =>
      if s.bankHeld (key / 64) then .wait s
      else .ok [] ((s.bankWrite (cellsOf key data) true).modCmd cid (fun c => { c with wrote := true }))
    | .va va =>
      let s := s.walked (clusterUnit c.core) l.ctx va
      (match xlNow s (clusterUnit c.core) l.ctx va .write with
       | (.page .., pa) =>
         if s.homeAccepts (pa / 64) then
           let w := s.agentWrite (.cmdWrite cid (some (l.ctx, va / 64 * 64))) pa data
           -- a write that has not committed at once is waited for
           .ok [] (w.2.modCmd cid (fun c => if w.2.opLive w.1 then c.writing w.1 else { c with wrote := true }))
         else .wait s
       | (.replay .., _) => .park (va / 2 ^ 17) true
       | (.fatal, _) => .fail Code.xlateFatal s.self
       | (.busy, _) => .wait s)
    | .pod .. => .wait s
    | .mcast .. => .wait s
    | .none => .wait s

/-! ### Movement -/

/-- Result of one movement of the streamer: the bytes it took of the launch's credit; none when nothing moved. -/
abbrev Moved := Option Nat × State

/-- Park a command at a page: the driver hears of it on behalf of the team whose slice met the page (R257). -/
def parkCmd (s : State) (l : Launch) (cid : Nat) (c : Cmd) (page : Nat) (w : Bool) (team : Nat) : State :=
  (s.modCmd cid (fun c => { c with parked := some (page, w) })).reportFault l.ctx page (coreDie c.core) w team

/-- What an access for a team's slice that gave no data does to its command. -/
def ioStop (s : State) (l : Launch) (cid : Nat) (c : Cmd) (team : Nat) : Io → Moved
  | .ok _ s' => (none, s')
  | .park p w => (none, parkCmd s l cid c p w team)
  | .fail code chip => (none, s.modCmd cid (fun c => c.failWith code chip))
  | .wait s' => (none, s')

def modSlice (c : Cmd) (i : Nat) (f : Slice → Slice) : Cmd := { c with slices := c.slices.modify i f }

/-- The source bytes of a slice as they were when it started, when it overlaps its destination (R264). -/
def overlapsSelf (l : Launch) (c : Cmd) (x : Slice) : Bool :=
  match x.src, x.dst with
  | some a, some b => (a.pieces l c.geom).any (fun p => (b.pieces l c.geom).any (fun q => p.overlaps q))
  | _, _ => false

/-- Bytes of a slice's buffer, which is keyed by the address in the entry's space. -/
def Slice.has (x : Slice) (e : PalEntry) (off n : Nat) : Option (List Byte) := bufBytes x.buf (e.base + off) n

/-- Keep bytes that slice i has read. -/
def State.keepBytes (s : State) (cid i : Nat) (e : PalEntry) (off : Nat) (d : List Byte) : State :=
  s.modCmd cid (fun c => modSlice c i (fun x =>
    { x with buf := (cellsOf (e.base + off) d).foldl (fun m y => oset m y.1 (some y.2)) x.buf }))

/-- Read `n` bytes, within one sector, into slice i's buffer, unless they are there. -/
def bufferPiece (l : Launch) (cid i : Nat) (c : Cmd) (e : PalEntry) (s : State) (off n : Nat) : Io :=
  match (((s.cmd? cid).bind (fun c => c.slices[i]?)).bind (fun x => x.has e off n)) with
  | some d => .ok d s
  | none =>
    match engRead s l cid i ((s.cmd? cid).getD c) e off n with
    | .ok d s' => .ok d (s'.keepBytes cid i e off d)
    | x => x

/-- Read pieces into slice i's buffer: every one is asked for, even where an earlier one still waits. -/
def bufferAll (l : Launch) (cid i : Nat) (c : Cmd) (e : PalEntry) : List (Nat × Nat) → State → Io
  | [], s => .ok [] s
  | p :: r, s =>
    match bufferPiece l cid i c e s p.1 p.2 with
    | .ok _ s' => bufferAll l cid i c e r s'
    | .wait s' => (match bufferAll l cid i c e r s' with | .ok _ s'' => .wait s'' | x => x)
    | x => x

/-- The sectors of a region, as offsets and lengths. -/
def Region.sectors (r : Region) : List (Nat × Nat) := (List.range (r.len / 64)).map (fun i => (r.off + 64 * i, 64))

/-- One 64-byte move of slice i of a CPY or FILL. -/
def moveSector (s : State) (l : Launch) (cid : Nat) (c : Cmd) (i : Nat) (x : Slice) : Moved :=
  match x.dst with
  | none => (none, s)
  | some dst =>
    let put := fun (s : State) (data : List Byte) =>
      match engWrite s l cid c dst.entry (dst.off + x.done) data with
      | .ok _ s' => (some 64, s'.modCmd cid (fun c => { modSlice c i (fun x => { x with done := x.done + 64 }) with
          progress := c.progress + 64 }))
      | r => ioStop s l cid c x.team r
    match x.src with
    | none => put s (leBytes 8 x.pattern.toNat ++ leBytes 8 x.pattern.toNat ++ leBytes 8 x.pattern.toNat ++ leBytes 8 x.pattern.toNat
        ++ leBytes 8 x.pattern.toNat ++ leBytes 8 x.pattern.toNat ++ leBytes 8 x.pattern.toNat ++ leBytes 8 x.pattern.toNat)
    | some src =>
      if overlapsSelf l c x then
        -- nothing is written before the whole source has been read
        (match bufferAll l cid i c src.entry src.sectors s with
         | .ok _ s' =>
           (match (((s'.cmd? cid).bind (fun c => c.slices[i]?)).bind (fun x => x.has src.entry (src.off + x.done) 64)) with
            | some d => put s' d
            | none => (none, s'))
         | r => ioStop s l cid c x.team r)
      else
        match engRead s l cid i c src.entry (src.off + x.done) 64 with
        | .ok d s' => put s' d
        | r => ioStop s l cid c x.team r

/-- Whether a slice has bytes left. -/
def Slice.left (x : Slice) : Bool := match x.dst with | some d => decide (x.done < d.len) | none => false

/-- The slice that moves next: of those with bytes left, the one of the lowest-numbered team, so that a byte several slices
write ends with the highest-numbered team's value (R264). -/
def nextSlice (c : Cmd) : Option (Nat × Slice) :=
  c.slices.zipIdx.foldl (fun m x =>
    if x.1.left then
      match m with
      | none => some (x.2, x.1)
      | some y => if x.1.index < y.2.index then some (x.2, x.1) else some y
    else m) none

/-- One element of GATH or SCAT (R266). Slice 0 has the dense region, slice 1 the table's and slice 2 the index's bytes. -/
def moveElement (s : State) (l : Launch) (cid : Nat) (c : Cmd) (dense table idx : Region) (tbase : Nat) (iw64 : Bool)
    (e : Nat) (scat : Bool) : Moved :=
  let i := c.progress
  let iw := if iw64 then 8 else 4
  match engRead s l cid 2 c idx.entry (idx.off + i * iw) iw with
  | .ok d s =>
    let o := tbase + leNat d * e
    let bad := decide (table.entry.limit < o + e)
    let step := fun (s : State) => s.modCmd cid (fun c => { modSlice c 0 (fun x => { x with done := 0 }) with
      progress := i + 1, got := c.got + if bad then 0 else 1 })
    let badStep := fun (s : State) => s.modCmd cid (fun c => { c with badEl := true })
    -- an element of 128 bytes goes in two halves; one that has gone does not go again
    let gone := ((c.slices.head?).map (·.done)).getD 0
    let halves := if e = 128 then (if gone = 64 then [64] else [0, 64]) else [0]
    let n := if e = 128 then 64 else e
    let half := fun (s : State) => s.modCmd cid (fun c => modSlice c 0 (fun x => { x with done := 64 }))
    let rec2 := fun (rd : State → Nat → Io) (wr : State → Nat → List Byte → Io) =>
      halves.foldl (fun (acc : Bool × Moved) h =>
        if acc.1 then
          match rd acc.2.2 h with
          | .ok d s1 =>
            (match wr s1 h d with
             | .ok _ s2 => (true, (some e, half s2))
             | r => (false, ioStop acc.2.2 l cid c c.team r))
          | r => (false, ioStop acc.2.2 l cid c c.team r)
        else acc) (true, (some e, s))
    let r :=
      if scat then
        (if bad then (true, (some e, badStep s))
         else rec2 (fun s h => engRead s l cid 0 c dense.entry (dense.off + i * e + h) n)
           (fun s h d => engWrite s l cid c table.entry (o + h) d))
      else
        rec2 (fun s h => if bad then .ok (List.replicate n 0) (badStep s) else engRead s l cid 1 c table.entry (o + h) n)
          (fun s h d => engWrite s l cid c dense.entry (dense.off + i * e + h) d)
    if r.1 then (some e, step r.2.2) else (none, r.2.2)
  | r => ioStop s l cid c c.team r

/-! ### CPYV (R265) -/

/-- The sector of a version word where this chip holds it: at its home, or at its bank; none in POD space. -/
inductive VerSec
  | at_ (key : Nat) (s : State)
  | remote
  | stop (io : Io)

def versionSector (s : State) (l : Launch) (c : Cmd) (d : Region) : VerSec :=
  match placeOf l c.geom d.entry 0 d.off with
  | .va va =>
    let s := s.walked (clusterUnit c.core) l.ctx va
    (match xlNow s (clusterUnit c.core) l.ctx va .write with
     | (.page .., pa) => .at_ pa s
     | (.replay .., _) => .stop (.park (va / 2 ^ 17) true)
     | (.fatal, _) => .stop (.fail Code.xlateFatal s.self)
     | (.busy, _) => .stop (.wait s))
  | .bank key => .at_ key s
  | _ => .remote

/-- Ask for a version word's sector as the head of its queue, where the home accepts the request; at a bank the hold begins at once. -/
def takeVersion (s : State) (cid key : Nat) : Option State :=
  let sec := key / 64
  let note := fun (s : State) => s.modCmd cid (fun c => { c with progress := key })
  if bankSector sec then
    (if s.bankHeld sec then none else some (note (s.setDir sec { s.dirEnt sec with held := true })))
  else if s.homeAccepts sec then
    let o := s.freshOp (.cmdHold cid) 0 false
    some (note ((o.2.modCmd cid (fun c => { c with writes := o.1 :: c.writes })).takeHold sec o.1))
  else none

/-- Ask the home at another chip for the sector of a version word (log 62). -/
def takeRemote (s : State) (cid : Nat) (c : Cmd) (d : Region) : State :=
  let o := s.freshOp (.cmdHold cid) 0 false
  (o.2.modCmd cid (fun c => { c with writes := o.1 :: c.writes })).remoteSend ⟨c.core, none, []⟩ d.entry.target d.entry.aux
    (d.entry.base + d.off) 8 .hold false o.1 noTeam 0 none

/-- Let it go, with the bytes to write there first. -/
def releaseRemote (s : State) (cid : Nat) (c : Cmd) (d : Region) (w : List Byte) : State :=
  let o := s.freshOp (.cmdWrite cid none) 0 false
  let a := d.entry.base + d.off
  (o.2.modCmd cid (fun c => c.writing o.1)).remoteSend ⟨c.core, none, []⟩ d.entry.target d.entry.aux a 8 (.release (cellsOf a w)) false
    o.1 noTeam 0 (d.entry.senderCount c.launch w.length)

/-- The moves of a CPYV, by `got`: 0 reads the source into the streamer, 1 asks for the version word's sector (its key is kept in
`progress`), 2 compares, 3 writes the data, 4 the version word, 5 is over. The bytes are charged as they come into the streamer. -/
def moveVersion (s : State) (l : Launch) (cid : Nat) (c : Cmd) (version : Word) (x : Slice) (src dst : Region) : Moved :=
  let next := fun (s : State) (g : Nat) => s.modCmd cid (fun c => { modSlice c 0 (fun x => { x with done := 0 }) with got := g })
  let on := fun (s : State) => s.modCmd cid (fun c => modSlice c 0 (fun x => { x with done := x.done + 64 }))
  let pod := dst.entry.space = Sp.pod
  let free := fun (s : State) => if pod then releaseRemote s cid c dst [] else s.releaseHold (c.progress / 64)
  if c.got = 0 then
    if src.len ≤ x.done then (some 0, next s 1)
    else
      match bufferPiece l cid 0 c src.entry s (src.off + x.done) 64 with
      | .ok _ s' => (some 64, on s')
      | r => ioStop s l cid c c.team r
  else if c.got = 1 then
    match versionSector s l c dst with
    | .at_ key s => (match takeVersion s cid key with | some s' => (some 0, next s' 2) | none => (none, s))
    | .remote => (some 0, next (takeRemote s cid c dst) 2)
    | .stop r => ioStop s l cid c c.team r
  else if c.writes.any (fun o => match oget s.coh.ops o with | some y => y.kind = .cmdHold cid | none => false) then (none, s)
  else if c.got = 2 then
    match (if pod then engRead s l cid 1 c dst.entry dst.off 8
      else if s.poisoned (c.progress / 64) then Io.fail Code.soft s.self else Io.ok (Memory.bytes s.mem c.progress 8) s) with
    | .ok v s =>
      if leNat v = version.toNat then (some 0, next s 3)
      else (some 0, next (free (s.modCmd cid (fun c => { c with vmiss := true }))) 5)
    | r => ioStop s l cid c c.team r
  else if c.got = 3 then
    if src.len ≤ x.done then (some 0, next s 4)
    else
      match engWrite s l cid c dst.entry (dst.off + 64 + x.done) ((x.has src.entry (src.off + x.done) 64).getD []) with
      | .ok _ s' => (some 0, on s')
      | r => ioStop s l cid c c.team r
  else if c.got = 4 then
    let w := leBytes 8 (version + 1).toNat
    if c.writes ≠ [] then (none, s)
    else if pod then (some 0, next (releaseRemote s cid c dst w) 5)
    else
      let s := if bankSector (c.progress / 64) then s.bankWrite (cellsOf c.progress w) true
        else s.commit (c.progress / 64) (cellsOf c.progress w) true l.ctx
          ((List.range 8).map (fun i => dst.entry.base + dst.off + i))
      (some 0, next (free (s.modCmd cid (fun c => { c with wrote := true }))) 5)
  else (none, s)

/-- A CPYV that fails while it holds its version word's sector releases it. -/
def endVersion (s : State) (cid : Nat) (c : Cmd) : State :=
  match c.kind, (c.slices.head?).bind (·.dst) with
  | .cpyv _, some d =>
    if 2 ≤ c.got ∧ c.got < 5 then
      (if d.entry.space = Sp.pod then releaseRemote s cid c d [] else s.releaseHold (c.progress / 64))
    else s
  | _, _ => s

/-- Whether a streamer command has nothing left to move. -/
def doneMoving (c : Cmd) : Bool :=
  match c.kind with
  | .cpy => c.fail.isSome || (nextSlice c).isNone
  | .fill => c.fail.isSome || (nextSlice c).isNone
  | .cpyv _ => c.fail.isSome || c.got = 5
  | .gath _ _ _ _ _ n _ => c.fail.isSome || decide (n ≤ c.progress)
  | _ => true

/-- Bytes between the points at which a copy may stop (R28). -/
def copyGranule (sg : Nat) : Option Nat := if sg = 0 then some 65536 else if sg = 1 then some 1048576 else if sg = 2 then some 16777216
  else none

/-- Whether a command of a launch being stopped stops here (R306, R312). -/
def stopsHere (l : Launch) (c : Cmd) : Bool :=
  match l.since? with
  | some _ =>
    !c.started || (match c.kind with
      | .cpyv _ => decide (c.got < 2)
      | .gath _ _ _ _ e _ _ => (match copyGranule c.sg with | some g => (c.progress * e) % g = 0 | none => false)
      | _ => (match copyGranule c.sg with | some g => c.progress % g = 0 | none => false))
  | none => false

/-- One movement of a started command. -/
def moveOne (s : State) (l : Launch) (cid : Nat) (c : Cmd) : Moved :=
  match c.kind with
  | .cpyv v =>
    (match c.slices with
     | x :: _ => (match x.src, x.dst with | some a, some b => moveVersion s l cid c v x a b | _, _ => (none, s))
     | [] => (none, s))
  | .gath table idx tbase iw64 e _ scat =>
    (match (c.slices.head?).bind (·.dst) with
     | some dense => moveElement s l cid c dense table idx tbase iw64 e scat
     | none => (none, s))
  | _ =>
    match nextSlice c with
    | some (i, x) => moveSector s l cid c i x
    | none => (none, s)

end Sys2Proof.Machine
end

