-- ==== Sys2Proof/Machine/EngineCmd.lean ====
section
/-! DEFINITION. The issue of every engine command but EASEL: tiles, copies, matrix commands, collectives, walkers (R248 to R274,
R278). -/

namespace Sys2Proof.Machine

/-! ### Operand checks (R251) -/

/-- The first check of a list that fails: its trap code and TRAPINFO. -/
def firstTrap (cs : List (Bool × Nat × Word)) : Option (Nat × Word) := (cs.find? (·.1)).map (·.2)

/-- Checks in order, then the rest of the issue. -/
def checked (cs : List (Bool × Nat × Word)) (go : Res) : Res :=
  match firstTrap cs with
  | some x => .trap x.1 x.2
  | none => go

/-- The unit's view of its team and arm in a later state. -/
def Ctx.at_ (k : Ctx) (s : State) : Ctx :=
  let t := (s.team? k.tid).getD k.t
  { k with t := t, a := (t.arm? k.f).getD k.a }

/-- A command waits for what the arm's acquires and fences hold back (R117, R123). -/
def unheld (k : Ctx) (s : State) (go : Ctx → State → Res) : Res :=
  if s.held k.a false then .wait
  else
    let s := s.passHolds k.tid k.f false
    go (k.at_ s) s

/-- The spaces an operand of a command may name. -/
def spaceIn (sps : List Nat) (e : PalEntry) : Bool := sps.contains e.space

/-- The spaces of tiles and of GATH and SCAT tables, and those of their index and dense ranges. -/
def tileSpaces : List Nat := [Sp.core, Sp.gang, Sp.gallery, Sp.device, Sp.pod]
def localSpaces : List Nat := [Sp.core, Sp.gang, Sp.gallery, Sp.device]

/-- A NET handle needs a valid endpoint (R333), an MCAST handle a valid group (R291). -/
def reachOk (s : State) (e : PalEntry) : Bool :=
  (e.space ≠ Sp.net || (decide (e.aux < 4096) && (s.bar0 (0x810000 + 64 * e.aux)).getLsbD 63))
    && (e.space ≠ Sp.mcast || s.groupValid e.target)

/-- Whether register g's handle is refused: invalid, or `p` does not hold of its entry. -/
def Ctx.refuses (k : Ctx) (s : State) (g : Nat) (p : PalEntry → Bool) : Bool :=
  match k.t.handle s (k.t.greg g) with
  | none => true
  | some e => !p e

/-- The entry of a handle register that has passed its check. -/
def Ctx.entry (k : Ctx) (s : State) (g : Nat) : PalEntry := (k.t.handle s (k.t.greg g)).getD PalEntry.invalid

/-- The region of a pair: handle at g, offset at g + 1. -/
def Ctx.region (k : Ctx) (s : State) (g len : Nat) : Region := ⟨k.entry s g, (k.t.greg (g + 1)).toNat, len⟩

def Region.past (r : Region) : Bool := decide (r.entry.limit < r.off + r.len)

def misaligned (x : Word) (n : Nat) : Bool := x.toNat % n ≠ 0

/-- Registers of a pair, read. -/
def pair (g : BitVec 6) : List (Nat × Bool) := [(g.toNat, false), (g.toNat + 1, false)]

def statUse (st : Stat) : List Nat :=
  match st with
  | some r => [r.toNat]
  | none => []

/-- Ranges of a region, under the issuing team's launch. -/
def Ctx.pieces (k : Ctx) (s : State) (r : Region) : List Span :=
  match s.launch? k.t.geom.launch with
  | some l => r.pieces l k.t.geom
  | none => []

/-- A command that one team issues alone: room in the table and the queue, then it enters and registers its ranges. -/
def issueAlone (k : Ctx) (s : State) (c : Cmd) (stat : Stat) (need : Nat) (ranges : List (Bool × List Span)) : Res :=
  match slotRoom s k.t.geom k.tid c.kind with
  | none => .wait
  | some lent =>
    if !k.quiet s ranges || (c.kind.writesAfar && !k.loaded s) || !lockRoom s k.t.geom k.tid need then .wait
    else
    let r := s.enterCmd k { c with reserved := need, lent := lent, drew := draws s k.t.geom.core need } stat
    .done (ranges.foldl (fun s x => s.addLocks k.t.geom.launch r.1 k.t.geom.core x.1 x.2) r.2)

/-! ### Tiles (R259 to R261, R278) -/

/-- Entries of a core's tile table that launches on the core hold (R259, R310). -/
def coreTiles (s : State) (core : Nat) : List Nat :=
  ((slist s.eng.tiles).filter (fun x => x.1 / 256 % 256 = core &&
    (match s.launch? (x.1 / 65536) with | some l => l.status ≠ .suspended | none => false))).map (·.2.slot)

/-- The lowest free entry of a core's tile table. -/
def freeEntry (s : State) (core : Nat) : Option Nat := (List.range 64).find? (fun i => !(coreTiles s core).contains i)

/-- The tile SHAPE makes of an entry and its two origins. -/
def shapeTile (f : CShape) (e : PalEntry) (go gs : Word) : Tile :=
  let cols := f.colsM1.toNat + 1
  let row := cols * fmtBits e.format / 8
  { entry := e, eorg := e.eplane + go.toNat, sorg := e.splane + gs.toNat, rows := f.rowsM1.toNat + 1, cols := cols
    stride := if f.stride = 0 then row else f.stride.toNat * 64, expect := 0, count := 0, fail := 0, drains := [], slot := 0 }

/-- SHAPE (R260). -/
def shapeEff (f : CShape) (k : Ctx) (s : State) : Res :=
  unheld k s (fun k s =>
  let h := k.t.greg f.gh.toNat
  if k.refuses s f.gh.toNat (fun e => e.recOk && e.format ≠ 0 && spaceIn tileSpaces e) then .trap Code.handle h
  else
    let e := k.entry s f.gh.toNat
    let side := e.scale ≠ 0
    if side ∧ k.t.geom.gregs ≤ f.go.toNat + 1 then .trap Code.illreg (unitWords (.shape f))
    else if side ∧ k.t.gMark (f.go.toNat + 1) = .empty then .wait
    else
      let go := k.t.greg f.go.toNat
      let gs := if side then k.t.greg (f.go.toNat + 1) else 0
      let x := shapeTile f e go gs
      let bits := x.cols * x.elBits
      let row : Word := BitVec.ofNat 64 (fld (BitVec.ofNat 64 x.rowBytes) 0 32)
      checked
        [((s.tile? (k.tile f.t.toNat)).isSome, Code.tile, tileInfo f.t.toNat 2),
         (decide ((freeEntry s k.t.geom.core).isNone), Code.tile, tileInfo f.t.toNat 5),
         (decide (bits % 512 ≠ 0 ∨ x.stride < x.rowBytes), Code.alignShape, row),
         (decide (side ∧ x.cols % sideGroup e.scale ≠ 0), Code.alignShape, row),
         (misaligned go 64, Code.alignIssue, go),
         (decide side && misaligned gs 64, Code.alignIssue, gs),
         (decide (e.limit < x.eorg + x.elSpan), Code.bounds, go),
         (decide (side ∧ e.limit < x.sorg + x.sideSpan), Code.bounds, gs)]
        (.done (s.setTile (k.tile f.t.toNat) (some { x with slot := (freeEntry s k.t.geom.core).getD 0 }))))

/-- SHAPE -/
def execShape (f : CShape) (s : State) : Out :=
  issueUnit (.shape f) { qg := f.qg.toNat, gr := [(f.gh.toNat, false), (f.go.toNat, false)] } s (shapeEff f) true

/-- TEXPECT (R261) -/
def execTexpect (f : CTile) (s : State) : Out :=
  issueUnit (.texpect f) { qg := f.qg.toNat, gr := [(f.g.toNat, false)] } s (fun k s =>
    unheld k s (fun k s => withTile k s f.t.toNat (fun x =>
      let n := k.t.greg f.g.toNat
      if 2 ^ 32 ≤ n.toNat then .trap Code.tile (tileInfo f.t.toNat 7)
      else .done (s.setTile (k.tile f.t.toNat) (some { x with expect := x.expect + n.setWidth 32 }))))) true

/-- Whether a queued or running command names a tile. -/
def namedTile (s : State) (key : Nat) : Bool := (slist s.eng.cmds).any (fun c => c.2.tiles.contains key)

/-- TFREE (R261, R278) -/
def execTfree (f : CTFree) (s : State) : Out :=
  issueUnit (.tfree f) { qg := f.qg.toNat } s (fun k s => unheld k s (fun k s =>
    let key := k.tile f.t.toNat
    match s.tile? key with
    | none => .trap Code.tile (tileInfo f.t.toNat 1)
    | some x =>
      if tileCode (some x) = 1 then .trap Code.tile (tileInfo f.t.toNat 6)
      else if namedTile s key then .wait
      else .done (s.setTile key none))) true

/-- What TSTATE reports (R261). -/
def tstateWord (t : Option Tile) : Word :=
  match t with
  | none => 0
  | some x => BitVec.ofNat 64 (tileCode t + x.fail * 256 + x.d.toNat * 2 ^ 32)

/-- TSTATE (R261): a report of ready observes completion (R179). -/
def execTstate (f : CTile) (s : State) : Out :=
  issueUnit (.tstate f) { qg := f.qg.toNat, gw := [f.g.toNat] } s (fun k s =>
    unheld k s (fun k s =>
    let t := s.tile? (k.tile f.t.toNat)
    writeG k (if tileCode t = 2 then s.dropLeases k.t.geom.core else s) f.g.toNat (tstateWord t))) true

/-! ### Copies (R262 to R266) -/

/-- Spaces of a copy's two sides (R262). -/
def copyFrom (s : State) (e : PalEntry) : Bool :=
  spaceIn [Sp.core, Sp.gang, Sp.gallery, Sp.device, Sp.pod, Sp.host, Sp.net] e && e.canRead && reachOk s e
def copyTo (s : State) (e : PalEntry) : Bool :=
  spaceIn [Sp.core, Sp.gang, Sp.gallery, Sp.device, Sp.pod, Sp.mcast, Sp.host, Sp.net] e && e.canWrite && reachOk s e

/-- CPY (R262, R263) -/
def cpyEff (f : CCpy) (k : Ctx) (s : State) : Res :=
  unheld k s (fun k s =>
    let n := f.len64.toNat * 64
    let a := k.region s f.gs.toNat n
    let b := k.region s f.gd.toNat n
    let ho := k.t.greg (f.gs.toNat + 1)
    let hd := k.t.greg (f.gd.toNat + 1)
    checked
      [(k.refuses s f.gs.toNat (copyFrom s), Code.handle, k.t.greg f.gs.toNat),
       (k.refuses s f.gd.toNat (copyTo s), Code.handle, k.t.greg f.gd.toNat),
       (decide (a.entry.space = Sp.net ∧ b.entry.space = Sp.net), Code.handle, k.t.greg f.gd.toNat),
       (misaligned ho 64, Code.alignIssue, ho),
       (misaligned hd 64, Code.alignIssue, hd),
       (a.past, Code.bounds, ho),
       (b.past, Code.bounds, hd)]
      (let ranges := [(false, k.pieces s a), (true, k.pieces s b)]
       if k.quiet s ranges && (b.entry.space ≠ Sp.mcast || k.loaded s) then
        joinBlock k s .cpy f.sg.toNat f.stat (k.slice f.stat (some a) (some b) 0) ranges [] (fun s _ => s)
       else .wait))

/-- CPY -/
def execCpy (f : CCpy) (s : State) : Out :=
  issueUnit (.cpy f) { qg := f.qg.toNat, gr := pair f.gs ++ pair f.gd, gw := statUse f.stat } s (cpyEff f) true

/-- FILL (R262, R263) -/
def fillEff (f : CCpy) (k : Ctx) (s : State) : Res :=
  unheld k s (fun k s =>
    let b := k.region s f.gd.toNat (f.len64.toNat * 64)
    let hd := k.t.greg (f.gd.toNat + 1)
    checked
      [(k.refuses s f.gd.toNat (copyTo s), Code.handle, k.t.greg f.gd.toNat),
       (misaligned hd 64, Code.alignIssue, hd),
       (b.past, Code.bounds, hd)]
      (if k.quiet s [(true, k.pieces s b)] && (b.entry.space ≠ Sp.mcast || k.loaded s) then
        joinBlock k s .fill f.sg.toNat f.stat (k.slice f.stat none (some b) (k.t.greg f.gs.toNat)) [(true, k.pieces s b)] []
          (fun s _ => s)
       else .wait))

/-- FILL -/
def execFill (f : CCpy) (s : State) : Out :=
  issueUnit (.fill f) { qg := f.qg.toNat, gr := (f.gs.toNat, false) :: pair f.gd, gw := statUse f.stat } s (fillEff f) true

/-- CPYV (R265): the source as CPY's, the destination in the spaces that have a version word's home. -/
def cpyvEff (f : CCpyv) (k : Ctx) (s : State) : Res :=
  unheld k s (fun k s =>
    let n := f.len64.toNat * 64
    let a := k.region s f.gs.toNat n
    let b := k.region s f.gd.toNat (n + 64)
    let ho := k.t.greg (f.gs.toNat + 1)
    let hd := k.t.greg (f.gd.toNat + 1)
    checked
      [(k.refuses s f.gs.toNat (copyFrom s), Code.handle, k.t.greg f.gs.toNat),
       (k.refuses s f.gd.toNat (fun e => spaceIn tileSpaces e && e.canWrite), Code.handle, k.t.greg f.gd.toNat),
       (misaligned ho 64, Code.alignIssue, ho),
       (misaligned hd 64, Code.alignIssue, hd),
       (a.past, Code.bounds, ho),
       (b.past, Code.bounds, hd)]
      (issueAlone k s
        { Cmd.init (.cpyv (k.t.greg f.gv.toNat)) k 0 with slices := [k.slice f.stat (some a) (some b) 0, k.slice none none none 0] } f.stat 2
        [(false, k.pieces s a), (true, k.pieces s b)]))

/-- CPYV -/
def execCpyv (f : CCpyv) (s : State) : Out :=
  issueUnit (.cpyv f) { qg := f.qg.toNat, gr := (f.gv.toNat, false) :: (pair f.gs ++ pair f.gd), gw := statUse f.stat } s
    (cpyvEff f) true

/-- GATH and SCAT (R266). -/
def gathEff (f : CGath) (scat : Bool) (k : Ctx) (s : State) : Res :=
  unheld k s (fun k s =>
    let e := 2 ^ f.lesz.toNat
    let n := f.nM1.toNat + 1
    let iw := if f.iw64 then 8 else 4
    let ot := k.t.greg (f.gt.toNat + 1)
    let oi := k.t.greg (f.gi.toNat + 1)
    let ox := k.t.greg (f.gx.toNat + 1)
    let te := k.entry s f.gt.toNat
    let table : Region := ⟨te, ot.toNat, te.limit - ot.toNat⟩
    let idx := k.region s f.gi.toNat (n * iw)
    let dense := k.region s f.gx.toNat (n * e)
    checked
      [(k.refuses s f.gt.toNat (fun x => spaceIn tileSpaces x && (if scat then x.canWrite else x.canRead)), Code.handle,
          k.t.greg f.gt.toNat),
       (k.refuses s f.gi.toNat (fun x => spaceIn localSpaces x && x.canRead), Code.handle, k.t.greg f.gi.toNat),
       (k.refuses s f.gx.toNat (fun x => spaceIn localSpaces x && (if scat then x.canRead else x.canWrite)), Code.handle,
          k.t.greg f.gx.toNat),
       (misaligned ot e, Code.alignIssue, ot),
       (misaligned oi 64, Code.alignIssue, oi),
       (misaligned ox 64, Code.alignIssue, ox),
       (idx.past, Code.bounds, oi),
       (dense.past, Code.bounds, ox)]
      (issueAlone k s
        { Cmd.init (.gath table idx ot.toNat f.iw64 e n scat) k f.sg.toNat with
          slices := [k.slice f.stat none (some dense) 0, k.slice none (some table) none 0, k.slice none (some idx) none 0] }
        f.stat 3 [(false, k.pieces s idx), (!scat, k.pieces s dense), (scat, k.pieces s table)]))

def gathUse (f : CGath) : Use := { qg := f.qg.toNat, gr := pair f.gt ++ pair f.gi ++ pair f.gx, gw := statUse f.stat }

/-- GATH -/
def execGath (f : CGath) (s : State) : Out := issueUnit (.gath f) (gathUse f) s (gathEff f false) true
/-- SCAT -/
def execScat (f : CGath) (s : State) : Out := issueUnit (.scat f) (gathUse f) s (gathEff f true) true

/-! ### Matrix commands (R254, R255, R267 to R271) -/

/-- Only a launch with MX = 1 issues matrix commands (R255). -/
def claimed (k : Ctx) (s : State) (go : Launch → Res) : Res :=
  match s.launch? k.t.geom.launch with
  | none => .wait
  | some l => if l.lr.mx then go l else .trap Code.tile (tileInfo 0 8)

def State.acc? (s : State) (launch core a : Nat) : AccSet := (oget s.eng.acc (accKey launch core a)).getD AccSet.init

/-- Matrix commands on a set of a core that have not completed. -/
def setCmds (s : State) (g : TeamGeom) (a : Nat) : List (Nat × Cmd) :=
  (slist s.eng.cmds).filter (fun c => c.2.launch = g.launch && c.2.core = g.core && c.2.kind.set? = some a)

/-- The mode a set will have once every command queued on it has run (R267). -/
def setMode (s : State) (g : TeamGeom) (a : Nat) : Bool :=
  (setCmds s g a).foldl (fun m c => match c.2.kind with | .mzero _ _ f => f | _ => m) (s.acc? g.launch g.core a).f64

/-- The bytes of `n` rows of a plane: one run when they stand one behind the other, else one for each row. -/
def planePieces (l : Launch) (g : TeamGeom) (e : PalEntry) (org rows stride bytes : Nat) : List Span :=
  if stride = bytes then regionPieces l g e org (rows * bytes)
  else (List.range rows).flatMap (fun r => regionPieces l g e (org + r * stride) bytes)

/-- The bytes a tile's two planes reach (R221, R222, R253): the gaps between rows are no part of them. -/
def Tile.pieces (t : Tile) (l : Launch) (g : TeamGeom) : List Span :=
  planePieces l g t.entry t.eorg t.rows t.stride t.rowBytes
    ++ (if t.entry.scale = 0 then [] else planePieces l g t.entry t.sorg t.rows (sidePitch t.entry.scale t.cols)
      (t.cols / sideGroup t.entry.scale * t.entry.scale))

/-- Readiness for a reader (R254); `own` is a command whose draining does not count. -/
def Tile.ready (t : Tile) (own : Option Nat) : Bool :=
  decide (t.d ≤ 0) && t.drains.all (fun c => some c = own)

/-- Formats an MMA takes in its mode (R267). -/
def mmaFormats (f64 : Bool) (a b : Nat) : Bool :=
  if f64 then a = 1 && b = 1
  else (a = 2 && b = 2) || (a = 3 && b = 3) || (a = 4 && b = 4)
    || (decide (0x10 ≤ a ∧ a ≤ 0x17) && decide (0x10 ≤ b ∧ b ≤ 0x17))

/-- MMA and MMA.H. -/
def mmaEff (f : CMma) (had : Option Nat) (k : Ctx) (s : State) : Res :=
  unheld k s (fun k s =>
    claimed k s (fun l =>
      withTile k s f.ta.toNat (fun ta =>
        withTile k s f.tb.toNat (fun tb =>
          let m := setMode s k.t.geom f.a.toNat
          let bad := fun (t : BitVec 4) (b : Bool) => (b, Code.tile, tileInfo t.toNat 3)
          checked
            [bad f.ta (decide (ta.rows ≠ (if m then 128 else 256)) || ta.entry.space ≠ Sp.core || !ta.entry.canRead),
             bad f.tb (decide (tb.rows ≠ 128 ∨ tb.cols ≠ ta.cols) || !tb.entry.canRead),
             bad f.ta (!mmaFormats m ta.entry.format tb.entry.format
               || decide (ta.cols % kBlock ta.entry.format tb.entry.format ≠ 0)
               || (match had with | some h => decide (ta.cols % h ≠ 0) | none => false))]
            (if !ta.ready none || !tb.ready none then .wait
             else issueAlone k (s.dropLeases k.t.geom.core)
              { Cmd.init (.mma f.a.toNat ta tb had f.depth.toNat) k f.sg.toNat with
                slices := [k.slice none none none 0, k.slice none none none 0], tiles := [k.tile f.ta.toNat, k.tile f.tb.toNat] } none 2
              [(false, ta.pieces l k.t.geom), (false, tb.pieces l k.t.geom)])))))

/-- MMA -/
def execMma (f : CMma) (s : State) : Out := issueUnit (.mma f) { qg := f.qg.toNat } s (mmaEff f none) true
/-- MMA.H -/
def execMmaH (f : CMma) (s : State) : Out :=
  issueUnit (.mmaH f) { qg := f.qg.toNat } s (mmaEff f (some (mmaPoints f.hn.toNat))) true

/-- Format code that an RTYPE asks of a stream (R271); none for integers. -/
def rtypeFormat (r : Nat) : Option Nat := if r = 0 then some 4 else if r = 1 then some 2 else if r = 2 then some 1 else none

/-- Whether a tile suits MEPI: shape, space, format, permission. -/
def mepiTile (t : Tile) (rows cols : Nat) (write : Bool) : Bool :=
  t.rows = rows && t.cols = cols && spaceIn [Sp.core, Sp.gang, Sp.gallery] t.entry && decide (t.entry.format < 0x20)
    && (!write || t.entry.canWrite)

/-- The next operation number of a group, and the state after it is taken (R295). -/
def State.takeGroupOp (s : State) (g : Nat) : Nat × State :=
  let n := sget 0 s.atrium.nextOp g
  (n, { s with atrium := { s.atrium with nextOp := sset 0 s.atrium.nextOp g ((n + 1) % 2 ^ 16) } })

/-- The MEPI forms. -/
def mepiEff (f : CMepi) (t2 send : Bool) (k : Ctx) (s : State) : Res :=
  unheld k s (fun k s =>
    let h := k.t.greg (f.gs.toNat + 1)
    let e := k.entry s (f.gs.toNat + 1)
    checked
      [(send && k.refuses s (f.gs.toNat + 1) (fun e => e.space = Sp.mcast && s.groupValid e.target), Code.handle, h),
       (send && e.isSealed, Code.sealedReduce, h)]
      (claimed k s (fun l =>
        withTile k s f.t.toNat (fun t =>
          let go := fun (tt : Option Tile) =>
            let m := setMode s k.t.geom f.a.toNat
            let rows := if m then 128 else 256
            checked
              [(!mepiTile t rows 128 (!send) || (send && decide (rtypeFormat e.rtype ≠ some t.entry.format)), Code.tile,
                  tileInfo f.t.toNat 3),
               ((match tt with | some x => !mepiTile x 128 rows true | none => false), Code.tile, tileInfo f.tt.toNat 3)]
              (if (!send && t.drains ≠ []) || (match tt with | some x => decide (x.drains ≠ []) | none => false) then .wait
               else
                let n := k.t.conv
                let hbase := globalLane s.self k.t.geom 0 / 1024 * 2 ^ 24 + n % 512 * 2 ^ 15
                let kind := fun (op : Nat) => CmdKind.mepi f.a.toNat t (!send) tt (k.t.greg f.gs.toNat)
                  (if send then some (e, op) else none) f.clr f.unsc f.rsr (mepiPoints f.hn.toNat) k.t.srseed hbase
                let s := if f.rsr then s.modTeam k.tid (fun t => { t with conv := n + 1 }) else s
                let g := if send then s.takeGroupOp e.target else (0, s)
                let c := { Cmd.init (kind g.1) k 0 with
                  tiles := k.tile f.t.toNat :: (if t2 then [k.tile f.tt.toNat] else []) }
                let pieces := fun (t : Tile) => (true, t.pieces l k.t.geom)
                issueAlone k g.2 (if send then c.onGroup g.2 e.target else c) none
                  ((if send then 0 else 1) + (if t2 then 1 else 0))
                  ((if send then [] else [pieces t]) ++ (match tt with | some x => [pieces x] | none => [])))
          if t2 then withTile k s f.tt.toNat (fun x => go (some x)) else go none))))

def mepiUse (f : CMepi) (send : Bool) : Use :=
  { qg := f.qg.toNat, gr := if send then pair f.gs else [(f.gs.toNat, false)] }

/-- MEPI -/
def execMepi (f : CMepi) (s : State) : Out := issueUnit (.mepi f) (mepiUse f false) s (mepiEff f false false) true
/-- MEPI.T2 -/
def execMepiT2 (f : CMepi) (s : State) : Out := issueUnit (.mepiT2 f) (mepiUse f false) s (mepiEff f true false) true
/-- MEPI.SEND -/
def execMepiSend (f : CMepi) (s : State) : Out := issueUnit (.mepiSend f) (mepiUse f true) s (mepiEff f false true) true
/-- MEPI.T2.SEND -/
def execMepiT2Send (f : CMepi) (s : State) : Out := issueUnit (.mepiT2Send f) (mepiUse f true) s (mepiEff f true true) true

/-- MZERO (R268) -/
def execMzero (f : CMzero) (s : State) : Out :=
  issueUnit (.mzero f) { qg := f.qg.toNat, gr := (f.tag.map (fun r => [(r.toNat, false)])).getD [] } s (fun k s =>
    unheld k s (fun k s =>
      claimed k s (fun _ =>
        let tag := match f.tag with | some r => (k.t.greg r.toNat).setWidth 32 | none => 0x3F800000#32
        issueAlone k s (Cmd.init (.mzero f.a.toNat tag f.f64) k 0) none 0 []))) true

/-- The failure a batch starts with: that of a command that has failed since the last MFENCE. -/
def batchFail (t : Team) (cs : List Nat) : Option Nat :=
  (cs.filterMap (fun c => (oget t.batches (unbatched c)).bind (·.fail))).getLast?

/-- MFENCE (R268) -/
def execMfence (f : CReg1) (s : State) : Out :=
  issueUnit (.mfence f) { qg := f.qg.toNat, gw := [f.g.toNat] } s (fun k s =>
    unheld k s (fun k s => claimed k s (fun _ =>
      let n := k.t.batchNo + 1
      let cs := k.a.mcmds
      let t := { k.t with
        batchNo := n
        batches := oset (cs.foldl (fun m c => oset m (unbatched c) none) k.t.batches) n.toNat
          (some ⟨cs.filter s.cmdLive, batchFail k.t cs⟩) }
      .done ((s.setTeam k.tid (t.setG f.g.toNat (n.setWidth 64))).modArm k.tid k.f (fun a => { a with mcmds := [] }))))) true

/-- MWAIT (R257, R268) -/
def execMwait (f : CReg1) (s : State) : Out :=
  issueUnit (.mwait f) { qg := f.qg.toNat, gr := [(f.g.toNat, false)] } s (fun k s =>
    unheld k s (fun k s => claimed k s (fun _ =>
      let n := (k.t.greg f.g.toNat).setWidth 32
      let d := (k.t.batchNo - n).toNat
      if 2 ^ 31 < d then .trap Code.tile (tileInfo 0 4)
      else if d = 2 ^ 31 then .done s
      else
        match oget k.t.batches n.toNat with
        | none => .done (s.dropLeases k.t.geom.core)
        | some b =>
          if b.cmds.any s.cmdLive then .wait
          else
            match b.fail with
            | some c => .trap c 0
            | none => .done (s.dropLeases k.t.geom.core)))) true

/-- The value MGET gives lane L from row r on (R269), none beyond the last row. -/
def mgetVal (x : AccSet) (r L : Nat) : Option Word :=
  if x.f64 then
    if r + L / 128 < 128 then some (BitVec.ofNat 64 (x.at (r + L / 128) (L % 128))) else none
  else if r + L / 64 < 256 then
    some (BitVec.ofNat 64 (x.at (r + L / 64) (2 * (L % 64)) + x.at (r + L / 64) (2 * (L % 64) + 1) * 2 ^ 32))
  else none

/-- MGET (R269) -/
def execMget (f : CMget) (s : State) : Out :=
  issueUnit (.mget f) { qg := f.qg.toNat, vw := [f.vd.toNat], gr := [(f.gr.toNat, false)] } s (fun k s =>
    unheld k s (fun k s => claimed k s (fun _ =>
      let r := k.t.greg f.gr.toNat
      let rows := if setMode s k.t.geom f.a.toNat then 128 else 256
      if rows ≤ r.toNat then .trap Code.bounds r
      else if setCmds s k.t.geom f.a.toNat ≠ [] then .wait
      else
        let x := s.acc? k.t.geom.launch k.t.geom.core f.a.toNat
        writeLanes k s f.vd.toNat (fun L l => (mgetVal x r.toNat L).getD (l.reg f.vd.toNat))))) true

/-! ### Collectives (R272) -/

/-- Formats of AR and RS by RTYPE. -/
def collFormat (rtype fmt : Nat) : Bool :=
  match rtypeFormat rtype with
  | some x => fmt = x
  | none => fmt = 0x23 || fmt = 0x27

/-- Bytes a member contributes (R272). -/
def collSends (s : State) (form : Nat) (t : Tile) (gh : PalEntry) (root : Nat) : Nat :=
  if form = 3 ∧ s.groupRank gh.target ≠ root then 0 else t.bytes

/-- The COLL forms: 0 AR, 1 RS, 2 AG, 3 BC. A member that contributes nothing leaves its tile ready (R254). -/
def collEff (f : CColl) (form : Nat) (k : Ctx) (s : State) : Res :=
  unheld k s (fun k s =>
    let h := k.t.greg f.gg.toNat
    let e := k.entry s f.gg.toNat
    let p := s.groupSize e.target
    let red := decide (form < 2)
    checked
      [(k.refuses s f.gg.toNat (fun e => e.space = Sp.mcast && s.groupValid e.target && s.groupMember e.target), Code.handle, h),
       (red && e.isSealed, Code.sealedReduce, h),
       (decide (p ≤ f.root.toNat), Code.handle, h)]
      (withTile k s f.t.toNat (fun t =>
        let key := k.tile f.t.toNat
        let own := (s.blockCmd k.t.geom k.t.collSeq).map (·.1)
        checked
          [(t.stride ≠ t.rowBytes || !t.entry.canRead || (red && !collFormat e.rtype t.entry.format)
              || (decide (form = 1) && decide (t.bytes % (64 * p) ≠ 0)), Code.tile, tileInfo f.t.toNat 3)]
          (let ranges := [(false, k.pieces s ⟨t.entry, t.eorg, t.bytes⟩)]
           if !k.quiet s ranges || !k.loaded s || !t.ready own then .wait
           else
            joinBlock k (s.dropLeases k.t.geom.core)
              (.coll form t e f.root.toNat (sget 0 s.atrium.nextOp e.target)) f.sg.toNat f.stat
              (k.slice f.stat none none 0) ranges [key]
              (fun s cid =>
                let s := (s.takeGroupOp e.target).2
                let s := if collSends s form t e f.root.toNat = 0 then s
                  else s.setTile key ((s.tile? key).map (fun t => { t with drains := t.drains ++ [cid] }))
                s.modCmd cid (fun c => c.onGroup s e.target))))))

def collUse (f : CColl) : Use := { qg := f.qg.toNat, gr := [(f.gg.toNat, false)], gw := statUse f.stat }

/-- COLL.AR -/
def execCollAr (f : CColl) (s : State) : Out := issueUnit (.collAr f) (collUse f) s (collEff f 0) true
/-- COLL.RS -/
def execCollRs (f : CColl) (s : State) : Out := issueUnit (.collRs f) (collUse f) s (collEff f 1) true
/-- COLL.AG -/
def execCollAg (f : CColl) (s : State) : Out := issueUnit (.collAg f) (collUse f) s (collEff f 2) true
/-- COLL.BC -/
def execCollBc (f : CColl) (s : State) : Out := issueUnit (.collBc f) (collUse f) s (collEff f 3) true

/-! ### Walkers (R91, R92, R274) -/

/-- Field i of a strides or extents register: 21 bits. -/
def walkField (x : Word) (i : Nat) : Nat := fld x (21 * i) 21

/-- Restore v(60 + n) from a walker's saved values. -/
def Team.unbindWalker (t : Team) (n : Nat) : Team :=
  match t.walker? n with
  | none => t
  | some w =>
    { t.setWalker n none with lanes := t.lanes.zipIdx.map (fun x => x.1.setReg (60 + n) ((w.saved[x.2]?).getD 0)) }

/-- BIND (R274). A lost or poisoned v(60 + N) traps as a source does (R75, R318). -/
def bindEff (f : CBind) (k : Ctx) (s : State) : Res :=
  unheld k s (fun k s =>
  let v := 60 + f.w.toNat
  let c := k.t.greg f.gc.toNat
  let x := k.t.greg (f.gc.toNat + 1)
  match markTrap k.t (firstLanes k.t.geom.lanes) [(v, false)] with
  | some e => .trap e.1 e.2
  | none =>
    checked
      [(k.refuses s f.gh.toNat (fun e => e.canRead && !spaceIn [Sp.net, Sp.gangcast, Sp.mcast] e), Code.handle,
          k.t.greg f.gh.toNat),
       (c.getLsbD 63, Code.bounds, c),
       (x.getLsbD 63 || (List.range 3).any (fun i => walkField x i = 0), Code.bounds, x)]
      (let s := s.dropFetch k.tid f.w.toNat
       let t := k.t.unbindWalker f.w.toNat
       let vals := t.lanes.map (fun l => l.reg v)
       let w : Walker :=
        { entry := k.entry s f.gh.toNat, ls := f.ls.toNat, sx := f.sx, ext := (List.range 3).map (walkField x)
          stride := (List.range 3).map (fun i => signedOf 21 (walkField c i)), base := vals, saved := vals
          pos := some (0, 0, 0), d0 := false, d1 := false, d2 := false, fin := false, arrived := [] }
       .done (s.setTeam k.tid (t.setWalker f.w.toNat (some w)))))

/-- BIND -/
def execBind (f : CBind) (s : State) : Out :=
  issueUnit (.bind f) { qg := f.qg.toNat, gr := (f.gh.toNat, false) :: pair f.gc, vn := [60 + f.w.toNat] } s (bindEff f) true

/-- UNBIND -/
def execUnbind (f : CUnbind) (s : State) : Out :=
  issueUnit (.unbind f) { qg := f.qg.toNat } s (fun k s =>
    unheld k s (fun k s => .done ((s.dropFetch k.tid f.w.toNat).setTeam k.tid (k.t.unbindWalker f.w.toNat)))) true

end Sys2Proof.Machine
end

