-- ==== Sys2Proof/Machine/EngineRun.lean ====
section
/-! DEFINITION. What the engines do after issue: the streamers' rounds, matrix commands, contributions to a group, completion,
split points, walkers' fetches (R94, R245, R254 to R258, R262 to R272, R281 to R287, R312). -/

namespace Sys2Proof.Machine

/-- Whether a launch's engines work at all: it is resident, or stopping. -/
def Launch.onCore (l : Launch) : Bool :=
  l.status = .resident || l.isStopping

/-! ### Streamers (R245) -/

/-- Streamer commands of a launch at a cluster that every team has joined, in issue order. -/
def streamCmds (s : State) (cluster lid : Nat) : List (Nat × Cmd) :=
  (slist s.eng.cmds).filter (fun c => c.2.kind.streams && c.2.launch = lid && coreCluster c.2.core = cluster && !c.2.joining)

/-- Whether a region lies in NET, and is not empty. -/
def onNet (r : Option Region) : Bool := match r with | some r => decide (r.entry.space = Sp.net ∧ r.len ≠ 0) | none => false

/-- A copy from or into NET waits for the transport's reports (R333): an operation for what it writes there, another for the reads, which
it asks for. -/
def startNet (s : State) (cid : Nat) (c : Cmd) : State :=
  let wait := fun (s : State) (k : OpKind) =>
    let o := s.freshOp k 0 false
    o.2.modCmd cid (fun c => c.writing o.1)
  let s := if c.slices.any (fun x => onNet x.dst) then wait s (.cmdWrite cid none) else s
  if c.slices.any (fun x => onNet x.src) then
    c.slices.foldl (fun s x =>
      match x.src with
      | some r =>
        if r.entry.space = Sp.net then
          (List.range (r.len / 64)).foldl (fun s i =>
            s.emit (.uet r.entry.aux (fld (s.bar0 (0x810000 + 64 * r.entry.aux + 16)) 32 16) (r.entry.base + r.off + 64 * i) []
              true)) s
        else s
      | none => s) (wait s (.cmdRead cid 0 0))
  else s

/-- The operation of a command for which the transport answers: of a kind, with no remote request that stands for it. -/
def netOp (s : State) (c : Cmd) (p : OpKind → Bool) : Option Nat :=
  c.writes.find? (fun o => ((oget s.coh.ops o).any (fun x => p x.kind)) && !(slist s.pod.remotes).any (fun r => r.2.opId = o))

def OpKind.netWrite : OpKind → Bool
  | .cmdWrite _ none => true
  | _ => false
def OpKind.reads : OpKind → Bool
  | .cmdRead .. => true
  | _ => false

/-- Whether everything that a command has written elsewhere than into NET has completed. -/
def writesDone (s : State) (c : Cmd) : Bool :=
  c.writes.all (fun o => (oget s.coh.ops o).any (fun x => x.kind.reads) || netOp s c OpKind.netWrite = some o)

/-- A command starts. -/
def startCmd (s : State) (cid : Nat) (c : Cmd) : State :=
  startNet (s.modCmd cid (fun c => { c with started := true, startCycle := s.sched.cycle })) cid c

/-- Whether a command that stops discards what it has read and not used: an MMA its steps (R287), a CPYV its source (R265). -/
def CmdKind.refetches : CmdKind → Bool
  | .mma .. => true
  | .cpyv _ => true
  | _ => false

/-- An engine command stops for a pre-emption (R287, R312). A copy keeps the bytes it has had and not written. -/
def State.stopCmd (s : State) (cid : Nat) : State :=
  match s.cmd? cid with
  | none => s
  | some c =>
    if c.kind.refetches then
      let rs := c.writes.filter (fun o => (oget s.coh.ops o).any (fun x => x.kind.reads))
      ((rs.foldl State.dropOp s).modCmd cid (fun c => { c with
        stopped := true
        slices := c.slices.map (fun x => { x with buf := [] })
        writes := c.writes.filter (fun o => !rs.contains o) })).dropReads (.cmd cid)
    else (s.modCmd cid (fun c => { c with stopped := true })).dropReads (.cmd cid)

/-- Bytes one movement of a command takes of the credit. -/
def moveCost (c : Cmd) : Nat :=
  match c.kind with
  | .gath _ _ _ _ e _ _ => e
  | _ => 64

/-- Whether a started command may move. -/
def movable (c : Cmd) : Bool := c.started && !c.stopped && c.parked.isNone && !doneMoving c

/-- Serve the oldest started command that moves; when none does, start the next one in issue order. Answers the bytes moved and
whether anything happened. -/
def serveOnce (l : Launch) (credit : Nat) (cs : List (Nat × Cmd)) (s : State) : Nat × Bool × State :=
  let rec go : List (Nat × Cmd) → State → Nat × Bool × State
    | [], s =>
      (match cs.find? (fun c => !c.2.started && c.2.fail.isNone) with
       | some (cid, c) =>
         if stopsHere l c || s.blockedBy cid c.core then (0, false, s) else (0, true, startCmd s cid c)
       | none => (0, false, s))
    | (cid, c) :: r, s =>
      if movable c && decide (moveCost c ≤ credit) then
        if stopsHere l c then go r (s.stopCmd cid)
        else
          (match moveOne s l cid c with
           | (none, s') => go r s'
           | (some n, s') => (n, true, s'))
      else go r s
  go cs s

/-- Serve a launch until its credit is spent or nothing more can be done. The number bounds the steps. -/
def serveLaunch (cluster lid : Nat) : Nat → Nat → State → Nat × State
  | 0, credit, s => (credit, s)
  | n + 1, credit, s =>
    match s.launch? lid with
    | none => (credit, s)
    | some l =>
      if credit = 0 then (0, s)
      else
        let r := serveOnce l credit (streamCmds s cluster lid) s
        if r.2.1 then serveLaunch cluster lid n (credit - r.1) r.2.2 else (credit, r.2.2)

def creditOf (s : State) (cluster lid : Nat) : Nat :=
  (((sget [] s.eng.credits cluster).find? (fun c => c.launch = lid)).map (·.bytes)).getD 0

def setCredit (s : State) (cluster lid bytes : Nat) : State :=
  let rest := (sget [] s.eng.credits cluster).filter (fun c => c.launch ≠ lid)
  { s with eng := { s.eng with
    credits := sset [] s.eng.credits cluster (if bytes = 0 then rest else ⟨lid, bytes⟩ :: rest) } }

/-- Launches with streamer commands at a cluster. -/
def streamLaunches (s : State) (cluster : Nat) : List Nat :=
  ((slist s.alloc.launches).filter (fun l => l.2.status ≠ .suspended && !(streamCmds s cluster l.1).isEmpty)).map (·.1)

/-- The credit of a launch in a round: what it kept, which is less than one movement unless its commands wait for others, and what it
gains. Credit that a waiting launch cannot spend is not saved up (DESIGN CHOICE, log 126). -/
def roundCredit (kept weight : Nat) : Nat := min kept 128 + weight * 4096

/-- One launch's turn in a round: a launch whose queue is empty keeps no credit. -/
def roundOf (cluster : Nat) (s : State) (lid : Nat) : State :=
  match s.launch? lid with
  | none => s
  | some l =>
    let r := serveLaunch cluster lid 1048576 (roundCredit (creditOf s cluster lid) l.lr.weight) s
    setCredit r.2 cluster lid (if (streamCmds r.2 cluster lid).all (fun c => doneMoving c.2) then 0 else r.1)

/-- STREAMER_ROUND (R245). -/
def execStreamerRound (a : Nat) (s : State) : Out :=
  let ls := streamLaunches s a
  whenEnabled "STREAMER_ROUND" (!ls.isEmpty) (ls.foldl (roundOf a) s)

/-- ENGINE_COMMAND_COMPLETE (R178, R256 to R258): every byte has been moved and every write has completed. -/
def execEngineCommandComplete (a : Nat) (s : State) : Out :=
  match s.cmd? a with
  | none => .refused (.notEnabled "ENGINE_COMMAND_COMPLETE")
  | some c =>
    whenEnabled "ENGINE_COMMAND_COMPLETE"
      (c.kind.streams && !c.joining && (c.started || c.fail.isSome) && doneMoving c && decide (c.writes = []))
      ((endVersion s a c).completeCmd a 0 [])

/-- SG_PROMOTION (R28). -/
def execSgPromotion (a : Nat) (s : State) : Out :=
  match s.cmd? a with
  | none => .refused (.notEnabled "SG_PROMOTION")
  | some c =>
    whenEnabled "SG_PROMOTION" (c.sg = 3 && c.started && decide (c.startCycle + 65536 ≤ s.sched.cycle))
      (s.modCmd a (fun c => { c with sg := 2 }))

/-! ### Reading and writing the planes of a tile -/

/-- `n` bytes from an offset on, cut at the sectors. The number bounds the pieces. -/
def cutSectors : Nat → Nat → Nat → List (Nat × Nat)
  | 0, _, _ => []
  | k + 1, off, n =>
    let m := min n (64 - off % 64)
    if n = 0 then [] else (off, m) :: cutSectors k (off + m) (n - m)

/-- The bytes of a tile that hold its elements of k from `lo` to `hi`, rows and side rows, cut at the sectors. -/
def Tile.stepPieces (t : Tile) (lo hi : Nat) : List (Nat × Nat) :=
  let w := t.elBits
  let n := (hi - lo) * w / 8
  let g := sideGroup t.entry.scale
  (List.range t.rows).flatMap (fun r => cutSectors (n / 64 + 2) (t.eorg + r * t.stride + lo * w / 8) n
    ++ (if t.entry.scale = 0 then []
        else
          let m := (hi - lo) / g * t.entry.scale
          cutSectors (m / 64 + 2) (t.sorg + r * sidePitch t.entry.scale t.cols + lo / g * t.entry.scale) m))

/-- The bytes that a slice of a command has buffered, by offset of an entry. -/
def tileBytes (s : State) (cid i : Nat) (e : PalEntry) : TileBytes := fun o =>
  (((s.cmd? cid).bind (fun c => c.slices[i]?)).bind (fun x => oget x.buf (e.base + o))).getD 0

/-- Write bytes to a region of scratchpad or Gallery banks; they are counted (R152). -/
def bankPut (l : Launch) (g : TeamGeom) (e : PalEntry) (s : State) (off : Nat) (data : List Byte) : State :=
  s.bankWrite (data.zipIdx.filterMap (fun x =>
    match placeOf l g e 0 (off + x.2) with
    | .bank key => some (key, x.1)
    | _ => none)) true

/-- Write the rows of a converted set into a tile (R221, R222, R270): elements and side entries together (R227). -/
def putRows (l : Launch) (g : TeamGeom) (t : Tile) (s : State) (rows : List (List Byte × List Byte × Nat)) : State :=
  rows.zipIdx.foldl (fun s r =>
    let s := bankPut l g t.entry s (t.eorg + r.2 * t.stride) r.1.1
    if t.entry.scale = 0 then s else bankPut l g t.entry s (t.sorg + r.2 * sidePitch t.entry.scale t.cols) r.1.2.1) s

/-! ### Matrix commands -/

def State.setAcc (s : State) (launch core a : Nat) (x : AccSet) : State :=
  { s with eng := { s.eng with acc := oset s.eng.acc (accKey launch core a) (some x) } }

/-- Whether a matrix command is the next on its set and no earlier overlapping command is under way (R254, R281). -/
def matrixTurn (s : State) (cid : Nat) (c : Cmd) : Bool :=
  c.kind.matrix && !(slist s.eng.cmds).any (fun x => decide (x.1 < cid) && x.2.launch = c.launch && x.2.core = c.core
    && x.2.kind.matrix && x.2.kind.set? = c.kind.set?) && !s.blockedBy cid c.core

/-- k between the stopping points of an MMA (R28). -/
def matrixGranule (sg : Nat) : Option Nat := if sg = 0 then some 32 else if sg = 1 then some 256 else if sg = 2 then some 2048
  else none

/-- k that an MMA adds at a time: 32, or a whole run of the Hadamard transform (R232, R287). -/
def mmaStep (had : Option Nat) : Nat := max 32 (had.getD 0)

/-- Whether an MMA may stop for a pre-emption at a k (R28). -/
def mmaStops (c : Cmd) (k : Nat) : Bool :=
  match matrixGranule c.sg with
  | some g => k % g = 0
  | none => false

/-- Whether a launch that is being pre-empted lets a matrix command run on to its end (R312): an MMA does that has no stopping point
before it. -/
def mayFinish (l : Launch) (c : Cmd) : Bool :=
  match l.since? with
  | none => l.status = .resident
  | some _ => c.started && !c.stopped && (match c.kind with
    | .mma _ ta _ had _ => (match matrixGranule c.sg with
      | some g => decide (ta.cols ≤ (c.progress / max g (mmaStep had) + 1) * max g (mmaStep had))
      | none => true)
    | _ => true)

/-- Fetch tile B from k on, in steps of 32 (R287): those below `hi` are needed now, and `ok` when they are all there; while one is
awaited, later ones are asked for, `depth` in flight at most. The first number bounds the steps. -/
def mmaFetch (l : Launch) (cid : Nat) (c : Cmd) (tb : Tile) (hi : Nat) : Nat → Nat → Bool → State → Nat → Io
  | 0, _, waits, s, _ => if waits then .wait s else .ok [] s
  | n + 1, depth, waits, s, k =>
    if tb.cols ≤ k ∨ depth = 0 ∨ (hi ≤ k ∧ !waits) then (if waits then .wait s else .ok [] s)
    else
      match bufferAll l cid 0 c tb.entry (tb.stepPieces k (min (k + 32) tb.cols)) s with
      | .ok _ s' => mmaFetch l cid c tb hi n (if k < hi then depth else depth - 1) waits s' (k + 32)
      | .wait s' => mmaFetch l cid c tb hi n (depth - 1) true s' (k + 32)
      | x => if waits then .wait s else x

/-- One step of an MMA: the products of k from `lo` to `hi`, once every byte of them has been read; slice 0 has the bytes of tile B,
slice 1 those of tile A. -/
def mmaOne (s : State) (l : Launch) (cid : Nat) (c : Cmd) (a : Nat) (ta tb : Tile) (had : Option Nat) (depth lo hi : Nat) : Io :=
  match bufferAll l cid 1 c ta.entry (ta.stepPieces lo hi) s with
  | .ok _ s1 =>
    (match mmaFetch l cid c tb hi (tb.cols / 32 + 1) (max depth 1) false s1 lo with
     | .ok _ s2 =>
       .ok [] ((s2.setAcc c.launch c.core a (mmaRange (s2.acc? c.launch c.core a) had ta tb (tileBytes s2 cid 1 ta.entry)
         (tileBytes s2 cid 0 tb.entry) lo hi)).modCmd cid
         (fun c => { c with started := true, progress := hi, startCycle := if c.started then c.startCycle else s.sched.cycle }))
     | x => x)
  | x => x

/-- The steps of an MMA from k on up to `hi`; the first number bounds them. -/
def mmaSteps (l : Launch) (cid : Nat) (c : Cmd) (a : Nat) (ta tb : Tile) (had : Option Nat) (depth hi : Nat) : Nat → State → Nat → Io
  | 0, s, _ => .ok [] s
  | n + 1, s, k =>
    if hi ≤ k then .ok [] s
    else
      match mmaOne s l cid c a ta tb had depth k (min (k + mmaStep had) hi) with
      | .ok _ s' => mmaSteps l cid c a ta tb had depth hi n s' (k + mmaStep had)
      | x => x

/-- Add the products of k from `progress` up to `hi` (R267, R287), in ascending k. -/
def mmaAdd (s : State) (l : Launch) (cid : Nat) (c : Cmd) (a : Nat) (ta tb : Tile) (had : Option Nat) (depth hi : Nat) : Io :=
  mmaSteps l cid c a ta tb had depth hi (hi / 32 + 1) s c.progress

/-- The set drained by a MEPI: zeroed when CLR asks for it, mode and tag kept. -/
def clearSet (s : State) (c : Cmd) (a : Nat) (clr : Bool) : State :=
  if clr then s.setAcc c.launch c.core a { s.acc? c.launch c.core a with el := [] } else s

/-- The flags of a conversion's rows. -/
def rowFlags (rows : List (List Byte × List Byte × Nat)) : Nat := rows.foldl (fun f r => f ||| r.2.2) 0

/-- Rows of the stream or of tile tD, and of tile TT. -/
def mepiOut (s : State) (c : Cmd) (a : Nat) (t : Tile) (tt : Option Tile) (gs : Word) (unsc rsr : Bool) (h : Nat) (seed : Word)
    (hbase : Nat) : List (List Byte × List Byte × Nat) × List (List Byte × List Byte × Nat) × Nat :=
  let x := s.acc? c.launch c.core a
  let sc := mepiScale x unsc gs
  let rows := mepiRows x t.entry false h sc.1 rsr seed hbase
  let rows2 := match tt with
    | some u => mepiRows x u.entry true h sc.1 rsr seed hbase
    | none => []
  (rows, rows2, sc.2 ||| rowFlags rows ||| rowFlags rows2)

/-- The effect of a MEPI: the tiles it writes, its flags, CLR (R270). -/
def mepiDone (s : State) (l : Launch) (cid : Nat) (c : Cmd) (a : Nat) (t : Tile) (put : Bool) (tt : Option Tile) (gs : Word)
    (clr unsc rsr : Bool) (h : Nat) (seed : Word) (hbase : Nat) : State :=
  let o := mepiOut s c a t tt gs unsc rsr h seed hbase
  let s := if put then putRows l c.geom t s o.1 else s
  let s := match tt with | some u => putRows l c.geom u s o.2.1 | none => s
  (clearSet s c a clr).modCmd cid (fun c => { c with flags := BitVec.ofNat 8 o.2.2 })

/-- Sectors of a SEND form's stream: every byte of its element rows (R271). -/
def sendBytes (t : Tile) : Nat := t.bytes

/-- Whether a CPYV holds a bank of some bytes (R265). -/
def heldIn (s : State) (ps : List Span) : Bool :=
  (slist s.coh.dir).any (fun d => d.2.held && ps.any (fun p => p.cls = 0 && decide (p.lo < (d.1 + 1) * 64) && decide (d.1 * 64 < p.hi)))

/-- MATRIX_COMMAND_COMPLETE (R231, R254, R258, R267, R270): the next command of a set has its effect and completes. While a byte
of a remote tile B is still to come, the command only goes on fetching. -/
def execMatrixCommandComplete (a : Nat) (s : State) : Out :=
  match s.cmd? a with
  | none => .refused (.notEnabled "MATRIX_COMMAND_COMPLETE")
  | some c =>
    match s.launch? c.launch with
    | none => .refused (.notEnabled "MATRIX_COMMAND_COMPLETE")
    | some l =>
      if matrixTurn s a c && c.parked.isNone then
        if c.fail.isSome then .next (s.completeCmd a 0 [])
        else
          match c.kind with
          | .mma x ta tb had depth =>
            whenEnabled "MATRIX_COMMAND_COMPLETE" (mayFinish l c)
              (match mmaAdd s l a c x ta tb had depth ta.cols with
               | .ok _ s' => s'.completeCmd a 0 []
               | r => (ioStop s l a c c.team r).2)
          | .mepi x t put tt gs send clr unsc rsr h seed hbase =>
            if heldIn s ((if put then t.pieces l c.geom else []) ++ (tt.map (fun u => u.pieces l c.geom)).getD []) then
              .refused (.notEnabled "MATRIX_COMMAND_COMPLETE")
            else
            (match send with
             | none => whenEnabled "MATRIX_COMMAND_COMPLETE" (decide (l.status = .resident) || (l.isStopping && c.started))
                 ((mepiDone s l a c x t put tt gs clr unsc rsr h seed hbase).completeCmd a 0 [])
             | some _ => whenEnabled "MATRIX_COMMAND_COMPLETE" (l.onCore && decide (sendBytes t ≤ 64 * c.sent.length))
                 ((mepiDone s l a c x t put tt gs clr unsc rsr h seed hbase).completeCmd a 0 []))
          | .mzero x tag f64 =>
            whenEnabled "MATRIX_COMMAND_COMPLETE" (decide (l.status = .resident))
              ((s.setAcc c.launch c.core x ⟨f64, tag, []⟩).completeCmd a 0 [])
          | .cpy => .refused (.notEnabled "MATRIX_COMMAND_COMPLETE")
          | .fill => .refused (.notEnabled "MATRIX_COMMAND_COMPLETE")
          | .cpyv _ => .refused (.notEnabled "MATRIX_COMMAND_COMPLETE")
          | .gath .. => .refused (.notEnabled "MATRIX_COMMAND_COMPLETE")
          | .coll .. => .refused (.notEnabled "MATRIX_COMMAND_COMPLETE")
          | .easel .. => .refused (.notEnabled "MATRIX_COMMAND_COMPLETE")
      else .refused (.notEnabled "MATRIX_COMMAND_COMPLETE")

/-! ### Contributions (R271, R272, R295, R298) -/

/-- Bytes a member receives (R272). -/
def collGets (s : State) (form : Nat) (t : Tile) (gh : PalEntry) : Nat :=
  let p := s.groupSize gh.target
  if form = 1 then t.bytes / p else if form = 2 then p * t.bytes else t.bytes

def collFlow (form : Nat) : Flow :=
  if form = 0 then .allReduce else if form = 1 then .reduceScatter else if form = 2 then .allGather else .bcast

def allBytes : Nat := 2 ^ 64 - 1

/-- Whether a COLL of a launch at work has bytes to contribute. -/
def collWaits (s : State) (c : Cmd) : Bool :=
  match c.kind with
  | .coll form t gh root _ => decide (0 < collSends s form t gh root) && ((s.launch? c.launch).map (fun l => decide (l.status = .resident))).getD false
  | _ => false

/-- Whether a COLL has started or may: its ranges clash with no earlier command's (R281), and no other that arrived at the die before
it has still to start (R283). -/
def collStarts (s : State) (cid : Nat) (c : Cmd) : Bool :=
  c.started || (!s.blockedBy cid c.core && !(slist s.eng.cmds).any (fun x => x.2.kind.coll? && x.1 ≠ cid
    && coreDie x.2.core = coreDie c.core && !x.2.joining && !x.2.started && x.2.fail.isNone && collWaits s x.2
    && decide (x.2.order < c.order)))

/-- A command's contribution at stream offset `off`, with the state after its bytes were read; none when nothing is to be
sent there now. -/
def contribution (s : State) (l : Launch) (cid : Nat) (c : Cmd) (off : Nat) : Option (Io × (List Byte → GroupSec)) :=
  match c.kind with
  | .coll form t gh root gop =>
    let r := s.groupRank gh.target
    if c.joining || decide (collSends s form t gh root ≤ off) || !collStarts s cid c then none
    else some (engRead s l cid 0 c t.entry (t.eorg + off) 64, fun d =>
      ⟨gh.target, gop, collFlow form, if form = 2 then r * t.bytes + off else off, gh.rtype, gh.rop, gh.base, gh.aux,
        if form = 1 then t.bytes / s.groupSize gh.target else 0, s.self, r, r, allBytes, none, false, false, d, true⟩)
  | .mepi a t _ tt gs (some (gh, gop)) _ unsc rsr h seed hbase =>
    let r := s.groupRank gh.target
    if !matrixTurn s cid c || decide (sendBytes t ≤ off) then none
    else
      let o := mepiOut s c a t tt gs unsc rsr h seed hbase
      some (.ok (((o.1.flatMap (·.1)).drop off).take 64) s, fun d =>
        ⟨gh.target, gop, .send, off, gh.rtype, gh.rop, gh.base, gh.aux, 0, s.self, r, r, allBytes, none, false, false, d, true⟩)
  | _ => none

/-- Bytes of a COLL's contribution between its stopping points. -/
def collAtSplit (c : Cmd) : Bool :=
  match copyGranule c.sg with
  | some g => (64 * c.sent.length) % g = 0
  | none => false

/-- Whether a command of a launch that is being pre-empted goes on to its stopping point (R312). -/
def offersOn (l : Launch) (c : Cmd) : Bool := !l.isStopping || (c.kind.coll? && c.started && !collAtSplit c)

/-- Whether a command may offer the sector at `off`: the lowest that has not been accepted, with no earlier refusal standing. -/
def mayOffer (l : Launch) (c : Cmd) (off : Nat) : Bool :=
  l.onCore && offersOn l c && !c.stopped && c.parked.isNone && c.fail.isNone && decide (off = 64 * c.sent.length)

/-- A sector was accepted (R271, R278): when it was the last of a COLL, the tile no longer drains. -/
def noteAccepted (s : State) (cid : Nat) (off : Nat) : State :=
  let s := s.modCmd cid (fun c => { c with
    sent := off :: c.sent
    refused := false
    since := s.sched.gtc
    started := true
    startCycle := if c.started then c.startCycle else s.sched.cycle })
  match s.cmd? cid with
  | none => s
  | some c =>
    match c.kind with
    | .coll form t gh root _ =>
      if collSends s form t gh root ≤ 64 * c.sent.length then
        { s with eng := { s.eng with tiles := smap s.eng.tiles (fun _ t => { t with drains := t.drains.filter (· ≠ cid) }) } }
      else s
    | _ => s

def resultKey (group op : Nat) : Nat := group * 65536 + op

/-- The tiles that a COLL's result counts into: of every entry of its launch that reaches the bytes its export lets in (R257, R326). -/
def collTiles (s : State) (c : Cmd) : List Nat :=
  match c.kind, s.launch? c.launch with
  | .coll form t gh _ _, some l =>
    let n := collGets s form t gh
    let hit := fun (cls ctx lo : Nat) => l.pal.flatMap (fun e =>
      ((entryCounts c.launch l e.2 cls ctx ((List.range (n / 64)).map (fun i => lo + 64 * i))).filter (fun h => h.2 ≠ 0)).map (·.1))
    if n = 0 then []
    else
      match s.exportAt gh.aux gh.base n .write with
      | .bank key => (hit 0 0 key).dedup
      | .mem ctx va _ => (hit 1 ctx va).dedup
      | _ => []
  | _, _ => []

/-- COLLECTIVE_COMPLETE (R256, R272): this member has its whole result and has contributed all of its own, or the group failed. -/
def execCollectiveComplete (a : Nat) (s : State) : Out :=
  match s.cmd? a with
  | none => .refused (.notEnabled "COLLECTIVE_COMPLETE")
  | some c =>
    match c.kind with
    | .coll form t gh root gop =>
      let key := resultKey gh.target gop
      let got := sget 0 s.atrium.results key
      whenEnabled "COLLECTIVE_COMPLETE"
        (!c.joining && (c.fail.isSome || (decide (collGets s form t gh ≤ got) && decide (c.writes = [])
          && decide (collSends s form t gh root ≤ 64 * c.sent.length))))
        ({ s with atrium := { s.atrium with results := sset 0 s.atrium.results key 0 } }.completeCmd a 0 (collTiles s c))
    | _ => .refused (.notEnabled "COLLECTIVE_COMPLETE")

/-! ### Split points (R28, R312) -/

/-- SPLIT_POINT (R28, R267, R287, R312): an MMA adds its next step, and stops there when its launch is being pre-empted and its sg lets
it; a copy, COLL or SEND form of such a launch stops at the point it has reached. -/
def execSplitPoint (a : Nat) (s : State) : Out :=
  match s.cmd? a with
  | none => .refused (.notEnabled "SPLIT_POINT")
  | some c =>
    match s.launch? c.launch with
    | none => .refused (.notEnabled "SPLIT_POINT")
    | some l =>
      let stop := s.stopCmd a
      if c.stopped || c.fail.isSome then .refused (.notEnabled "SPLIT_POINT")
      else
        match c.kind with
        | .mma x ta tb had depth =>
          let k := c.progress + mmaStep had
          whenEnabled "SPLIT_POINT"
            (decide (k < ta.cols) && matrixTurn s a c && c.parked.isNone
              && (decide (l.status = .resident) || (l.isStopping && c.started)))
            (match mmaAdd s l a c x ta tb had depth k with
             | .ok _ s' => if l.isStopping && mmaStops c k then s'.stopCmd a else s'
             | r => (ioStop s l a c c.team r).2)
        | .mepi _ t _ _ _ (some _) _ _ _ _ _ _ =>
          whenEnabled "SPLIT_POINT" (l.isStopping && c.started && decide (64 * c.sent.length < sendBytes t)) stop
        | .coll form t gh root _ =>
          whenEnabled "SPLIT_POINT" (l.isStopping && c.started && collAtSplit c
            && decide (64 * c.sent.length < collSends s form t gh root)) stop
        | _ => whenEnabled "SPLIT_POINT" (c.kind.streams && c.started && l.isStopping && !doneMoving c && stopsHere l c) stop

/-! ### Walkers' fetches (R91, R92, R94) -/

/-- Where lane L's element at a position lies: a key, for an element that raises no fault. -/
def walkKey (s : State) (l : Launch) (t : Team) (w : Walker) (p : Nat × Nat × Nat) (L : Nat) : Option (Nat × Nat) :=
  let sz : Nat := 2 ^ w.ls
  let o := w.offset L p
  if o < 0 ∨ (w.entry.limit : Int) < o + sz ∨ o % (sz : Int) ≠ 0 then none
  else
    match placeOf l t.geom w.entry L o.toNat with
    | .bank key => some (L, key)
    | .va va => (match tlbLook s (coreUnit t.geom.core) l.ctx va .read with | .pa a => some (L, a) | _ => none)
    | .pod _ _ off => some (L, off)
    | .mcast .. => none
    | .none => none

/-- The policy under which a walker reads a handle: its default one (R91), or WT where that is one its space does not permit, since
such a default leaves the entry valid (R143) and the space has no row for it (R161; DESIGN CHOICE, log 121). -/
def PalEntry.walkPol (e : PalEntry) : Nat := if bitsOf (spaceMask e.space) e.defpol 1 = 1 then e.defpol else 3

/-- One part of a walker's fetch asks for its bytes. -/
def walkPart (core tid : Nat) (e : PalEntry) (n load : Nat) (s : State) (part base : Nat) (offs : List (Nat × Nat)) : State :=
  let sec := sectorOf e (base * 64)
  if e.bank then s.send true core base (.req (.wtRead false load part))
  else if e.space = Sp.pod then
    if e.walkPol = 0 ∧ s.hitsCopy core sec 0 then s.readyPart load part (s.l1Data core sec)
    else
      let sp := spanOf n offs
      s.remoteSend ⟨core, none, []⟩ e.target e.aux (base * 64 + sp.1) sp.2 (if e.walkPol = 0 then .siRead e.leaseTicks else .wtRead)
        false load load part none
  else s.l1Load ⟨core, tid, false, false, []⟩ base e.walkPol e.leaseTicks load part

/-- A walker asks for the elements of its position that have not arrived, and for none of a later position (DESIGN CHOICE, log 48). -/
def startFetch (s : State) (a b : Nat) (t : Team) (w : Walker) (keys : List (Nat × Nat)) : State :=
  let n := s.newId
  let groups := groupLanes keys
  let parts := groups.zipIdx.map (fun g => (g.2, some (⟨sectorOf w.entry (g.1.1 * 64), g.1.2, .waiting, true⟩ : Part)))
  let ld : Load := ⟨a, some b, t.geom.core, noTeam, 60 + b, 2 ^ w.ls, w.sx, parts, 0, []⟩
  let s := { n.2 with coh := { n.2.coh with loads := oset n.2.coh.loads n.1 (some ld) } }
  groups.zipIdx.foldl (fun s g => walkPart t.geom.core a w.entry (2 ^ w.ls) n.1 s g.2 g.1.1 g.1.2) s

/-- The elements that a part of a fetch brings. -/
def Part.elements (p : Part) : List (Nat × Word × Mark) :=
  match p.st with
  | .waiting => []
  | .ready vs => (p.lanes.zip vs).map (fun x => (x.1.1, x.2, .full))
  | .poisoned vs => (p.lanes.zip vs).map (fun x => (x.1.1, x.2, .poison 0))
  | .lost c => p.lanes.map (fun x => (x.1, 0, .lost c))

/-- WALKER_ELEMENT_ARRIVAL (R91, R92, R94): walker `b` of a team asks for the elements of its position that the lanes of `c` lack; when
the values it has asked for are all there, they arrive. An element that would fault is not fetched. -/
def execWalkerElementArrival (a b : Nat) (c : LaneMask) (s : State) : Out :=
  match s.team? a with
  | none => .refused (.notEnabled "WALKER_ELEMENT_ARRIVAL")
  | some t =>
    match t.walker? b, s.launch? t.geom.launch with
    | some w, some l =>
      (match w.pos with
       | none => .refused (.notEnabled "WALKER_ELEMENT_ARRIVAL")
       | some p =>
         match (slist s.coh.loads).find? (fun x => x.2.team = a && x.2.walker = some b) with
         | some x =>
           let els := (slist x.2.parts).flatMap (fun y => y.2.elements)
           whenEnabled "WALKER_ELEMENT_ARRIVAL" ((slist x.2.parts).all (fun y => !y.2.st.isWaiting))
             ((s.dropFetch a b).setTeam a (t.setWalker b (some { w with arrived := w.arrived ++ els })))
         | none =>
           let keys := ((lanesOf (t.live &&& c) t.geom.lanes).filter (fun L => !w.arrived.any (fun x => x.1 = L))).filterMap
             (walkKey s l t w p)
           whenEnabled "WALKER_ELEMENT_ARRIVAL" (l.onCore && !keys.isEmpty) (startFetch s a b t w keys))
    | _, _ => .refused (.notEnabled "WALKER_ELEMENT_ARRIVAL")

end Sys2Proof.Machine
end

