-- ==== Sys2Proof/Machine/Export.lean ====
section
/-! DEFINITION. Accesses from outside to the export table of this chip (R324, R325, R326). -/

namespace Sys2Proof.Machine

/-- Outcome of a write into an export. -/
inductive Delivered
  /-- written; the operation that completes when it commits, when it has not yet -/
  | done (op : Option Nat) (s : State)
  /-- waits at the ingress: for its driver, or for room at its home -/
  | wait (s : State)
  | bad
  | fatal

/-- Write cells, keyed by offset in export e, that lie in one sector; `n` bytes from `off` on are checked. -/
def State.exportWrite (s : State) (kind : Option (Nat × Nat) → OpKind) (e off n : Nat) (cells : List (Nat × Byte)) : Delivered :=
  let s := s.exportWalked e off
  match s.exportAt e off n .write with
  | .bank key =>
    if s.bankHeld (key / 64) then .wait s
    else
    let o := s.freshOp (kind none) 0 false
    .done none ((o.2.bankWrite (cells.map (fun c => (key + (c.1 - off), c.2))) true).finishOp o.1)
  | .mem ctx va pa =>
    if s.homeAccepts (pa / 64) then
      let o := s.freshOp (kind (some (ctx, va / 64 * 64))) 0 false
      let s := o.2.homeArrive (pa / 64) ⟨.op, .write (cells.map (fun c => (pa + (c.1 - off), c.2))) o.1⟩
      .done (if s.opLive o.1 then some o.1 else none) s
    else .wait s
  | .replay ctx page => .wait (s.reportFault ctx page 0 true noTeam)
  | .busy => .wait s
  | .bad => .bad
  | .fatal => .fatal

/-- Outcome of a read of an export as a WT read at the home (R165). -/
inductive ExpRead
  | ok (data : List Byte) (poisoned : Bool) (s : State)
  | wait (s : State)
  | bad
  | fatal

/-- Read n bytes, within one sector, of export e for an agent. -/
def State.exportRead (s : State) (who : ReadAgent) (e off n : Nat) : ExpRead :=
  let s := s.exportWalked e off
  match s.exportAt e off n .read with
  | .bank key => .ok (Memory.bytes s.mem key n) (s.poisoned (key / 64)) s
  | .mem _ _ pa =>
    (match s.agentReads who none [pa / 64] with
     | (some ((d, bad, _) :: _), s') => .ok ((d.drop (pa % 64)).take n) bad s'
     | (_, s') => .wait s')
  | .replay ctx page => .wait (s.reportFault ctx page 0 false noTeam)
  | .busy => .wait s
  | .bad => .bad
  | .fatal => .fatal

end Sys2Proof.Machine
end

