-- ==== Sys2Proof/Machine/Atrium.lean ====
section
/-! DEFINITION. The Atriums of the chip: tree tables, the canonical tree, combining, Landing, results, group errors, reducing
loads (R289 to R302). -/

namespace Sys2Proof.Machine

/-! ### The canonical tree and the nodes hosted here (R290 to R292) -/

/-- The nodes of C(a, b), with their ranges; the number bounds the depth. -/
def canonNodes : Nat → Nat → Nat → List (Nat × Nat)
  | 0, _, _ => []
  | d + 1, a, b =>
    if b ≤ a then []
    else
      let h := rankHalf (b - a + 1)
      (a, b) :: (canonNodes d a (a + h - 1) ++ canonNodes d (a + h) b)

/-- The node of this chip with a range, and the one with a child of a range. -/
def State.nodeAt (s : State) (g a b : Nat) : Option TreeNode := (s.nodes g).find? (fun n => n.a = a && n.b = b)
def State.nodeOver (s : State) (g a b : Nat) : Option TreeNode :=
  (s.nodes g).find? (fun n => n.leftRange = (a, b) || n.rightRange = (a, b))

/-- Whether a node is the root of a group. -/
def State.isRoot (s : State) (g : Nat) (n : TreeNode) : Bool := n.a = 0 && n.b + 1 = s.groupSize g

/-- LAND of a group, as positions of a node (R296). -/
def State.landing (s : State) (g : Nat) : Nat := fld (s.treeWord g 0) 0 10 * 16

/-- Number of a node of an operation, as SECTOR_ACCEPT and the tables name it. -/
def nodeKey (group op a b : Nat) : Nat := ((group * 65536 + op) * 1024 + a) * 1024 + b

/-! ### Group errors (R301, R302) -/

/-- The group of the record of an MCAST store's copy. -/
def mcastGroup (key : Nat) (r : Remote) : Option Nat :=
  if 2048 ≤ key / 2 ^ 32 then some ((r.sector - 2 ^ 60) / 2 ^ 52 / 65536 - 1024) else none

/-- A copy to a member cannot be delivered: LOST in its batch, a command's write fails (R298, R301). -/
def State.loseCopy (s : State) (key : Nat) (r : Remote) (code chip : Nat) : State :=
  let s := { s with pod := { s.pod with remotes := oset s.pod.remotes key none } }
  let s := match r.tag with
    | some (tid, tag) =>
      (match (s.team? tid).bind (fun t => oget t.closes tag) with
       | some c => s.loseClose r.chip tid tag c
       | none => s.modTeam tid (fun t => t.losePeer tag r.chip))
    | none => s
  (s.failCmdOp r.opId code chip).finishOp r.opId false

/-- Group of a command that is on one. -/
def Cmd.group? (c : Cmd) : Option Nat :=
  match c.kind with
  | .coll _ _ gh _ _ => some gh.target
  | .mepi _ _ _ _ _ (some (gh, _)) _ _ _ _ _ _ => some gh.target
  | _ => none

/-- Whether a command works on a group, or copies into it. -/
def Cmd.uses (c : Cmd) (g : Nat) : Bool := c.group? = some g || c.slices.any (fun x => x.group? = some g)

/-- Mark a group failed: Landing of it is discarded, its commands fail, its loads and copies are lost. -/
def State.failGroup (s : State) (g chip : Nat) : State :=
  if (s.groupMarked g).isSome then s
  else
    let lost := (slist s.atrium.rloads).filter (fun x => x.2.group = g)
    let s := { s with
      atrium := { s.atrium with
        failed := (g, chip) :: s.atrium.failed
        positions := s.atrium.positions.filter (fun p => p.group ≠ g)
        refusals := s.atrium.refusals.filter (fun r => r.group ≠ g)
        rloads := s.atrium.rloads.filter (fun x => match x.2 with | some r => decide (r.group ≠ g) | none => false)
        partials := s.atrium.partials.filter (fun p => p.group ≠ g)
        lastMove := s.atrium.lastMove.filter (fun x => x.1 / 2 ^ 36 ≠ g)
        memberWaits := s.atrium.memberWaits.filter (fun x => x.1 ≠ g) }
      eng := { s.eng with cmds := smap s.eng.cmds (fun _ c =>
        if c.uses g then
          let part := match c.kind with
            | .coll _ _ _ _ op => decide (0 < sget 0 s.atrium.results (resultKey g op))
            | _ => false
          ({ c with wrote := c.wrote || part } : Cmd).failWith 0x80 chip
        else c) } }
    let s := (lost.foldl (fun s x => s.losePart x.2.load x.2.part chip) s).sendLoads
    (slist s.pod.remotes).foldl (fun s x => if mcastGroup x.1 x.2 = some g then s.loseCopy x.1 x.2 0x80 chip else s) s

/-- A node or member of this chip fails a group: every member and node hears of it. -/
def State.raiseGroupError (s : State) (g chip : Nat) : State :=
  (s.groupChips g).foldl (fun s c => s.sendOut c 0 (.groupError c g)) (s.failGroup g chip)

/-- Whether this chip takes nothing from another: its ports are not trained (R355), that one is declared dead (R331), or it has itself
stopped answering pod traffic (R330). -/
def State.deaf (s : State) (chip : Nat) : Bool :=
  decide (s.mgmt.stage < 3) || s.pod.dead.contains chip || (!s.pod.answering && decide (chip ≠ s.self))

/-- GROUP_ERROR (R302): the group and the chip whose node failed, which sends it. -/
def execGroupError (a b : Nat) (s : State) : Out := .next (if s.pod.dead.contains b then s else s.failGroup a b)

/-! ### Combining (R293) -/

/-- Bytes of an element on its way up the tree: BF16 partials are binary32. -/
def combBytes (rtype : Nat) : Nat := if rtype = 0 ∨ rtype = 1 then 4 else 8

/-- One combination, left operand first. -/
def combine1 (rtype rop x y : Nat) : Nat :=
  if rtype = 3 then (if rop = 0 then iadd 64 x y else if rop = 1 then imin 64 x y else imax 64 x y)
  else
    let f := if rtype = 2 then F64 else F32
    if rop = 0 then (fAdd f rneEnv 0 x y).bits else (fMinMax (rop ≠ 1) f false x y).bits

/-- The elements of w bytes of a list of bytes. -/
def elements (w : Nat) (d : List Byte) : List Nat := (List.range (d.length / w)).map (fun i => dataAt d (w * i) w)

def ofElements (w : Nat) (xs : List Nat) : List Byte := xs.flatMap (leBytes w)

/-- A contribution's bytes widened: bf16 to binary32, exactly. -/
def widenSec (x : GroupSec) : GroupSec :=
  if x.rtype = 0 ∧ !x.wide then { x with wide := true, data := ofElements 4 ((elements 2 x.data).map (· * 65536)) } else x

/-- The final result of the root's value. -/
def final1 (rtype x : Nat) : Nat := if rtype = 0 then (fCvt F32 BF16 rneEnv 0 x).bits else x

def finalSec (x : GroupSec) : GroupSec :=
  if x.wide then { x with wide := false, data := ofElements 2 ((elements 4 x.data).map (final1 0)) } else x

def combineData (rtype rop : Nat) (l r : List Byte) : List Byte :=
  ofElements (combBytes rtype) (((elements (combBytes rtype) l).zip (elements (combBytes rtype) r)).map (fun p => combine1 rtype rop p.1 p.2))

/-! ### Nodes (R295 to R298) -/

def Position.at (p : Position) (g op : Nat) (n : TreeNode) : Bool := p.group = g && p.op = op && p.a = n.a && p.b = n.b
def Position.combined (p : Position) : Bool := p.left && p.right

/-- Whether a node is refusing: its parent has refused a combined sector. -/
def State.refusing (s : State) (g : Nat) (n : TreeNode) : Bool :=
  s.atrium.positions.any (fun p => p.group = g && p.a = n.a && p.b = n.b && p.refused)

def State.positionsUsed (s : State) (g : Nat) (n : TreeNode) : Nat :=
  (s.atrium.positions.filter (fun p => p.group = g && p.a = n.a && p.b = n.b)).length

/-- Whether a node takes a new unmatched sector. -/
def State.nodeFree (s : State) (g : Nat) (n : TreeNode) : Bool := !s.refusing g n && decide (s.positionsUsed g n < s.landing g)

/-- Send the children that a node refused word that it can accept again. -/
def State.signalNode (s : State) (g : Nat) (n : TreeNode) : State :=
  if s.nodeFree g n then
    let mine := fun (r : RefusedChild) => decide (r.group = g ∧ ((r.a, r.b) = n.leftRange ∨ (r.a, r.b) = n.rightRange))
    (s.atrium.refusals.filter mine).foldl (fun s r => s.sendOut r.chip 0 (.groupSignal r.chip g r.op r.a r.b))
      { s with atrium := { s.atrium with refusals := s.atrium.refusals.filter (fun r => !mine r) } }
  else s

/-- A sector of a group leaves for a chip, on the port that its place in the export picks (R321, R327). -/
def State.sendSec (s : State) (chip : Nat) (x : GroupSec) : State := s.sendOut chip (podSector chip x.exp (x.base + x.off)) (.group chip x)

/-- A result sector leaves the root (R298): to one member for COLL.RS, else down through LEFT and RIGHT. -/
def State.rootDeliver (s : State) (n : TreeNode) (x : GroupSec) : State :=
  match x.flow with
  | .reduceScatter =>
    let r := x.off / x.len
    s.sendSec (s.memberChip x.group r) { x with down := true, a := r, b := r, off := x.off - r * x.len }
  | _ =>
    (s.sendSec n.left { x with down := true, a := n.leftRange.1, b := n.leftRange.2 }).sendSec
      n.right { x with down := true, a := n.rightRange.1, b := n.rightRange.2 }

/-- What a node answers to a sector. -/
inductive Taken
  | accepted (s : State)
  | refused (s : State)
  | failed (s : State)

/-- A sector of one child reaches its node (R297). `chip` is the child's. -/
def State.nodeTake (s : State) (n : TreeNode) (x : GroupSec) (chip : Nat) : Taken :=
  let g := x.group
  let isLeft := decide (n.leftRange = (x.a, x.b))
  let x := widenSec x
  let moved := fun (s : State) => { s with atrium := { s.atrium with
    lastMove := sset 0 s.atrium.lastMove (nodeKey g x.op n.a n.b) s.sched.gtc } }
  match s.atrium.positions.find? (fun p => p.at g x.op n && p.off = x.off) with
  | none =>
    if s.nodeFree g n then
      .accepted (moved { s with atrium := { s.atrium with
        positions := s.atrium.positions ++ [⟨g, x.op, n.a, n.b, x.off, x, isLeft, !isLeft, false⟩] } })
    else
      -- the bound of R301 runs from the first sector held or refused
      let idle := !s.atrium.positions.any (fun p => p.group = g && p.op = x.op && p.a = n.a && p.b = n.b)
        && !s.atrium.refusals.any (fun r => r.group = g && r.op = x.op && ((r.a, r.b) = n.leftRange || (r.a, r.b) = n.rightRange))
      let s := if idle then moved s else s
      .refused { s with atrium := { s.atrium with
        refusals := if s.atrium.refusals.contains ⟨g, x.op, x.a, x.b, chip⟩ then s.atrium.refusals
          else s.atrium.refusals ++ [⟨g, x.op, x.a, x.b, chip⟩] } }
  | some p =>
    let y := p.sec
    if p.combined || (isLeft && p.left) || (!isLeft && p.right) || y.flow ≠ x.flow || y.rtype ≠ x.rtype || y.rop ≠ x.rop
        || y.base ≠ x.base || y.exp ≠ x.exp then
      .failed (s.raiseGroupError g s.self)
    else
      let d := if isLeft then combineData x.rtype x.rop x.data y.data else combineData x.rtype x.rop y.data x.data
      let z : GroupSec := { y with a := n.a, b := n.b, src := s.self, data := d }
      let rest := s.atrium.positions.filter (fun q => !(q.at g x.op n && q.off = x.off))
      if s.isRoot g n then
        .accepted (((moved { s with atrium := { s.atrium with positions := rest } }).rootDeliver n (finalSec z)).signalNode g n)
      else
        .accepted (moved { s with atrium := { s.atrium with positions := rest ++ [{ p with sec := z, left := true, right := true }] } })

def flowCombines : Flow → Bool
  | .allReduce => true
  | .reduceScatter => true
  | .send => true
  | .allGather => false
  | .bcast => false
  | .store => false

/-- A sector on its way up from this chip: to the node over it, or straight to ROOT; a one-member group's result is its
contribution (R293, R298). Answers whether it is accepted; a node on another chip accepts it with this event. -/
def State.sendUp (s : State) (x : GroupSec) (up : Nat) : Taken :=
  if s.groupSize x.group = 1 then
    .accepted (s.sendSec s.self { x with down := true, a := 0, b := 0 })
  else if !flowCombines x.flow then .accepted (s.sendSec (s.groupRoot x.group) x)
  else if up = s.self then
    (match s.nodeOver x.group x.a x.b with
     | some n => s.nodeTake n x s.self
     | none => .failed (s.raiseGroupError x.group s.self))
  else .accepted (s.sendSec up x)

def State.leafUp (s : State) (g : Nat) : Nat := fld (s.treeWord g 0) 22 10

/-- The sector a command offers at an offset, with its bytes read; the state when there is none to offer now. -/
inductive Offer
  | sec (x : GroupSec) (s : State)
  | none
  | not (s : State)
  deriving DecidableEq

def offerOf (s : State) (cid off : Nat) : Offer :=
  match s.cmd? cid with
  | none => .none
  | some c =>
    match s.launch? c.launch with
    | none => .none
    | some l =>
      if !mayOffer l c off || c.refused then .none
      else
        match contribution s l cid c off with
        | none => .none
        | some (io, fn) =>
          match io with
          | .ok d s' => .sec (fn d) s'
          | r => .not (ioStop s l cid c c.team r).2

/-- The combined position that a node number and offset name. -/
def State.positionOf (s : State) (key off : Nat) : Option Position :=
  s.atrium.positions.find? (fun p => decide (nodeKey p.group p.op p.a p.b = key) && p.off = off && p.combined && !p.refused)

/-- SECTOR_ACCEPT (R271, R295, R297): a contribution of command `a`, or the combined sector of node `a - 2^64`, is accepted. -/
def execSectorAccept (a b : Nat) (s : State) : Out :=
  if a < 2 ^ 64 then
    match offerOf s a b with
    | .none => .refused (.notEnabled "SECTOR_ACCEPT")
    | .not s' => .next s'
    | .sec x s' =>
      match s'.sendUp x (s'.leafUp x.group) with
      | .accepted s'' => .next (noteAccepted s'' a b)
      | .refused _ => .refused (.notEnabled "SECTOR_ACCEPT")
      | .failed s'' => .next s''
  else
    match s.positionOf (a - 2 ^ 64) b with
    | none => .refused (.notEnabled "SECTOR_ACCEPT")
    | some p =>
      match s.nodeAt p.group p.a p.b with
      | none => .refused (.notEnabled "SECTOR_ACCEPT")
      | some n =>
        match s.sendUp p.sec n.parent with
        | .accepted s' =>
          .next (({ s' with atrium := { s'.atrium with
            positions := s'.atrium.positions.filter (· ≠ p)
            lastMove := sset 0 s'.atrium.lastMove (a - 2 ^ 64) s'.sched.gtc } }).signalNode p.group n)
        | .refused _ => .refused (.notEnabled "SECTOR_ACCEPT")
        | .failed s' => .next s'

/-- SECTOR_REFUSE (R275, R297): nothing of the sector is left in the fabric; the sender offers no more until it is signalled. A node
on this chip refuses only when it has to. -/
def execSectorRefuse (a b : Nat) (s : State) : Out :=
  if a < 2 ^ 64 then
    match offerOf s a b with
    | .none => .refused (.notEnabled "SECTOR_REFUSE")
    | .not s' => .next s'
    | .sec x _ =>
      let mark := fun (s : State) => s.modCmd a (fun c => { c with refused := true })
      if s.groupSize x.group = 1 ∨ !flowCombines x.flow then .refused (.notEnabled "SECTOR_REFUSE")
      else if s.leafUp x.group = s.self then
        (match s.sendUp x s.self with
         | .refused s' => .next (mark s')
         | .accepted _ => .refused (.notEnabled "SECTOR_REFUSE")
         | .failed s' => .next s')
      else .next (mark s)
  else
    match s.positionOf (a - 2 ^ 64) b with
    | none => .refused (.notEnabled "SECTOR_REFUSE")
    | some p =>
      match s.nodeAt p.group p.a p.b with
      | none => .refused (.notEnabled "SECTOR_REFUSE")
      | some n =>
        let mark := fun (s : State) => { s with atrium := { s.atrium with
          positions := s.atrium.positions.map (fun q => if q = p then { q with refused := true } else q) } }
        if n.parent = s.self then
          (match s.sendUp p.sec n.parent with
           | .refused s' => .next (mark s')
           | .accepted _ => .refused (.notEnabled "SECTOR_REFUSE")
           | .failed s' => .next s')
        else .next (mark s)

/-- ACCEPT_SIGNAL (R297): the parent of ranks `c` to `d` of an operation can accept; a node that was refusing signals its own
children in turn. -/
def execAcceptSignal (a b c d : Nat) (s : State) : Out :=
  if c = d then
    .next { s with eng := { s.eng with cmds := smap s.eng.cmds (fun _ x =>
      match x.kind with
      | .coll _ _ gh _ op => if gh.target = a ∧ op = b then { x with refused := false } else x
      | .mepi _ _ _ _ _ (some (gh, op)) _ _ _ _ _ _ => if gh.target = a ∧ op = b then { x with refused := false } else x
      | _ => x) } }
  else
    let s' := { s with atrium := { s.atrium with positions := s.atrium.positions.map (fun p =>
      if p.group = a ∧ p.op = b ∧ p.a = c ∧ p.b = d then { p with refused := false } else p) } }
    match s.nodeAt a c d with
    | some n => .next (s'.signalNode a n)
    | none => .next s'

/-- The chip of a node's child. -/
def childChip (n : TreeNode) (x : GroupSec) : Nat := if n.leftRange = (x.a, x.b) then n.left else n.right

/-- GROUP_SECTOR (R291, R295, R297, R298): a sector from another chip, or a result on its way down, reaches this chip. -/
def execGroupSector (a : GroupSec) (s : State) : Out :=
  if (s.groupFailed a.group).isSome || s.deaf a.src then .next s
  else if !s.groupValid a.group then .next (s.raiseGroupError a.group s.self)
  else if a.down then
    (match s.nodeAt a.group a.a a.b with
     | some n => .next (s.rootDeliver n a)
     | none => if a.a = a.b then .refused (.notEnabled "GROUP_SECTOR") else .next (s.raiseGroupError a.group s.self))
  else if !flowCombines a.flow then
    (if s.groupSize a.group = 1 then .next (s.sendSec s.self { a with down := true, a := 0, b := 0 })
     else
       match (s.nodes a.group).find? (s.isRoot a.group) with
       | some n => .next (s.rootDeliver n a)
       | none => .next (s.raiseGroupError a.group s.self))
  else
    match s.nodeOver a.group a.a a.b with
    | none => .next (s.raiseGroupError a.group s.self)
    | some n =>
      match s.nodeTake n a (childChip n a) with
      | .accepted s' => .next (s'.sendOut (childChip n a) 0 (.groupAccept (childChip n a) a.group a.op a.a a.b a.off))
      | .refused s' => .next (s'.sendOut (childChip n a) 0 (.groupRefuse (childChip n a) a.group a.op a.a a.b a.off))
      | .failed s' => .next s'

/-! ### Results at a member (R298) -/

/-- The COLL command of this chip that a result belongs to. -/
def State.collOf (s : State) (g op : Nat) : Option Nat :=
  ((slist s.eng.cmds).find? (fun c => match c.2.kind with
    | .coll _ _ gh _ o => decide (gh.target = g ∧ o = op)
    | _ => false)).map (·.1)

/-- Enabled bytes of a sector with their offsets in the export. -/
def secCells (x : GroupSec) : List (Nat × Byte) :=
  (List.range 64).filterMap (fun i => if x.bytes.testBit i then some (x.base + x.off + i, (x.data[i]?).getD 0) else none)

/-- A member refuses a sector: a store's sender hears of it, any other flow is a group error. -/
def State.refuseResult (s : State) (x : GroupSec) (e : RemoteEnd) : State :=
  if x.flow = .store then s.answerCopy (x.src, x.op, x.batch) e else s.raiseGroupError x.group s.self

/-- Note a delivered sector of a COLL. -/
def State.noteResult (s : State) (x : GroupSec) (live : Option Nat) : State :=
  match x.flow with
  | .send => s
  | .store => s
  | _ =>
    let k := resultKey x.group x.op
    let s := { s with atrium := { s.atrium with results := sset 0 s.atrium.results k (sget 0 s.atrium.results k + 64) } }
    match s.collOf x.group x.op with
    | some c => s.modCmd c (fun c => { c with
        since := s.sched.gtc
        writes := match live with | some o => o :: c.writes | none => c.writes
        wrote := true })
    | none => s

/-- A member's driver is asked for a page on behalf of an operation: the wait counts towards the stall bound (R298, R301). -/
def State.noteWait (s : State) (g op : Nat) : State :=
  if s.atrium.memberWaits.any (fun x => x.1 = g && x.2.1 = op) then s
  else { s with atrium := { s.atrium with memberWaits := s.atrium.memberWaits ++ [(g, op, s.sched.gtc)] } }
def State.endWait (s : State) (g op : Nat) : State :=
  { s with atrium := { s.atrium with memberWaits := s.atrium.memberWaits.filter (fun x => !(x.1 = g && x.2.1 = op)) } }

/-- Whether bytes of an export lie in a page that is not resident. -/
def State.exportWaits (s : State) (e off n : Nat) (acc : Acc) : Bool :=
  match (s.exportWalked e off).exportAt e off n acc with
  | .replay .. => true
  | _ => false

/-- The span of a sector's enabled bytes in its export: first offset and length. -/
def secSpan (x : GroupSec) : Nat × Nat :=
  let cells := secCells x
  let lo := ((cells.head?).map (·.1)).getD (x.base + x.off)
  (lo, ((cells.getLast?).map (·.1)).getD lo + 1 - lo)

/-- Deliver a result, with whether it is over; it waits for its page or for room at its home. A sealed payload that fails its tag is
discarded (R299). -/
def State.landResult (s : State) (a : GroupSec) : Bool × State :=
  let sp := secSpan a
  let other := OpKind.delivery (if a.flow = .store then some (a.src, a.op, a.batch) else none)
  let kind := fun (w : Option (Nat × Nat)) =>
    match s.collOf a.group a.op with
    | some c => if a.flow = .store ∨ a.flow = .send then other w else OpKind.cmdWrite c w
    | none => other w
  if !a.tagOk then (true, if a.flow = .store then s.answerCopy (a.src, a.op, a.batch) .discarded else s)
  else
    match s.exportWrite kind a.exp sp.1 sp.2 (secCells a) with
    | .done live s' => (true, (s'.noteResult a live).endWait a.group a.op)
    | .wait s' => (false, if s.exportWaits a.exp sp.1 sp.2 .write then s'.noteWait a.group a.op else s')
    | .bad => (true, s.refuseResult a .refusedExport)
    | .fatal => (true, s.refuseResult a .refusedXlate)

/-- The request that the copy of an MCAST store stands for at a member (R328). -/
def copyRequest (a : GroupSec) : RemoteReq :=
  let sp := secSpan a
  ⟨a.src, a.op, a.exp, sp.1, sp.2, .write ((secCells a).map (fun c => (c.1 % 64, c.2))), false, a.batch, a.tagOk⟩

/-- RESULT_SECTOR (R152, R298, R325, R328, R329): a result reaches this member and is delivered as a remote write. The copy of a store is
received once, and takes a batch record. -/
def execResultSector (a : GroupSec) (s : State) : Out :=
  if (s.groupFailed a.group).isSome || s.deaf a.src then .next s
  else if !s.groupValid a.group || !s.groupMember a.group then .next (s.raiseGroupError a.group s.self)
  else if a.flow = .store then
    match oget s.pod.served (memberKey a.src a.op) with
    | some x => .next (s.answerAgain a.src a.op x)
    | none =>
      if !s.recordFree a.src a.batch then .next s
      else
        let s1 := { s with pod := { s.pod with
          served := oset s.pod.served (memberKey a.src a.op) (some ⟨copyRequest a, none, s.sched.gtc, false⟩) } }
        let r := ((s1.openRecord a.src a.batch).podEmit (.receipt a.src a.op)).landResult a
        .next (if r.1 then r.2 else (s.landResult a).2)
  else .next (s.landResult a).2

/-! ### Stalls (R272, R301) -/

/-- Whether an operation has waited for this member's driver for 1 s (R298, R301), or its COLL.AG or COLL.BC has moved no sector here
for as long: no node holds anything of it (R272, R285). -/
def State.memberStalled (s : State) (g op : Nat) : Bool :=
  s.atrium.memberWaits.any (fun x => x.1 = g && x.2.1 = op && decide (x.2.2 + 1000000000 ≤ s.sched.gtc)) || (slist s.eng.cmds).any (fun c => match c.2.kind with
    | .coll form _ gh _ o => decide (gh.target = g ∧ o = op ∧ 2 ≤ form) && !c.2.joining && c.2.fail.isNone
        && decide (c.2.since + 1000000000 ≤ s.sched.gtc)
    | _ => false)

/-- GROUP_STALL_TIMEOUT: a node has moved nothing of an operation for 1 s while a position of it is held or refused; of ranks `c` = `d`,
this member's own AG or BC has stalled. -/
def execGroupStallTimeout (a b c d : Nat) (s : State) : Out :=
  if c = d then
    whenEnabled "GROUP_STALL_TIMEOUT" (s.groupMember a && s.groupRank a = c && s.memberStalled a b) (s.raiseGroupError a s.self)
  else
    match s.nodeAt a c d with
    | none => .refused (.notEnabled "GROUP_STALL_TIMEOUT")
    | some n =>
      let mine := fun (p : Position) => decide (p.group = a ∧ p.op = b ∧ p.a = c ∧ p.b = d)
      let stuck := s.atrium.positions.any (fun p => mine p && (!p.combined || p.refused))
        || s.atrium.refusals.any (fun r => r.group = a && r.op = b && ((r.a, r.b) = n.leftRange || (r.a, r.b) = n.rightRange))
      whenEnabled "GROUP_STALL_TIMEOUT"
        (stuck && decide (sget 0 s.atrium.lastMove (nodeKey a b c d) + 1000000000 ≤ s.sched.gtc))
        (s.raiseGroupError a s.self)

/-! ### Reducing loads (R298) -/

/-- A member's bytes as they go up the tree: BF16 widened, but in a group of one (R293). -/
def memberVal (rtype p : Nat) (d : List Byte) : Word := BitVec.ofNat 64 (if rtype = 0 ∧ p ≠ 1 then leNat d * 65536 else leNat d)

/-- Two children's values as their node combines them; a read that one of them refused stays refused. -/
def combineVals (rtype rop : Nat) : LoadVal → LoadVal → LoadVal
  | .val x p, .val y q => .val (BitVec.ofNat 64 (combine1 rtype rop x.toNat y.toNat)) (p || q)
  | .refused c, _ => .refused c
  | _, .refused c => .refused c

/-- The value of a whole group as its loading lane takes it (R293). -/
def finalVal (rtype p : Nat) : LoadVal → LoadVal
  | .val x q => .val (BitVec.ofNat 64 (if p = 1 then x.toNat else final1 rtype x.toNat)) q
  | .refused c => .refused c

/-- A value goes up: the whole group's to the loading chip, another to the chip of the node over it. -/
def State.valueUp (s : State) (q : GroupLoad) (a b up : Nat) (v : LoadVal) : State :=
  let p := s.groupSize q.group
  if a = 0 ∧ b + 1 = p then s.sendOut q.chip 0 (.loadValue q.chip q a b (finalVal q.rtype p v)) else s.sendOut up 0 (.loadValue up q a b v)

/-- REDUCING_LOAD_REQUEST: a request for ranks `e` to `f` goes down from its node to the node's children; a member reads its bytes at
its home. -/
def execReducingLoadRequest (a : GroupLoad) (b c d e f : Nat) (s : State) : Out :=
  let g := a.group
  if (s.groupFailed g).isSome || s.deaf a.chip then .next s
  else if !s.groupValid g then .next (s.raiseGroupError g s.self)
  else if e < f then
    match s.nodeAt g e f with
    | none => .next (s.raiseGroupError g s.self)
    | some n =>
      -- ROOT tells the loading chip that it has the request (R328)
      let s := if s.isRoot g n then s.sendOut a.chip 0 (.receipt a.chip a.seq) else s
      .next ((s.sendOut n.left 0 (.loadRequest n.left a b c d n.leftRange.1 n.leftRange.2)).sendOut
        n.right 0 (.loadRequest n.right a b c d n.rightRange.1 n.rightRange.2))
  else if s.groupMember g && s.groupRank g = e then
    let up := fun (s : State) (v : LoadVal) => s.valueUp a e e (s.leafUp g) v
    match s.exportRead (.net 0 a.chip a.seq g) b c d with
    | .ok x p s' => .next (up (s'.endWait g a.seq) (.val (memberVal a.rtype (s.groupSize g) x) p))
    | .wait s' => .next (if s.exportWaits b c d .read then s'.noteWait g a.seq else s')
    | .bad => .next (up s (.refused s.self))
    | .fatal => .next (up s (.refused s.self))
  else .next (s.raiseGroupError g s.self)

/-- The loading lane takes its value. -/
def State.takeLoadVal (s : State) (b : Nat) (r : RLoad) (v : LoadVal) : State :=
  let s := { s with atrium := { s.atrium with rloads := oset s.atrium.rloads b none } }
  (match v with
   | .val w p => s.modPart r.load r.part (fun _ x => { x with st := if p then .poisoned [w] else .ready [w] })
   | .refused c => s.losePart r.load r.part c).sendLoads

/-- REDUCING_LOAD_VALUE: the value of the ranks of `b` reaches its node, which combines the pair and sends it up, or the loading
chip. -/
def execReducingLoadValue (a : GroupLoad) (b : Nat × Nat) (c : LoadVal) (s : State) : Out :=
  let g := a.group
  if (s.groupFailed g).isSome || s.deaf a.chip then .next s
  else if b.1 = 0 ∧ b.2 + 1 = s.groupSize g ∧ a.chip = s.self then
    match oget s.atrium.rloads a.seq with
    | none => .next s
    | some r => .next (s.takeLoadVal a.seq r c)
  else
    match s.nodeOver g b.1 b.2 with
    | none => .next (s.raiseGroupError g s.self)
    | some n =>
      let isLeft := decide (n.leftRange = b)
      let other := if isLeft then n.rightRange else n.leftRange
      match s.atrium.partials.find? (fun p => p.chip = a.chip && p.seq = a.seq && p.group = g && (p.a, p.b) = other) with
      | none => .next { s with atrium := { s.atrium with
          partials := s.atrium.partials ++ [⟨a.chip, a.seq, g, b.1, b.2, c⟩] } }
      | some p =>
        let s := { s with atrium := { s.atrium with partials := s.atrium.partials.filter (· ≠ p) } }
        .next (s.valueUp a n.a n.b n.parent
          (if isLeft then combineVals a.rtype a.rop c p.val else combineVals a.rtype a.rop p.val c))

/-! ### Tree tables (R290, R291, R296) -/

/-- Bytes of a position of a group (R296). Which groups are BF16 groups no table says (log 30). -/
def positionBytes (g : Nat) : Nat := if Config.groupBf16 g then 128 else 64

/-- Landing bytes that a die's valid nodes need, with the entry of group g taken from `w`. -/
def landNeed (s : State) (g : Nat) (w : List Word) (die : Nat) : Nat :=
  ((List.range 256).map (fun i =>
    let e := if i = g then w else (List.range 8).map (s.treeWord i)
    let w0 := (e[0]?).getD 0
    if w0.getLsbD 63 then ((entryNodes e).filter (fun n => n.die = die)).length * (fld w0 0 10 * 16 * positionBytes i) else 0)).sum

/-- Whether an entry may be set valid (R291). -/
def treeEntryOk (s : State) (g : Nat) (w : List Word) : Bool :=
  let w0 := (w[0]?).getD 0
  let p := fld w0 42 10 + 1
  let member := w0.getLsbD 62
  let ns := entryNodes w
  let ranges := ns.map (fun n => (n.a, n.b))
  fld w0 10 11 = 0 && (w.drop 5).all (· = 0) && decide (w.length = 8)
    && ((w.drop 1).take 4).all (fun x => fld x 60 2 = 0 && fld x 0 9 = 0)
    && (if member then decide (fld w0 32 10 < p) else fld w0 32 10 = 0 && ns.isEmpty)
    && (if p = 1 then ns.isEmpty && decide (fld w0 52 10 = s.self) && fld w0 22 10 = 0 && fld w0 21 1 = 0 else true)
    && ranges.all (fun r => (canonNodes 11 0 (p - 1)).contains r) && decide (ranges.Nodup)
    && ns.all (fun n => n.a ≠ 0 || n.b + 1 ≠ p || n.parent = 0)
    && (ns.isEmpty || fld w0 0 10 ≠ 0)
    && [0, 1].all (fun d => decide (landNeed s g w d ≤ min (Config.landingWays d s.alloc.placed) 4 * 6 * 2 ^ 20))

/-- The bits of a word of an entry that are not reserved (R6, R290). -/
def treeMask (i : Nat) : Word := if i = 0 then 0xFFFFFFFFFFE003FF#64 else if i ≤ 4 then 0xCFFFFFFFFFFFFE00#64 else 0

/-- Write the eight words of an entry; reserved bits are not kept. -/
def State.putTree (s : State) (g : Nat) (w : List Word) : State :=
  (List.range 8).foldl (fun s i => s.setBar0 (0x200000 + 64 * g + 8 * i) ((w[i]?).getD 0 &&& treeMask i)) s

/-- Whether an operation of a group is in progress on this chip. -/
def State.groupBusy (s : State) (g : Nat) : Bool :=
  s.atrium.positions.any (fun p => p.group = g) || (slist s.eng.cmds).any (fun c => c.2.uses g)
    || (slist s.atrium.rloads).any (fun x => x.2.group = g) || s.atrium.partials.any (fun p => p.group = g) || (slist s.pod.remotes).any (fun x => mcastGroup x.1 x.2 = some g)

/-- A write of a tree-table entry (R290, R291, R301, R302): one that breaks a rule is ignored; setting VALID afresh ends a failure
of the group and starts its numbers anew (log 31). -/
def State.treeWrite (s : State) (a : Nat) (b : List Word) : State :=
  let set := ((b[0]?).getD 0).getLsbD 63
  if 256 ≤ a ∨ (set ∧ !treeEntryOk s a b) then s
  else if set then
    let s' := s.putTree a b
    if s.groupValid a then s'
    else { s' with atrium := { s'.atrium with
      failed := s'.atrium.failed.filter (fun x => x.1 ≠ a)
      nextOp := sset 0 s'.atrium.nextOp a 0
      results := s'.atrium.results.filter (fun x => x.1 / 65536 ≠ a) } }
  else if s.groupValid a ∧ s.groupBusy a then (s.raiseGroupError a s.self).putTree a b
  else s.putTree a b

/-- TREE_TABLE_WRITE; in Stage A only the management region works (R355). -/
def execTreeTableWrite (a : Nat) (b : List Word) (s : State) : Out := .next (if s.mgmt.stage < 2 then s else s.treeWrite a b)

end Sys2Proof.Machine
end

