-- ==== Sys2Proof/Machine/Fetch.lean ====
section
/-! DEFINITION. Fetching an instruction's words (R9, R11, R26, R27, R33). -/

namespace Sys2Proof.Machine

/-- What fetching one word answers. -/
inductive FetchRes
  | word (w : Nat)
  /-- outside the launch's code segment (R11) -/
  | bounds
  | replay
  | fatal
  /-- the home of a sector that it reads is busy -/
  | busy
  deriving DecidableEq, Repr

/-- The word at `va` of a launch's code (R11), translated in the launch's context for core `c`. -/
def fetchWord (s : State) (l : Launch) (c : Nat) (va : Nat) : FetchRes :=
  if l.lr.code ≤ va ∧ va + 4 ≤ l.lr.code + l.lr.codeLen then
    match xlNow s (coreUnit c) l.ctx va .read with
    | (.page .., pa) => if s.homeBusy (pa / 64) then .busy else .word (leNat (s.peek pa 4))
    | (.replay .., _) => .replay
    | (.fatal, _) => .fatal
    | (.busy, _) => .busy
  else .bounds

/-- What looking at the last word of a loop body finds. -/
inductive BodyEnd
  | good
  /-- a prefix or the first word of a command -/
  | bad
  /-- a word of the body lies in a page that is not resident -/
  | replay (va : Nat)
  | busy
  deriving DecidableEq, Repr

/-- Whether the last word of a loop body is a prefix or the first word of a command (R19), the body's units being taken in order
from `va`; no word after the body is fetched (log 130). Words that cannot be fetched at all leave the loop as it is: their own fetch
traps (log 50). -/
def bodyEnd (s : State) (l : Launch) (c : Nat) (last : Nat) : Nat → Nat → BodyEnd
  | 0, _ => .good
  | n + 1, va =>
    if last < va then .good
    else
    match fetchWord s l c va with
    | .word w =>
      if va = last then (if isPrefix w || isCmd w then .bad else .good)
      else bodyEnd s l c last n (va + (if isPrefix w || isCmd w then 8 else 4))
    | .replay => .replay va
    | .bounds => .good
    | .fatal => .good
    | .busy => .busy

/-- What fetching and decoding the unit at `va` answers. -/
inductive UnitRes
  | unit (i : Instr)
  /-- a decode or fetch trap: length of the unit, code, TRAPINFO (R33) -/
  | trap (len code : Nat) (info : Word)
  /-- a page of the code is not resident -/
  | replay (va : Nat)
  /-- a sector cannot be read yet -/
  | busy
  deriving DecidableEq, Repr

/-- A fetch that gave no word: outside the segment BOUNDS with the fetch address (R11). Where its page faults, which R307 does not
speak of, the arm parks and the page is reported as for a lane access, and a fatal answer traps XLATE_FATAL with the fetch address
(DESIGN CHOICE, log 50). -/
def fetchFail (r : FetchRes) (len a : Nat) : UnitRes :=
  match r with
  | .replay => .replay a
  | .busy => .busy
  | .fatal => .trap len Code.xlateFatal (BitVec.ofNat 64 a)
  | .bounds => .trap len Code.bounds (BitVec.ofNat 64 a)
  | .word _ => .trap len Code.bounds (BitVec.ofNat 64 a)

/-- A decoding as a unit or a trap; a word that needs a second one and has none is no instruction. -/
def unitOf (len w : Nat) (d : Except DecodeErr Instr) : UnitRes :=
  match d with
  | .ok i => .unit i
  | .error (.illop info) => .trap len Code.illop info
  | .error (.prefixBad info) => .trap len Code.pfx info
  | .error .more => .trap len Code.illop (BitVec.ofNat 64 w)

/-- The last check of a unit's decoding, before any register is looked at (R33): a LOOP whose body, inside the code segment, ends
in a prefix or in the first word of a command is no instruction (R19). -/
def checkBody (s : State) (l : Launch) (c : Nat) (va : Nat) (i : Instr) : UnitRes :=
  match i with
  | .loop _ len =>
    let last := va + 4 * len.toNat
    if l.lr.code ≤ last ∧ last + 4 ≤ l.lr.code + l.lr.codeLen then
      (match bodyEnd s l c last len.toNat (va + 4) with
       | .good => .unit i
       | .bad => .trap 4 Code.illop (unitWords i)
       | .replay p => .replay p
       | .busy => .busy)
    else .unit i
  | _ => .unit i

/-- The unit that one or two words at `va` are (R26, R27, R33). -/
def decodeAt (s : State) (l : Launch) (c : Nat) (va w : Nat) : UnitRes :=
  if decode w none = .error .more then
    (match fetchWord s l c (va + 4) with
     | .word w1 => unitOf 8 w (decode w (some w1))
     | r => fetchFail r 8 (va + 4))
  else unitOf (if isPrefix w || isCmd w then 8 else 4) w (decode w none)

/-- The unit at `va`: one word, or a prefix or command pair. -/
def fetchUnit (s : State) (l : Launch) (c : Nat) (va : Nat) : UnitRes :=
  match fetchWord s l c va with
  | .word w =>
    (match decodeAt s l c va w with
     | .unit i => checkBody s l c va i
     | r => r)
  | r => fetchFail r 4 va

/-- Bytes of the unit at which an arm waits. -/
def unitLenAt (s : State) (l : Launch) (c : Nat) (pc : Nat) : Nat :=
  match fetchUnit s l c pc with
  | .unit i => unitBytes i
  | .trap len _ _ => len
  | .replay _ => 4
  | .busy => 4

/-- The state in which a word at `va` has been fetched: what its walk and it itself read has been published (R161, R350). -/
def State.wordFetched (s : State) (l : Launch) (c : Nat) (va : Nat) : State :=
  if l.lr.code ≤ va ∧ va + 4 ≤ l.lr.code + l.lr.codeLen then
    let s := s.walked (coreUnit c) l.ctx va
    match xlNow s (coreUnit c) l.ctx va .read with
    | (.page .., pa) => s.publishNow (pa / 64)
    | _ => s
  else s

/-- The words that fetching the unit at `va` reads: its own, and of a LOOP the last of its body with those before it. -/
def unitReads (s : State) (l : Launch) (c : Nat) (va : Nat) : List Nat :=
  match fetchUnit s l c va with
  | .unit (.loop _ len) => (List.range (len.toNat + 1)).map (fun i => va + 4 * i)
  | .unit i => (encode i).zipIdx.map (fun x => va + 4 * x.2)
  | .trap len _ _ => if len = 8 then [va, va + 4] else [va]
  | .replay _ => [va]
  | .busy => []

/-- The state in which the unit at `va` has been fetched. -/
def State.unitFetched (s : State) (l : Launch) (c : Nat) (va : Nat) : State := (unitReads s l c va).foldl (fun s a => s.wordFetched l c a) s

end Sys2Proof.Machine
end

