-- ==== Sys2Proof/Machine/LaneInt.lean ====
section
/-! DEFINITION. Lane integer, logic, comparison, predicate and selection instructions (R45 to R54). -/

namespace Sys2Proof.Machine

/-- ADD (R47). -/
def execAdd (f : LR) (s : State) : Out :=
  laneBin (.add f) f.pg f.vd f.va f.vb f.ta f.tb (ew2 f.ty.bits (iadd f.ty.bits)) s

/-- SUB (R47). -/
def execSub (f : LR) (s : State) : Out :=
  laneBin (.sub f) f.pg f.vd f.va f.vb f.ta f.tb (ew2 f.ty.bits (isub f.ty.bits)) s

/-- MUL (R47). -/
def execMul (f : LR) (s : State) : Out :=
  laneBin (.mul f) f.pg f.vd f.va f.vb f.ta f.tb (ew2 f.ty.bits (imul f.ty.bits)) s

/-- MAD: vd is also a source (R47). -/
def execMad (f : LR) (s : State) : Out :=
  laneTer (.mad f) f.pg f.vd f.va f.vb f.ta f.tb (ew3 f.ty.bits (imad f.ty.bits)) s

/-- MIN (R47). -/
def execMin (f : LR) (s : State) : Out :=
  laneBin (.min f) f.pg f.vd f.va f.vb f.ta f.tb (ew2 f.ty.bits (imin f.ty.bits)) s

/-- MAX (R47). -/
def execMax (f : LR) (s : State) : Out :=
  laneBin (.max f) f.pg f.vd f.va f.vb f.ta f.tb (ew2 f.ty.bits (imax f.ty.bits)) s

/-- MINN (R47). -/
def execMinn (f : LR) (s : State) : Out :=
  laneBin (.minn f) f.pg f.vd f.va f.vb f.ta f.tb (ew2 f.ty.bits iminn) s

/-- MAXN (R47). -/
def execMaxn (f : LR) (s : State) : Out :=
  laneBin (.maxn f) f.pg f.vd f.va f.vb f.ta f.tb (ew2 f.ty.bits imaxn) s

/-- AND: the same for every ty (R47, R17). -/
def execAnd (f : LR) (s : State) : Out :=
  laneBin (.and f) f.pg f.vd f.va f.vb f.ta f.tb (· &&& ·) s

/-- OR: the same for every ty (R47, R17). -/
def execOr (f : LR) (s : State) : Out :=
  laneBin (.or f) f.pg f.vd f.va f.vb f.ta f.tb (· ||| ·) s

/-- XOR: the same for every ty (R47, R17). -/
def execXor (f : LR) (s : State) : Out :=
  laneBin (.xor f) f.pg f.vd f.va f.vb f.ta f.tb (· ^^^ ·) s

/-- ANDN: the same for every ty (R47, R17). -/
def execAndn (f : LR) (s : State) : Out :=
  laneBin (.andn f) f.pg f.vd f.va f.vb f.ta f.tb (fun a b => a &&& ~~~b) s

/-- SHL (R47). -/
def execShl (f : LR) (s : State) : Out :=
  laneBin (.shl f) f.pg f.vd f.va f.vb f.ta f.tb (ew2 f.ty.bits (ishl f.ty.bits)) s

/-- SHR (R47). -/
def execShr (f : LR) (s : State) : Out :=
  laneBin (.shr f) f.pg f.vd f.va f.vb f.ta f.tb (ew2 f.ty.bits (ishr f.ty.bits)) s

/-- SAR (R47). -/
def execSar (f : LR) (s : State) : Out :=
  laneBin (.sar f) f.pg f.vd f.va f.vb f.ta f.tb (ew2 f.ty.bits (isar f.ty.bits)) s

/-- MULH (R48). -/
def execMulh (f : LF) (s : State) : Out :=
  laneBin (.mulh f) f.pg f.vd f.va f.vb false false (ew2 f.ty.bits (imulh f.ty.bits)) s

/-- MULHN (R48). -/
def execMulhn (f : LF) (s : State) : Out :=
  laneBin (.mulhn f) f.pg f.vd f.va f.vb false false (ew2 f.ty.bits (imulhn f.ty.bits)) s

/-- DIV (R48). -/
def execDiv (f : LF) (s : State) : Out :=
  laneBin (.div f) f.pg f.vd f.va f.vb false false (ew2 f.ty.bits (idiv f.ty.bits)) s

/-- DIVN (R48). -/
def execDivn (f : LF) (s : State) : Out :=
  laneBin (.divn f) f.pg f.vd f.va f.vb false false (ew2 f.ty.bits (idivn f.ty.bits)) s

/-- REM (R48). -/
def execRem (f : LF) (s : State) : Out :=
  laneBin (.rem f) f.pg f.vd f.va f.vb false false (ew2 f.ty.bits (irem f.ty.bits)) s

/-- REMN (R48). -/
def execRemn (f : LF) (s : State) : Out :=
  laneBin (.remn f) f.pg f.vd f.va f.vb false false (ew2 f.ty.bits iremn) s

/-- ADDS (R48). -/
def execAdds (f : LF) (s : State) : Out :=
  laneBin (.adds f) f.pg f.vd f.va f.vb false false (ew2 f.ty.bits (iadds f.ty.bits)) s

/-- SUBS (R48). -/
def execSubs (f : LF) (s : State) : Out :=
  laneBin (.subs f) f.pg f.vd f.va f.vb false false (ew2 f.ty.bits (isubs f.ty.bits)) s

/-- ADDSN (R48). -/
def execAddsn (f : LF) (s : State) : Out :=
  laneBin (.addsn f) f.pg f.vd f.va f.vb false false (ew2 f.ty.bits (iaddsn f.ty.bits)) s

/-- SUBSN (R48). -/
def execSubsn (f : LF) (s : State) : Out :=
  laneBin (.subsn f) f.pg f.vd f.va f.vb false false (ew2 f.ty.bits (isubsn f.ty.bits)) s

/-- BFX (R49). -/
def execBfx (f : LF) (s : State) : Out :=
  laneBin (.bfx f) f.pg f.vd f.va f.vb false false (ew2 f.ty.bits (ibfx f.ty.bits)) s

/-- BFXN (R49). -/
def execBfxn (f : LF) (s : State) : Out :=
  laneBin (.bfxn f) f.pg f.vd f.va f.vb false false (ew2 f.ty.bits (ibfxn f.ty.bits)) s

/-- BFI: vd is also a source (R49). -/
def execBfi (f : LF) (s : State) : Out :=
  laneTer (.bfi f) f.pg f.vd f.va f.vb false false (ew3 f.ty.bits (ibfi f.ty.bits)) s

/-- PRMB: vd is also a source; the same for every ty (R49). -/
def execPrmb (f : LF) (s : State) : Out :=
  laneTer (.prmb f) f.pg f.vd f.va f.vb false false iprmb s

/-- ABS (R50). -/
def execAbs (f : LU) (s : State) : Out :=
  laneUn (.abs f) f.pg f.vd f.va f.ta (ew1 f.ty.bits (iabs f.ty.bits)) s

/-- NEG (R50). -/
def execNeg (f : LU) (s : State) : Out :=
  laneUn (.neg f) f.pg f.vd f.va f.ta (ew1 f.ty.bits (ineg f.ty.bits)) s

/-- NOT (R50). -/
def execNot (f : LU) (s : State) : Out :=
  laneUn (.not f) f.pg f.vd f.va f.ta (ew1 f.ty.bits (inot f.ty.bits)) s

/-- POPC (R50). -/
def execPopc (f : LU) (s : State) : Out :=
  laneUn (.popc f) f.pg f.vd f.va f.ta (ew1 f.ty.bits (ipopc f.ty.bits)) s

/-- CLZ (R50). -/
def execClz (f : LU) (s : State) : Out :=
  laneUn (.clz f) f.pg f.vd f.va f.ta (ew1 f.ty.bits (fun a => iclz a f.ty.bits)) s

/-- CTZ (R50). -/
def execCtz (f : LU) (s : State) : Out :=
  laneUn (.ctz f) f.pg f.vd f.va f.ta (ew1 f.ty.bits (ictz f.ty.bits)) s

/-- BREV: the whole lane, whatever ty (R50). -/
def execBrev (f : LU) (s : State) : Out :=
  laneUn (.brev f) f.pg f.vd f.va f.ta ibrev s

/-- SEL (R54): whole lanes; p0 reads true. -/
def execSel (f : LSel) (s : State) : Out :=
  issueUnit (.sel f) { pg := some f.pg.toNat, vw := [f.vd.toNat], vr := [(f.va.toNat, false), (f.vb.toNat, false)] } s
    (fun k s => writeLanes k s f.vd.toNat (fun L x =>
      if xor (x.pred f.ps.toNat) f.inv then k.src L x f.va.toNat else k.src L x f.vb.toNat))

/-- ADDI with immediate x (R51), the prefixed form's unit being `i`. -/
def addiWith (i : Instr) (f : LI) (x : Word) (s : State) : Out := laneUn i f.pg f.vd f.va false (· + x) s

/-- ADDI (R51). -/
def execAddi (f : LI) (s : State) : Out :=
  addiWith (.addi f) f (imm10 f.imm) s

/-- MULI with immediate x (R51), the prefixed form's unit being `i`. -/
def muliWith (i : Instr) (f : LI) (x : Word) (s : State) : Out := laneUn i f.pg f.vd f.va false (· * x) s

/-- MULI (R51). -/
def execMuli (f : LI) (s : State) : Out :=
  muliWith (.muli f) f (imm10 f.imm) s

/-- ANDI with immediate x (R51), the prefixed form's unit being `i`. -/
def andiWith (i : Instr) (f : LI) (x : Word) (s : State) : Out := laneUn i f.pg f.vd f.va false (· &&& x) s

/-- ANDI (R51). -/
def execAndi (f : LI) (s : State) : Out :=
  andiWith (.andi f) f (imm10 f.imm) s

/-- ORI with immediate x (R51), the prefixed form's unit being `i`. -/
def oriWith (i : Instr) (f : LI) (x : Word) (s : State) : Out := laneUn i f.pg f.vd f.va false (· ||| x) s

/-- ORI (R51). -/
def execOri (f : LI) (s : State) : Out :=
  oriWith (.ori f) f (imm10 f.imm) s

/-- XORI with immediate x (R51), the prefixed form's unit being `i`. -/
def xoriWith (i : Instr) (f : LI) (x : Word) (s : State) : Out := laneUn i f.pg f.vd f.va false (· ^^^ x) s

/-- XORI (R51). -/
def execXori (f : LI) (s : State) : Out :=
  xoriWith (.xori f) f (imm10 f.imm) s

/-- SHLI (R51). -/
def execShli (f : LSh) (s : State) : Out :=
  laneUn (.shli f) f.pg f.vd f.va false (w64u (fun a => ishl 64 a f.c.toNat)) s

/-- SHRI (R51). -/
def execShri (f : LSh) (s : State) : Out :=
  laneUn (.shri f) f.pg f.vd f.va false (w64u (fun a => ishr 64 a f.c.toNat)) s

/-- SARI (R51). -/
def execSari (f : LSh) (s : State) : Out :=
  laneUn (.sari f) f.pg f.vd f.va false (w64u (fun a => isar 64 a f.c.toNat)) s

/-- MOVI with immediate x (R51). -/
def moviWith (i : Instr) (f : LMov) (x : Word) (s : State) : Out :=
  issueUnit i { pg := some f.pg.toNat, vw := [f.vd.toNat] } s (fun k s => writeLanes k s f.vd.toNat (fun _ _ => x))

/-- MOVI (R51). -/
def execMovi (f : LMov) (s : State) : Out := moviWith (.movi f) f (imm10 f.imm) s

/-- CMP: sub-element 0 (R52). -/
def execCmp (f : LC) (s : State) : Out :=
  issueUnit (.cmp f) { pg := some f.pg.toNat, badPred := f.pd = 0, vr := [(f.va.toNat, false), (f.vb.toNat, false)] } s
    (fun k s => writePreds k s f.pd.toNat (fun L x =>
      combine f.cmb (x.pred f.pd.toNat) (ccHolds f.ty.bits f.cc (elem f.ty.bits (k.src L x f.va.toNat) 0)
        (elem f.ty.bits (k.src L x f.vb.toNat) 0))))

/-- The two-source forms of PLOG (R53). -/
def plogBin (i : Instr) (f : LQ) (op : Bool → Bool → Bool) (s : State) : Out :=
  issueUnit i { pg := some f.pg.toNat, badPred := f.pd = 0 } s
    (fun k s => writePreds k s f.pd.toNat (fun _ x => op (x.pred f.pa.toNat) (x.pred f.pb.toNat)))

/-- PAND (R53). -/
def execPand (f : LQ) (s : State) : Out :=
  plogBin (.pand f) f (· && ·) s

/-- POR (R53). -/
def execPor (f : LQ) (s : State) : Out :=
  plogBin (.por f) f (· || ·) s

/-- PXOR (R53). -/
def execPxor (f : LQ) (s : State) : Out :=
  plogBin (.pxor f) f xor s

/-- PANDN (R53). -/
def execPandn (f : LQ) (s : State) : Out :=
  plogBin (.pandn f) f (fun a b => a && !b) s

/-- PNOT (R53). -/
def execPnot (pg pd pa : BitVec 3) (s : State) : Out :=
  issueUnit (.pnot pg pd pa) { pg := some pg.toNat, badPred := pd = 0 } s
    (fun k s => writePreds k s pd.toNat (fun _ x => !x.pred pa.toNat))

/-- PSET (R53). -/
def execPset (pg pd : BitVec 3) (s : State) : Out :=
  issueUnit (.pset pg pd) { pg := some pg.toNat, badPred := pd = 0 } s (fun k s => writePreds k s pd.toNat (fun _ _ => true))

/-- PCLR (R53). -/
def execPclr (pg pd : BitVec 3) (s : State) : Out :=
  issueUnit (.pclr pg pd) { pg := some pg.toNat, badPred := pd = 0 } s (fun k s => writePreds k s pd.toNat (fun _ _ => false))

end Sys2Proof.Machine
end

