-- ==== Sys2Proof/Machine/Uniform.lean ====
section
/-! DEFINITION. Uniform integer, comparison, predicate and selection instructions (R55 to R57). -/

namespace Sys2Proof.Machine

/-- GADD (R55). -/
def execGadd (f : UR) (s : State) : Out :=
  uniBin (.gadd f) f.qg f.gd f.ga f.gb (· + ·) s

/-- GSUB (R55). -/
def execGsub (f : UR) (s : State) : Out :=
  uniBin (.gsub f) f.qg f.gd f.ga f.gb (· - ·) s

/-- GMUL (R55). -/
def execGmul (f : UR) (s : State) : Out :=
  uniBin (.gmul f) f.qg f.gd f.ga f.gb (· * ·) s

/-- GMIN (R55). -/
def execGmin (f : UR) (s : State) : Out :=
  uniBin (.gmin f) f.qg f.gd f.ga f.gb (w64 (imin 64)) s

/-- GMAX (R55). -/
def execGmax (f : UR) (s : State) : Out :=
  uniBin (.gmax f) f.qg f.gd f.ga f.gb (w64 (imax 64)) s

/-- GMINN (R55). -/
def execGminn (f : UR) (s : State) : Out :=
  uniBin (.gminn f) f.qg f.gd f.ga f.gb (w64 iminn) s

/-- GMAXN (R55). -/
def execGmaxn (f : UR) (s : State) : Out :=
  uniBin (.gmaxn f) f.qg f.gd f.ga f.gb (w64 imaxn) s

/-- GAND (R55). -/
def execGand (f : UR) (s : State) : Out :=
  uniBin (.gand f) f.qg f.gd f.ga f.gb (· &&& ·) s

/-- GOR (R55). -/
def execGor (f : UR) (s : State) : Out :=
  uniBin (.gor f) f.qg f.gd f.ga f.gb (· ||| ·) s

/-- GXOR (R55). -/
def execGxor (f : UR) (s : State) : Out :=
  uniBin (.gxor f) f.qg f.gd f.ga f.gb (· ^^^ ·) s

/-- GSHL (R55). -/
def execGshl (f : UR) (s : State) : Out :=
  uniBin (.gshl f) f.qg f.gd f.ga f.gb (w64 (ishl 64)) s

/-- GSHR (R55). -/
def execGshr (f : UR) (s : State) : Out :=
  uniBin (.gshr f) f.qg f.gd f.ga f.gb (w64 (ishr 64)) s

/-- GSAR (R55). -/
def execGsar (f : UR) (s : State) : Out :=
  uniBin (.gsar f) f.qg f.gd f.ga f.gb (w64 (isar 64)) s

/-- GMULH (R55). -/
def execGmulh (f : UR) (s : State) : Out :=
  uniBin (.gmulh f) f.qg f.gd f.ga f.gb (w64 (imulh 64)) s

/-- GMULHN (R55). -/
def execGmulhn (f : UR) (s : State) : Out :=
  uniBin (.gmulhn f) f.qg f.gd f.ga f.gb (w64 (imulhn 64)) s

/-- GDIV (R55). -/
def execGdiv (f : UR) (s : State) : Out :=
  uniBin (.gdiv f) f.qg f.gd f.ga f.gb (w64 (idiv 64)) s

/-- GDIVN (R55). -/
def execGdivn (f : UR) (s : State) : Out :=
  uniBin (.gdivn f) f.qg f.gd f.ga f.gb (w64 (idivn 64)) s

/-- GREM (R55). -/
def execGrem (f : UR) (s : State) : Out :=
  uniBin (.grem f) f.qg f.gd f.ga f.gb (w64 (irem 64)) s

/-- GREMN (R55). -/
def execGremn (f : UR) (s : State) : Out :=
  uniBin (.gremn f) f.qg f.gd f.ga f.gb (w64 iremn) s

/-- GPOPC (R55). -/
def execGpopc (f : UU) (s : State) : Out :=
  uniUn (.gpopc f) f.qg f.gd f.ga (w64u (ipopc 64)) s

/-- GCLZ (R55). -/
def execGclz (f : UU) (s : State) : Out :=
  uniUn (.gclz f) f.qg f.gd f.ga (w64u (fun a => iclz a 64)) s

/-- GCTZ (R55). -/
def execGctz (f : UU) (s : State) : Out :=
  uniUn (.gctz f) f.qg f.gd f.ga (w64u (ictz 64)) s

/-- GNOT (R55). -/
def execGnot (f : UU) (s : State) : Out :=
  uniUn (.gnot f) f.qg f.gd f.ga (fun a => ~~~a) s

/-- GNEG (R55). -/
def execGneg (f : UU) (s : State) : Out :=
  uniUn (.gneg f) f.qg f.gd f.ga (fun a => -a) s

/-- GADDI with immediate x (R56). -/
def gaddiWith (i : Instr) (f : UI) (x : Word) (s : State) : Out := uniUn i f.qg f.gd f.ga (· + x) s

/-- GADDI (R56). -/
def execGaddi (f : UI) (s : State) : Out :=
  gaddiWith (.gaddi f) f (imm10 f.imm) s

/-- GANDI with immediate x (R56). -/
def gandiWith (i : Instr) (f : UI) (x : Word) (s : State) : Out := uniUn i f.qg f.gd f.ga (· &&& x) s

/-- GANDI (R56). -/
def execGandi (f : UI) (s : State) : Out :=
  gandiWith (.gandi f) f (imm10 f.imm) s

/-- GORI with immediate x (R56). -/
def goriWith (i : Instr) (f : UI) (x : Word) (s : State) : Out := uniUn i f.qg f.gd f.ga (· ||| x) s

/-- GORI (R56). -/
def execGori (f : UI) (s : State) : Out :=
  goriWith (.gori f) f (imm10 f.imm) s

/-- GXORI with immediate x (R56). -/
def gxoriWith (i : Instr) (f : UI) (x : Word) (s : State) : Out := uniUn i f.qg f.gd f.ga (· ^^^ x) s

/-- GXORI (R56). -/
def execGxori (f : UI) (s : State) : Out :=
  gxoriWith (.gxori f) f (imm10 f.imm) s

/-- GSHLI (R56). -/
def execGshli (f : USh) (s : State) : Out :=
  uniUn (.gshli f) f.qg f.gd f.ga (w64u (fun a => ishl 64 a f.c.toNat)) s

/-- GSHRI (R56). -/
def execGshri (f : USh) (s : State) : Out :=
  uniUn (.gshri f) f.qg f.gd f.ga (w64u (fun a => ishr 64 a f.c.toNat)) s

/-- GMOVI with immediate x (R56). -/
def gmoviWith (i : Instr) (f : UMov) (x : Word) (s : State) : Out :=
  issueUnit i { qg := f.qg.toNat, gw := [f.gd.toNat] } s (fun k s => writeG k s f.gd.toNat x)

/-- GMOVI (R56). -/
def execGmovi (f : UMov) (s : State) : Out := gmoviWith (.gmovi f) f (imm10 f.imm) s

/-- GMOVH with immediate x: bits [63:32] (R25). -/
def gmovhWith (i : Instr) (f : UMov) (x : Word) (s : State) : Out :=
  issueUnit i { qg := f.qg.toNat, gw := [f.gd.toNat], gr := [(f.gd.toNat, false)] } s (fun k s =>
    writeG k s f.gd.toNat (BitVec.ofNat 64 ((k.t.greg f.gd.toNat).toNat % 2 ^ 32 + x.toNat % 2 ^ 32 * 2 ^ 32)))

/-- GMOVH (R25, R56). -/
def execGmovh (f : UMov) (s : State) : Out := gmovhWith (.gmovh f) f (imm10 f.imm) s

/-- GCMP (R57). -/
def execGcmp (f : UC) (s : State) : Out :=
  issueUnit (.gcmp f) { qg := f.qg.toNat, badPred := f.qd = 0, gr := [(f.ga.toNat, false), (f.gb.toNat, false)] } s
    (fun k s => writeQ k s f.qd.toNat (combine f.cmb (k.t.qpred f.qd.toNat)
      (ccHolds 64 f.cc (k.t.greg f.ga.toNat).toNat (k.t.greg f.gb.toNat).toNat)))

/-- The two-source forms of QLOG (R57). -/
def qlogBin (i : Instr) (f : UQ) (op : Bool → Bool → Bool) (s : State) : Out :=
  issueUnit i { qg := f.qg.toNat, badPred := f.qd = 0 } s
    (fun k s => writeQ k s f.qd.toNat (op (k.t.qpred f.qa.toNat) (k.t.qpred f.qb.toNat)))

/-- QLOG.PAND (R57). -/
def execQlogPand (f : UQ) (s : State) : Out :=
  qlogBin (.qlogPand f) f (· && ·) s

/-- QLOG.POR (R57). -/
def execQlogPor (f : UQ) (s : State) : Out :=
  qlogBin (.qlogPor f) f (· || ·) s

/-- QLOG.PXOR (R57). -/
def execQlogPxor (f : UQ) (s : State) : Out :=
  qlogBin (.qlogPxor f) f xor s

/-- QLOG.PANDN (R57). -/
def execQlogPandn (f : UQ) (s : State) : Out :=
  qlogBin (.qlogPandn f) f (fun a b => a && !b) s

/-- QLOG.PNOT (R57). -/
def execQlogPnot (qg qd qa : BitVec 3) (s : State) : Out :=
  issueUnit (.qlogPnot qg qd qa) { qg := qg.toNat, badPred := qd = 0 } s
    (fun k s => writeQ k s qd.toNat (!k.t.qpred qa.toNat))

/-- QLOG.PSET (R57). -/
def execQlogPset (qg qd : BitVec 3) (s : State) : Out :=
  issueUnit (.qlogPset qg qd) { qg := qg.toNat, badPred := qd = 0 } s (fun k s => writeQ k s qd.toNat true)

/-- QLOG.PCLR (R57). -/
def execQlogPclr (qg qd : BitVec 3) (s : State) : Out :=
  issueUnit (.qlogPclr qg qd) { qg := qg.toNat, badPred := qd = 0 } s (fun k s => writeQ k s qd.toNat false)

/-- GSEL (R57). -/
def execGsel (f : USel) (s : State) : Out :=
  issueUnit (.gsel f) { qg := f.qg.toNat, gw := [f.gd.toNat], gr := [(f.ga.toNat, false), (f.gb.toNat, false)] } s
    (fun k s => writeG k s f.gd.toNat
      (if xor (k.t.qpred f.qs.toNat) f.inv then k.t.greg f.ga.toNat else k.t.greg f.gb.toNat))

end Sys2Proof.Machine
end

