-- ==== Sys2Proof/Machine/Control.lean ====
section
/-! DEFINITION. Control flow, join records, loops, control registers, TRAP, TRET and EXT (R10, R24, R60 to R71, R96,
R98 to R108, R210, R305). -/

namespace Sys2Proof.Machine

/-- NOP (R31). -/
def execNop (s : State) : Out := issueUnit .nop {} s (fun _ s => .done s)

/-- EXT: the instruction that follows with its immediate formed under R25. -/
def execExt (hi : BitVec 25) (t : ExtTarget) (s : State) : Out :=
  match t with
  | .addi f => addiWith (.ext hi t) f (imm35 hi f.imm) s
  | .muli f => muliWith (.ext hi t) f (imm35 hi f.imm) s
  | .andi f => andiWith (.ext hi t) f (imm35 hi f.imm) s
  | .ori f => oriWith (.ext hi t) f (imm35 hi f.imm) s
  | .xori f => xoriWith (.ext hi t) f (imm35 hi f.imm) s
  | .movi f => moviWith (.ext hi t) f (imm35 hi f.imm) s
  | .gaddi f => gaddiWith (.ext hi t) f (imm35 hi f.imm) s
  | .gandi f => gandiWith (.ext hi t) f (imm35 hi f.imm) s
  | .gori f => goriWith (.ext hi t) f (imm35 hi f.imm) s
  | .gxori f => gxoriWith (.ext hi t) f (imm35 hi f.imm) s
  | .gmovi f => gmoviWith (.ext hi t) f (imm35 hi f.imm) s
  | .gmovh f => gmovhWith (.ext hi t) f (imm35 hi f.imm) s

/-! ### Branches (R60) -/

/-- The arm continues at `pc`. -/
def gotoPc (k : Ctx) (s : State) (pc : Word) : Res := .jump (s.modArm k.tid k.f (fun a => { a with pc := pc }))

/-- The target of a branch at the arm's PC (R10). -/
def target (a : Arm) (off : Word) : Word := a.pc + off * 4

/-- BRA (R60). -/
def execBra (qg : BitVec 3) (inv : Bool) (off : BitVec 18) (s : State) : Out :=
  issueUnit (.bra qg inv off) {} s (fun k s =>
    if xor (k.t.qpred qg.toNat) inv then gotoPc k s (target k.a (off.signExtend 64)) else .done s)

/-- CALL (R60). -/
def execCall (qg : BitVec 3) (gd : BitVec 6) (off : BitVec 16) (s : State) : Out :=
  issueUnit (.call qg gd off) { qg := qg.toNat, gw := [gd.toNat] } s (fun k s =>
    gotoPc k (s.setTeam k.tid (k.t.setG gd.toNat (k.a.pc + 4))) (target k.a (off.signExtend 64)))

/-- A jump to the address in register `ga` (R22, R60). A misaligned target is a fault on a uniform operand, raised even where the
guard is false (R43). -/
def jumpReg (k : Ctx) (s : State) (qg ga : Nat) : Res :=
  if (k.t.greg ga).toNat % 4 ≠ 0 then .trap Code.illop (k.t.greg ga)
  else if k.t.qpred qg then gotoPc k s (k.t.greg ga)
  else .done s

/-- RET (R60). -/
def execRet (qg : BitVec 3) (ga : BitVec 6) (s : State) : Out :=
  issueUnit (.ret qg ga) { gr := [(ga.toNat, false)] } s (fun k s => jumpReg k s qg.toNat ga.toNat)

/-- BRX (R60). -/
def execBrx (qg : BitVec 3) (ga : BitVec 6) (s : State) : Out :=
  issueUnit (.brx qg ga) { gr := [(ga.toNat, false)] } s (fun k s => jumpReg k s qg.toNat ga.toNat)

/-- A flag of a walker; an unbound one reads 1 (R67, R93). -/
def walkerFlag (t : Team) (w f : Nat) : Bool :=
  match t.walker? w with
  | none => true
  | some x => if f = 0 then x.d0 else if f = 1 then x.d1 else if f = 2 then x.d2 else x.fin

/-- BRW (R67). -/
def execBrw (w f : BitVec 2) (inv : Bool) (off : BitVec 18) (s : State) : Out :=
  issueUnit (.brw w f inv off) {} s (fun k s =>
    if xor (walkerFlag k.t w.toNat f.toNat) inv then gotoPc k s (target k.a (off.signExtend 64)) else .done s)

/-! ### Arms and join records (R61 to R64, R98 to R107) -/

/-- The lanes parked on a record. -/
def Join.parked (j : Join) : LaneMask := j.parkedT ||| j.parkedF

/-- TRAPINFO of a JOIN trap (R303). -/
def joinInfo (j cause : Nat) : Word := BitVec.ofNat 64 (j + cause * 256)

/-- Change every record. -/
def Team.mapJoins (t : Team) (f : Join → Join) : Team :=
  (List.range 8).foldl (fun t j => t.setJoin j (f (t.join j))) t

/-- The lanes an arm has parked. -/
def Team.parkedBy (t : Team) (f : Bool) : LaneMask :=
  (List.range 8).foldl (fun m j => m ||| (if f then (t.join j).parkedF else (t.join j).parkedT)) 0

/-- An arm without active lanes continues with the top of its stack (R63). -/
def Arm.pop (a : Arm) : Arm :=
  if a.active = 0 then
    match a.stack with
    | [] => a
    | e :: r => { a with pc := e.pc, active := e.mask, stack := r }
  else a

/-- Two lists of identities as one. -/
def unionIds (a b : List Nat) : List Nat := a ++ b.filter (fun x => !a.contains x)

/-- The lanes an arm owns: active, on its stack, or parked by it (R100, R101). -/
def Team.owned (t : Team) (f : Bool) : LaneMask :=
  match t.arm? f with
  | some a => a.stack.foldl (fun m e => m ||| e.mask) (a.active ||| t.parkedBy f)
  | none => 0

/-- An arm that owns no lane ends; a survivor becomes the sole arm (R101). -/
def Team.settle (t : Team) : Team :=
  let dead := fun (f : Bool) => match t.arm? f with
    | none => true
    | some a => a.active = 0 && a.stack.isEmpty && t.parkedBy f = 0
  let t := if dead false then { t with armT := none } else t
  let t := if dead true then { t with armF := none } else t
  match t.armT, t.armF with
  | none, some a =>
    ({ t with armT := some a, armF := none } : Team).mapJoins (fun j =>
      { j with parkedT := j.parked, parkedF := 0, last := false })
  | _, _ => t

/-- Pop both arms where they have no active lane, then settle. -/
def Team.popArms (t : Team) : Team :=
  ({ t with armT := t.armT.map Arm.pop, armF := t.armF.map Arm.pop } : Team).settle

/-- The scoreboard of the arm that gave up lanes joins that of the arm that takes them, and so do its holds (R99, R117, R123). -/
def Arm.takeBoard (a b : Arm) : Arm :=
  { a with
    ops := unionIds a.ops b.ops
    cmds := unionIds a.cmds b.cmds
    mcmds := unionIds a.mcmds b.mcmds
    holds := a.holds ++ b.holds.filter (fun h => !a.holds.contains h) }

/-- After a split both arms count as writers of what the splitting arm wrote (R99, R118). -/
def splitWriters (s : State) (tid : Nat) : State :=
  { s with coh := { s.coh with l1 := smap s.coh.l1 (fun _ x =>
    if x.writers.contains (tid, false) then { x with writers := (tid, true) :: x.writers } else x) } }

/-- An arm that has taken lanes of the other counts as a writer of what the other wrote (R99, R118). -/
def State.shareWriters (s : State) (tid : Nat) (t t' : Team) : State :=
  let took := [false, true].filter (fun f => t.owned (!f) &&& t'.owned f ≠ 0)
  { s with coh := { s.coh with l1 := smap s.coh.l1 (fun _ x =>
    { x with writers := ((took.filter (fun f => x.writers.contains (tid, !f))).map (fun f => (tid, f)) ++ x.writers).dedup }) } }

/-- Put a team back after its arms have settled: a surviving F arm is from now on the sole arm (R101). -/
def State.commitArms (s : State) (tid : Nat) (wasSplit : Bool) (t : Team) : State :=
  let s := (match s.team? tid with | some t0 => s.shareWriters tid t0 t | none => s).setTeam tid t
  if wasSplit && t.armF.isNone then
    { s with
      sched := { s.sched with cur := if s.sched.cur = some ⟨tid, true⟩ then some ⟨tid, false⟩ else s.sched.cur }
      coh := { s.coh with l1 := smap s.coh.l1 (fun _ x =>
        { x with writers := (x.writers.map (fun w => if w = (tid, true) then (tid, false) else w)).dedup }) } }
  else s

/-- BRD (R61). The F arm of a split passes on to the next word, so it makes the end-of-body check (R96); an arm that serialises
its lanes branches away (log 53). -/
def execBrd (p j : BitVec 3) (inv : Bool) (off : BitVec 18) (s : State) : Out :=
  issueUnit (.brd p j inv off) {} s (fun k s =>
    let jr := k.t.join j.toNat
    let A := k.a.active
    let pm := k.t.predMask p.toNat
    let T := if inv then A &&& ~~~pm else A &&& pm
    let F := A &&& ~~~T
    let both := T ≠ 0 ∧ F ≠ 0
    let ser := both ∧ (k.t.split ∨ k.a.inHandler)
    let tgt := target k.a (off.signExtend 64)
    if jr.parked ≠ 0 then .trap Code.join (joinInfo j.toNat 1)
    else if ser ∧ 16 ≤ k.a.stack.length then .trap Code.join (joinInfo j.toNat 4)
    else
      let t := ({ k.t with nextInst := k.t.nextInst + 1 } : Team).setJoin j.toNat ⟨none, A, 0, 0, jr.last, k.t.nextInst⟩
      if T = 0 then .done (s.setTeam k.tid t)
      else if F = 0 then gotoPc k (s.setTeam k.tid t) tgt
      else if ser then
        .jump (s.setTeam k.tid (t.setArm k.f (some { k.a with
          pc := tgt, active := T, stack := ⟨k.a.pc + 4, F⟩ :: k.a.stack })))
      else
        -- the F arm keeps the stack and the parked lanes (R99)
        let t := t.mapJoins (fun r =>
          { r with parkedT := 0, parkedF := r.parked, last := if r.parked ≠ 0 then true else r.last })
        .jump (splitWriters (s.setTeam k.tid { t with
          armT := some { k.a with pc := tgt, active := T, stack := [] }
          armF := some (Arm.advance { k.a with active := F, age := 0, last := 0 } 4) }) k.tid))

/-- JSET with m = 0 (R62). -/
def execJset (j p : BitVec 3) (off : BitVec 18) (s : State) : Out :=
  issueUnit (.jset j p off) {} s (fun k s =>
    let jr := k.t.join j.toNat
    if jr.parked ≠ 0 then .trap Code.join (joinInfo j.toNat 1)
    else
      .done (s.setTeam k.tid (({ k.t with nextInst := k.t.nextInst + 1 } : Team).setJoin j.toNat
        ⟨some (target k.a (off.signExtend 64)), k.a.active &&& k.t.predMask p.toNat, 0, 0, jr.last, k.t.nextInst⟩)))

/-- JSET.ADD (R62). -/
def execJsetAdd (j p : BitVec 3) (off : BitVec 18) (s : State) : Out :=
  issueUnit (.jsetAdd j p off) {} s (fun k s =>
    let jr := k.t.join j.toNat
    if jr.pc ≠ some (target k.a (off.signExtend 64)) then .trap Code.join (joinInfo j.toNat 3)
    else
      .done (s.setTeam k.tid (k.t.setJoin j.toNat
        { jr with pending := jr.pending ||| (k.a.active &&& k.t.predMask p.toNat) })))

/-- JOIN (R63, R103, R104). An arm that parks all its lanes does not pass on to the next word: it makes no end-of-body check, and
the loop stacks of a completing JOIN are compared before its own (R65, R105; log 53). -/
def execJoin (j : BitVec 3) (s : State) : Out :=
  issueUnit (.join j) {} s (fun k s =>
    let jr := k.t.join j.toNat
    let A := k.a.active
    let P := A &&& jr.pending
    if P = 0 then .done s
    else if jr.pc ≠ none ∧ jr.pc ≠ some k.a.pc then .trap Code.join (joinInfo j.toNat 2)
    else if P = jr.pending then
      let other := k.t.arm? (!k.f)
      let theirs := if k.f then jr.parkedT else jr.parkedF
      if theirs ≠ 0 ∧ (other.map (·.loops)).getD k.a.loops ≠ k.a.loops then .trap Code.loop (BitVec.ofNat 64 (4 * 256))
      else
        let a := { k.a with active := A ||| jr.parked }
        let a := (if theirs ≠ 0 then (match other with | some b => a.takeBoard b | none => a) else a).advance 4
        let t := (k.t.setJoin j.toNat { jr with pc := some k.a.pc, pending := 0, parkedT := 0, parkedF := 0, last := k.f }).setArm
          k.f (some a)
        .jump (s.commitArms k.tid k.t.split t.settle)
    else
      let jr := { jr with
        pc := some k.a.pc, pending := jr.pending &&& ~~~P, last := k.f
        parkedT := if k.f then jr.parkedT else jr.parkedT ||| P
        parkedF := if k.f then jr.parkedF ||| P else jr.parkedF }
      let a := ({ k.a with active := A &&& ~~~P } : Arm)
      let a := if a.active = 0 then a.pop else a.advance 4
      .jump (s.commitArms k.tid k.t.split ((k.t.setJoin j.toNat jr).setArm k.f (some a)).settle))

/-- Whether placing released lanes on an arm that still has lanes overflows its stack. -/
def placeFull (a : Arm) : Bool := a.active ≠ 0 && decide (16 ≤ a.stack.length)

/-- The lanes released from record `j` go to the arm named by last (R103). -/
def Team.releaseTo (t : Team) (j : Nat) : Team :=
  let jr := t.join j
  let lanes := jr.parked
  let pc := (jr.pc.getD 0) + 4
  let f := jr.last && t.armF.isSome
  let given := if f then jr.parkedT else jr.parkedF
  let t' := t.setJoin j { jr with pending := 0, parkedT := 0, parkedF := 0 }
  match t'.arm? f with
  | none => t'
  | some a =>
    let a := if given ≠ 0 then (match t'.arm? (!f) with | some b => a.takeBoard b | none => a) else a
    let a := if a.active = 0 then { a with pc := pc, active := lanes }
      else { a with stack := ⟨pc, lanes⟩ :: a.stack }
    t'.setArm f (some a)

/-- The records that complete by exit, in order of their numbers, which the spec leaves open (DESIGN CHOICE, log 53); the first
whose arm's stack is full, if any (R103). -/
def releaseAll : List Nat → Team → Option (Nat) × Team
  | [], t => (none, t)
  | j :: r, t =>
    let f := (t.join j).last && t.armF.isSome
    if ((t.arm? f).map placeFull).getD false then (some j, t) else releaseAll r (t.releaseTo j)

/-- The lanes of a mask leave a team: live mask, pending masks, arms (R64). -/
def Team.dropLanes (t : Team) (x : LaneMask) : Team :=
  { t.mapJoins (fun j => { j with pending := j.pending &&& ~~~x }) with live := t.live &&& ~~~x }

/-- EXIT (R64, R103). Loads of an exiting lane count as arrived (R86). An arm that it empties continues at the top of its stack,
before the lanes of records that the exit completes are placed, and makes no end-of-body check (log 53). -/
def execExit (p : BitVec 3) (inv : Bool) (s : State) : Out :=
  issueUnit (.exit p inv) {} s (fun k s =>
    let pm := k.t.predMask p.toNat
    let X := if inv then k.a.active &&& ~~~pm else k.a.active &&& pm
    if X = 0 then .done s
    else
      let rest := k.a.active &&& ~~~X
      let done := (List.range 8).filter (fun j =>
        (k.t.join j).parked ≠ 0 && (k.t.join j).pending ≠ 0 && ((k.t.join j).pending &&& ~~~X) = 0)
      let a := ({ k.a with active := rest } : Arm)
      let a := if rest = 0 then a.pop else a.advance 4
      let r := releaseAll done ((k.t.dropLanes X).setArm k.f (some a))
      match r.1 with
      | some j => .trap Code.join (joinInfo j 4)
      | none => .jump ((s.commitArms k.tid k.t.split r.2.popArms).arriveDead k.tid))

/-- LOOP (R65, R19). A body that ends in half a unit is refused at decode (`checkBody`). -/
def execLoop (ga : BitVec 6) (len : BitVec 16) (s : State) : Out :=
  issueUnit (.loop ga len) { gr := [(ga.toNat, false)] } s (fun k s =>
    let last := k.a.pc + BitVec.ofNat 64 (4 * len.toNat)
    let inCode := match s.launch? k.t.geom.launch with
      | some l => decide (l.lr.code ≤ last.toNat) && decide (last.toNat + 4 ≤ l.lr.code + l.lr.codeLen)
      | none => false
    let g := k.t.greg ga.toNat
    if !inCode then .trap Code.bounds last
    else if fld g 32 32 ≠ 0 then .trap Code.loop (BitVec.ofNat 64 256)
    else if fld g 0 32 = 0 then gotoPc k s (last + 4)
    else if 4 ≤ k.a.loops.length then .trap Code.loop (BitVec.ofNat 64 512)
    else .jump (s.modArm k.tid k.f (fun a => { a with
      pc := k.a.pc + 4, loops := ⟨k.a.pc + 4, last, BitVec.ofNat 32 (fld g 0 32)⟩ :: a.loops })))

/-- LBRK (R66). -/
def execLbrk (qg : BitVec 3) (s : State) : Out :=
  issueUnit (.lbrk qg) { qg := qg.toNat } s (fun k s =>
    match k.a.loops with
    | [] => .trap Code.loop (BitVec.ofNat 64 768)
    | l :: r => .jump (s.modArm k.tid k.f (fun a => { a with pc := l.last + 4, loops := r })))

/-! ### Control registers (R68 to R71) -/

def boolBit (b : Bool) (i : Nat) : Nat := if b then 2 ^ i else 0

/-- GANGXY (R68). -/
def gangXY (l : Launch) (core : Nat) : Nat :=
  let p := l.inGang core
  (coreX core - l.x0) / l.gangW + (coreY core - l.y0) / l.gangH * 2 ^ 8 + p.1 * 2 ^ 16 + p.2 * 2 ^ 20

/-- ARMINFO (R70). -/
def armInfo (t : Team) (f : Bool) (a : Arm) : Nat :=
  countLanes a.active t.geom.lanes * 2 ^ 32 + a.loops.length * 2 ^ 7 + a.stack.length * 2 ^ 2 + boolBit t.split 1 + boolBit f 0

/-- TSTAT (R70). -/
def tstat (t : Team) : Nat := boolBit t.engfail 3 + boolBit t.split 2 + boolBit t.nolane 1 + boolBit t.lostjoin 0

/-- FPFLAGS over the active lanes (R68). -/
def orFlags (t : Team) (m : LaneMask) : Nat := (lanesOf m t.geom.lanes).foldl (fun x L => x ||| (t.lane L).fpflags.toNat) 0

/-- The value of a control register for an arm. -/
def cregValue (k : Ctx) (s : State) (l : Launch) (c : CReg) : Nat :=
  let g := k.t.geom
  match c with
  | .fpctl => match lanesOf k.a.active g.lanes with | [] => 0 | L :: _ => (k.t.lane L).fpctl.toNat
  | .fpflags => orFlags k.t k.a.active
  | .teamsz => g.lanes + g.vcount * 2 ^ 16 + g.gregs * 2 ^ 24 + g.barriers * 2 ^ 32
  | .teamid => g.index + g.datapath * 2 ^ 16
  | .blockid => g.block
  | .gangxy => gangXY l g.core
  | .corexy => coreX g.core + coreY g.core * 2 ^ 8 + coreDie g.core * 2 ^ 16
  | .chipid => s.pod.chipId.toNat
  | .gtc => s.sched.gtc % 2 ^ 64
  | .hbeat => s.sched.hbeat % 2 ^ 57
  | .batch => k.a.tag.toNat
  | .trapvec => k.t.trap.vec.toNat
  | .trappc => k.t.trap.pc.toNat
  | .trapcode => k.t.trap.code.toNat
  | .trapinfo => k.t.trap.info.toNat
  | .arminfo => armInfo k.t k.f k.a
  | .srseed => k.t.srseed.toNat
  | .tstat => tstat k.t

def cregPerLane : CReg → Bool
  | .fpctl => true
  | .fpflags => true
  | _ => false

/-- GETC (R68). -/
def execGetc (qg : BitVec 3) (gd : BitVec 6) (c : CReg) (s : State) : Out :=
  issueUnit (.getc qg gd c) { qg := qg.toNat, gw := [gd.toNat] } s (fun k s =>
    match s.launch? k.t.geom.launch with
    | none => .done s
    | some l =>
      let t := k.t.setG gd.toNat (BitVec.ofNat 64 (cregValue k s l c))
      .done (s.setTeam k.tid (if cregPerLane c && k.a.active = 0 then t.setNolane else t)))

/-- The lanes of a team reseeded (R71, R229). -/
def reseed (s : State) (t : Team) (seed : Word) : Team :=
  { t with srseed := seed, conv := 0
           lanes := mapLanes (firstLanes t.geom.lanes) (fun L x =>
             { x with gen := seedGen seed (globalLane s.pod.chipId.toNat t.geom L) }) 0 t.lanes }

/-- Whether a value may be written to a control register (R69, R71): a fault on a uniform operand, raised even where the guard is
false (R43). -/
def setcBad (c : CReg) (x : Word) : Bool :=
  match c with
  | .fpctl => decide (6 ≤ x.toNat % 8)
  | .trapvec => decide (x.toNat % 4 ≠ 0)
  | _ => false

/-- SETC (R68 to R71). A read-only register is refused at decode. -/
def execSetc (qg : BitVec 3) (ga : BitVec 6) (c : CReg) (s : State) : Out :=
  issueUnit (.setc qg ga c) { gr := [(ga.toNat, false)] } s (fun k s =>
    let x := k.t.greg ga.toNat
    let lanes := fun (h : Lane → Lane) =>
      Res.done (s.setTeam k.tid { k.t with lanes := mapLanes k.a.active (fun _ y => h y) 0 k.t.lanes })
    if setcBad c x then .trap Code.illop x
    else if !k.t.qpred qg.toNat then .done s
    else match c with
    | .fpctl => lanes (fun y => { y with fpctl := x &&& 31 })
    | .fpflags => lanes (fun y => { y with fpflags := BitVec.ofNat 8 x.toNat })
    | .batch => .done (s.setTeam k.tid (k.t.setArm k.f (some { k.a with tag := BitVec.ofNat 2 x.toNat })))
    | .trapvec => .done (s.setTeam k.tid { k.t with trap := { k.t.trap with vec := x } })
    | .srseed => .done (s.setTeam k.tid (reseed s k.t x))
    | .tstat =>
      .done (s.setTeam k.tid { k.t with
        engfail := x.getLsbD 3, nolane := x.getLsbD 1, lostjoin := x.getLsbD 0, engcode := none })
    | .teamsz => .trap Code.illop (unitWords (.setc qg ga c))
    | .teamid => .trap Code.illop (unitWords (.setc qg ga c))
    | .blockid => .trap Code.illop (unitWords (.setc qg ga c))
    | .gangxy => .trap Code.illop (unitWords (.setc qg ga c))
    | .corexy => .trap Code.illop (unitWords (.setc qg ga c))
    | .chipid => .trap Code.illop (unitWords (.setc qg ga c))
    | .gtc => .trap Code.illop (unitWords (.setc qg ga c))
    | .hbeat => .trap Code.illop (unitWords (.setc qg ga c))
    | .trappc => .trap Code.illop (unitWords (.setc qg ga c))
    | .trapcode => .trap Code.illop (unitWords (.setc qg ga c))
    | .trapinfo => .trap Code.illop (unitWords (.setc qg ga c))
    | .arminfo => .trap Code.illop (unitWords (.setc qg ga c)))

/-! ### TRAP and TRET (R21, R305) -/

/-- TRAP: takes trap USER with imm16 (R21). -/
def execTrap (qg : BitVec 3) (imm : BitVec 16) (s : State) : Out :=
  issueUnit (.trap qg imm) { qg := qg.toNat } s (fun _ _ => .trap Code.user (BitVec.ofNat 64 imm.toNat))

/-- The shared body of TRET and TRET.REPLAY. -/
def tretWith (i : Instr) (replay : Bool) (s : State) : Out :=
  issueUnit i {} s (fun k s =>
    if k.a.inHandler then .jump (s.setTeam k.tid (k.t.setArm k.f (some (leaveTrap k.t k.a replay))))
    else .trap Code.illop (unitWords i))

/-- TRET (R305, R96). -/
def execTret (s : State) : Out := tretWith .tret false s

/-- TRET.REPLAY (R305). -/
def execTretReplay (s : State) : Out := tretWith .tretReplay true s

/-! ### Lost reconvergence (R106, R107) -/

/-- A team whose every live lane is parked. -/
def allParked (t : Team) : Bool :=
  let idle := fun (a : Option Arm) => match a with | none => true | some a => a.active = 0 && a.stack.isEmpty
  idle t.armT && idle t.armF && (List.range 8).any (fun j => (t.join j).parked ≠ 0)

/-- The oldest HOLDING record: the greatest distance behind the counter (R102). -/
def oldestHolding (t : Team) : Option Nat :=
  (List.range 8).foldl (fun best j =>
    if (t.join j).parked = 0 then best
    else match best with
      | none => some j
      | some b => if (t.nextInst - (t.join b).inst).toNat < (t.nextInst - (t.join j).inst).toNat then some j else best) none

/-- LOST_RECONVERGENCE_RELEASE (R106). -/
def execLostReconvergenceRelease (team : Nat) (s : State) : Out :=
  match s.team? team with
  | none => .refused (.notEnabled "LOST_RECONVERGENCE_RELEASE")
  | some t =>
    match oldestHolding t with
    | none => .refused (.notEnabled "LOST_RECONVERGENCE_RELEASE")
    | some j =>
      whenEnabled "LOST_RECONVERGENCE_RELEASE" (allParked t)
        (s.commitArms team t.split { (t.releaseTo j).popArms with lostjoin := true })

end Sys2Proof.Machine
end

