-- ==== Sys2Proof/Machine/EaselBase.lean ====
section
/-! DEFINITION. Guests: the packets of the Easel contract, EASEL itself, stopping and resuming a packet, isolation (R273, R337
to R346); and the controller's fault table (R359). -/

namespace Sys2Proof.Machine

/-! ### The fault table (R359) -/

/-! Kinds of fault-table entries. -/
namespace Ft
def fence : Nat := 1
def poison : Nat := 2
def deadPeer : Nat := 3
def isolation : Nat := 4
def power : Nat := 5
end Ft

/-- Enter an event and signal MSI-X vector 0. -/
def State.faultEntry (s : State) (kind unit place len : Nat) : State :=
  let n := s.mgmt.fttail
  let lost := (s.bar0 0x18).toNat + 256 ≤ n
  let w : List Word := [BitVec.ofNat 64 ((if lost then 2 ^ 63 else 0) + kind * 256 + unit), BitVec.ofNat 64 s.sched.gtc,
    BitVec.ofNat 64 place, BitVec.ofNat 64 len]
  ({ s with mgmt := { s.mgmt with faultTable := sset [] s.mgmt.faultTable (n % 256) w, fttail := n + 1 } }).emit (.msix 0)

/-! ### Packets -/

/-- Byte i of a packet. -/
def pktByte (p : List Byte) (i : Nat) : Byte := (p[i]?).getD 0

/-- Bytes to exactly 128. -/
def pad128 (p : List Byte) : List Byte := (p ++ List.replicate 128 0).take 128

/-- The work packet of an image (R339, R340). -/
def workPacket (img : List Byte) (queue sg seq team compl : Nat) : List Byte :=
  pad128 ((img.take 2) ++ leBytes 1 queue ++ leBytes 1 sg ++ leBytes 4 seq ++ leBytes 4 team ++ leBytes 4 compl ++ img.drop 16)

/-- A contract packet from the device (R341): bytes 2 and 4 to 15 copied from the work packet it refers to. -/
def contractPacket (op : Nat) (pkt rest : List Byte) : List Byte :=
  pad128 (leBytes 2 op ++ [pktByte pkt 2, 0] ++ (List.range 12).map (fun i => pktByte pkt (4 + i)) ++ rest)

/-- TEAM of a packet (R339). -/
def teamField (g : TeamGeom) (f : Bool) : Nat := g.core + g.block * 256 + g.index * 4096 + if f then 65536 else 0

def State.site (s : State) (i : Nat) : Site := (oget s.easel.sites i).getD ⟨false, false, 0, 0, 0, 0, [], [], [], []⟩
def State.setSite (s : State) (i : Nat) (x : Site) : State :=
  { s with easel := { s.easel with sites := oset s.easel.sites i (some x) } }

/-- Site `i` serves with a chain that has been verified (R337): the chain comes from outside, so its digest is a free value (log 127). It
has `q` + 1 queues and counts SEQ from 0. -/
def State.attested (s : State) (i q : Nat) : State :=
  let s := s.freeWord.2
  s.setSite i { s.site i with
    attested := true
    isolated := false
    cause := 0
    qm1 := q % 16
    lastFlit := s.sched.gtc
    seqs := []
    invals := []
    ghosts := []
    chain := (List.range 32).map (Config.controllerByte (2 * s.sched.fresh + i)) }

/-- Whether a site serves: attested and not isolated. -/
def Site.serves (x : Site) : Bool := x.attested && !x.isolated

def Packet.is (p : Packet) (q : GuestPkt) : Bool := p.site = q.site && p.queue = q.queue && p.seq = q.seq

/-- The outstanding packet that a guest's packet names. -/
def State.packet? (s : State) (q : GuestPkt) : Option Packet := s.easel.packets.find? (fun p => p.is q)

def State.modPacket (s : State) (p : Packet) (f : Packet → Packet) : State :=
  { s with easel := { s.easel with packets := s.easel.packets.map (fun x =>
    if x.site = p.site ∧ x.queue = p.queue ∧ x.seq = p.seq then f x else x) } }

/-- A packet ends: its slot is free, and its command completes, with a failure or with the guest's code; a tile completion adds
its bytes (R257, R273, R340). -/
def State.endPacket (s : State) (p : Packet) (fail : Option Nat) (gres : Nat) : State :=
  let s := { s with easel := { s.easel with packets := s.easel.packets.filter (fun x =>
    !(x.site = p.site && x.queue = p.queue && x.seq = p.seq)) } }
  match s.cmd? p.cmd with
  | none => s
  | some c =>
    match c.kind with
    | .easel _ _ _ _ _ (some key) n64 =>
      (match fail with
       | some code => (s.modCmd p.cmd (fun c => c.failWith code s.self)).completeCmd p.cmd gres [key]
       | none => (s.countTile key (64 * n64)).completeCmd p.cmd gres [])
    | _ =>
      (match fail with
       | some code => (s.modCmd p.cmd (fun c => c.failWith code s.self)).completeCmd p.cmd gres []
       | none => s.completeCmd p.cmd gres [])

/-! ### Save buffers, STOP and RESUME (R338, R346) -/

/-- Save buffers of a site's pool, and those that packets hold. -/
def Site.bufferCount (x : Site) : Nat := fld x.gspool 57 7
def Site.bufferAddr (x : Site) (i : Nat) : Nat := fld x.gspool 20 37 * 2 ^ 20 + i * 2 ^ 20
def State.buffersHeld (s : State) (site : Nat) : List Nat := (s.easel.packets.filter (fun p => p.site = site)).filterMap (·.buf)

/-- The lowest free save buffer. -/
def State.freeBuffer (s : State) (site : Nat) : Option Nat :=
  (List.range (s.site site).bufferCount).find? (fun i => !(s.buffersHeld site).contains i)

/-- Whether something beside a packet waits for the driver's answer about a page on the packet's die: another packet of the site, an
engine command parked there, a lane access, or what reports its faults for die 0 (R307). -/
def State.recordShared (s : State) (p : Packet) (page : Nat) : Bool :=
  p.site = 0 || s.easel.packets.any (fun x => x.site = p.site && !(x.queue = p.queue && x.seq = p.seq) && x.ctx = p.ctx
      && (x.waits.map (· / 2 ^ 17)).contains page)
    || (slist s.eng.cmds).any (fun c => (c.2.parked.map (·.1)) = some page && coreDie c.2.core = p.site
      && (s.launch? c.2.launch).map (·.ctx) = some p.ctx)
    || (slist s.alloc.teams).any (fun t => coreDie t.2.geom.core = p.site && (s.launch? t.2.geom.launch).map (·.ctx) = some p.ctx
      && ([t.2.armT, t.2.armF].filterMap id).any (fun (a : Arm) => match a.wait with
        | .xlate ps => ps.any (fun x => x.1 / 2 ^ 17 = page)
        | _ => false))

/-- Withdraw the fault records that only this packet waited for (R346). -/
def State.withdrawFaults (s : State) (p : Packet) : State :=
  (p.waits.map (· / 2 ^ 17)).dedup.foldl (fun s page =>
    if s.recordShared p page then s
    else ({ s with easel := { s.easel with faults := s.easel.faults.filter (fun f => !(f.ctx = p.ctx && f.page = page && f.die = p.site)) } }).emit
      (.faultWithdrawn p.ctx page)) s

/-- Send STOP for a packet (R344, R346): it names one buffer of the pool. -/
def State.stopPacket (s : State) (p : Packet) : State :=
  match s.freeBuffer p.site with
  | none => s
  | some b =>
    let s := s.withdrawFaults p
    let s := s.modPacket p (fun x => { x with
      buf := some b, stopBy := some (s.sched.gtc + 100000), waits := [], owes := [] })
    s.emit (.packet p.site (contractPacket 0xF012 p.pkt (leBytes 8 ((s.site p.site).bufferAddr b))))

/-- Send RESUME for a stopped packet (R341): no bytes saved means that it starts afresh. -/
def State.resumePacket (s : State) (p : Packet) : State :=
  if p.stopped then
    let s' := s.modPacket p (fun x => { x with buf := none, savedLen := 0, stopped := false, granted := [], denied := [] })
    s'.emit (.packet p.site (contractPacket 0xF013 p.pkt
      (leBytes 8 ((s.site p.site).bufferAddr (p.buf.getD 0)) ++ leBytes 8 p.savedLen)))
  else s

/-! ### Isolation (R345) -/

/-- Whether an operation is a write of a site's guest, and a read of an agent one of its reads. -/
def Op.ofSite (x : Op) (site : Nat) : Bool :=
  match x.kind with
  | .guest st _ _ _ => st = site
  | _ => false
def AgentRead.ofSite (x : AgentRead) (site : Nat) : Bool :=
  match x.who with
  | .guest st _ _ => st = site
  | _ => false

/-- Whether a request at a home came through the port of a site. -/
def HomeReq.ofSite (s : State) (site : Nat) (r : HomeReq) : Bool :=
  r.src = .op && (match r.body with
    | .write _ op => ((oget s.coh.ops op).map (·.ofSite site)).getD false
    | .siRead _ _ id _ => ((oget s.coh.reads id).map (·.ofSite site)).getD false
    | .wtRead _ id _ => ((oget s.coh.reads id).map (·.ofSite site)).getD false
    | _ => false)

/-- Every port request of a site that has not committed is discarded (R345; log 63); what waited behind one at its home is served. -/
def State.dropPort (s : State) (site : Nat) : State :=
  let gone := fun (rs : List HomeReq) => rs.filter (fun r => !r.ofSite s site)
  let secs := ((slist s.coh.dir).filter (fun d => d.2.queue.any (fun r => r.ofSite s site))).map (·.1)
  let s' := { s with coh := { s.coh with
    dir := smap s.coh.dir (fun _ d => { d with queue := gone d.queue, pubWait := gone d.pubWait })
    reads := s.coh.reads.filter (fun r => match r.2 with | some x => !x.ofSite site | none => false)
    ops := s.coh.ops.filter (fun o => match o.2 with | some x => !x.ofSite site | none => false) } }
  secs.foldl State.serveAll s'

/-- Isolate a guest. -/
def State.isolate (s : State) (site cause : Nat) : State :=
  if (s.site site).isolated then s
  else
    let s := s.dropPort site
    let s := (s.easel.packets.filter (fun p => p.site = site)).foldl (fun s p => (s.withdrawFaults p).endPacket p (some Code.guest) 0) s
    let s := s.setSite site { s.site site with isolated := true, cause := cause, invals := [], ghosts := [] }
    s.faultEntry Ft.isolation cause site 0

/-! ### EASEL (R251, R273, R339, R342) -/

/-- The lowest slot of a queue that is free; a suspended launch has given up its slots (R283). -/
def State.freeSlotOf (s : State) (site queue : Nat) : Option Nat :=
  (List.range 64).find? (fun i => !s.easel.packets.any (fun p => p.site = site && p.queue = queue && p.slot = i
    && s.awake (p.team / 65536)))

/-- Send the packet of an image: SEQ, the command, the packet kept until it is answered. -/
def sendWork (k : Ctx) (f : CEasel) (l : Launch) (img : List Byte) (slot : Nat) (s : State) : State :=
  let site := if f.site then 1 else 0
  let queue := f.queue.toNat
  let x := s.site site
  let seq := sget 0 x.seqs queue
  let s := s.setSite site { x with seqs := sset 0 x.seqs queue ((seq + 1) % 2 ^ 32) }
  let n64 := bitsOf (leNat ((img.drop 12).take 4)) 16 15
  let compl := match f.stat with
    | some r => slot * 256 + r.toNat
    | none => 2 ^ 31 + n64 * 65536 + slot * 256 + f.ctile.toNat
  let pkt := workPacket img queue f.sg.toNat seq (teamField k.t.geom k.f) compl
  let ct := if f.stat.isSome then none else some (k.tile f.ctile.toNat)
  let c := { Cmd.init (.easel site queue seq slot pkt ct n64) k f.sg.toNat with
    slices := [k.slice f.stat none none 0], started := true, tiles := ct.toList }
  let r := s.enterCmd k c f.stat
  let p : Packet := ⟨site, queue, seq, slot, r.1, l.ctx, k.tid, pkt, [], [], [], [], none, none, 0, false⟩
  ({ r.2 with easel := { r.2.easel with packets := r.2.easel.packets ++ [p] } }).emit (.packet site pkt)

/-- An arm's unit reads whole sectors at their homes and goes on when every one has answered. -/
def armReads (k : Ctx) (s : State) (secs : List Nat) (go : State → List (List Byte × Bool × Nat) → Res) : Res :=
  let who := ReadAgent.arm ⟨k.tid, k.f⟩
  match s.agentReads who none secs with
  | (some ds, s') => go s' ds
  | (none, s') => if s.hasAsked who secs || !s'.hasAsked who secs then .wait else .stay s'

/-- The image has been read: what it may trap, and the waits for a slot and for the loads that the guest could overtake (R178). -/
def easelImage (k : Ctx) (f : CEasel) (l : Launch) (s : State) (bad : Bool) (img : List Byte) : Res :=
  let where_ : Nat := f.queue.toNat * 2 + if f.site then 1 else 0
  if bad then .trap Code.soft (BitVec.ofNat 64 (2 ^ 63 + f.gk.toNat))
  else if 0xF000 ≤ leNat (img.take 2) then .trap Code.guest (BitVec.ofNat 64 (256 + where_))
  else
    match s.freeSlotOf (if f.site then 1 else 0) f.queue.toNat with
    | none => .wait
    | some slot => if k.loaded s then .done (sendWork k f l img slot s) else .wait

/-- EASEL. -/
def easelEff (f : CEasel) (k : Ctx) (s : State) : Res :=
  unheld k s (fun k s =>
    match s.launch? k.t.geom.launch with
    | none => .wait
    | some l =>
      let e := k.entry s f.gk.toNat
      let o := k.t.greg (f.gk.toNat + 1)
      let x := s.site (if f.site then 1 else 0)
      let where_ : Nat := f.queue.toNat * 2 + if f.site then 1 else 0
      let go := checked
        [(misaligned o 128, Code.alignIssue, o),
         (decide (e.limit < o.toNat + 128), Code.bounds, o),
         (!x.serves || decide (x.qm1 < f.queue.toNat), Code.guest, BitVec.ofNat 64 where_)]
        (match placeOf l k.t.geom e 0 o.toNat with
         | .bank key => easelImage k f l s (s.poisoned (key / 64) || s.poisoned (key / 64 + 1)) (Memory.bytes s.mem key 128)
         | .va va =>
           -- the two sectors of the image may lie in two pages
           (match xlateVas s (coreUnit k.t.geom.core) l.ctx .read [va, va + 64] with
            | .fatal i => .trap Code.xlateFatal i
            | .miss ps => .park ps
            | .ok =>
              armReads k s ([va, va + 64].map (fun a => paOf s (coreUnit k.t.geom.core) l.ctx a / 64)) (fun s ds =>
                easelImage k f l s (ds.any (fun d => d.2.1)) (ds.flatMap (·.1))))
         | .pod .. => .wait
         | .mcast .. => .wait
         | .none => .wait)
      if k.refuses s f.gk.toNat (fun e => spaceIn [Sp.core, Sp.gallery, Sp.device] e && e.canRead) then
        .trap Code.handle (k.t.greg f.gk.toNat)
      else if f.stat.isSome then go
      else withTile k s f.ctile.toNat (fun _ => go))

/-- EASEL -/
def execEasel (f : CEasel) (s : State) : Out :=
  issueUnit (.easel f) { qg := f.qg.toNat, gr := pair f.gk, gw := statUse f.stat } s (easelEff f) true

end Sys2Proof.Machine
end

