-- ==== Sys2Proof/Machine/Pod.lean ====
section
/-! DEFINITION. The pod fabric: links, requests of other chips, answers, batches, time, dead peers, scale-out (R131, R133,
R322 to R333). -/

namespace Sys2Proof.Machine

def State.port? (s : State) (p : Nat) : Option Port := oget s.pod.ports p
def State.modPort (s : State) (p : Nat) (f : Port → Port) : State :=
  { s with pod := { s.pod with ports := oset s.pod.ports p ((s.port? p).map f) } }
def State.remote? (s : State) (key : Nat) : Option Remote := oget s.pod.remotes key
def State.setRemote (s : State) (key : Nat) (r : Option Remote) : State :=
  { s with pod := { s.pod with remotes := oset s.pod.remotes key r } }

/-! ### Links (R299, R323, R358) -/

/-- FLIT_RECEIVE (R289, R299, R323, R327): a bad flit is asked for again; one for another chip is forwarded, unless it would make a
ninth hop. On a port that is down it is lost. -/
def execFlitReceive (a : Nat) (b : Bool) (c d : Nat) (s : State) : Out :=
  if s.portUp a then
    let s := s.modPort a (fun x => { x with lastRx := s.sched.gtc })
    if !b then .next (s.emit (.replayRequest a))
    else if c = s.self ∨ 8 ≤ d then .next s
    else
      match s.pickPort c c [] with
      | some p => .next ((s.sendFlit p).emit (.flitForward c (d + 1)))
      | none => .next s
  else .next s

/-- REPLAY_REQUEST (R323): the data link sends a flit and every later one again, in order; on a port that is down it is lost. -/
def execReplayRequest (a b : Nat) (s : State) : Out :=
  match s.port? a with
  | none => .refused (.notEnabled "REPLAY_REQUEST")
  | some x => if !x.up then .next s else whenEnabled "REPLAY_REQUEST" (decide (b < x.flits))
      ((s.modPort a (fun x => { x with lastRx := s.sched.gtc, lastTx := s.sched.gtc })).emit (.flit a b))

/-- IDLE_FLIT (R323). -/
def execIdleFlit (a : Nat) (s : State) : Out := whenEnabled "IDLE_FLIT" (s.portUp a) ((s.sendFlit a).emit (.idle a))

/-- A request waits to leave again on a port it has not tried. -/
def Remote.again (r : Remote) : Remote := { r with sent := false, receipt := false, tried := r.port :: r.tried }
def RLoad.again (r : RLoad) : RLoad := { r with sent := false, receipt := false, tried := r.port :: r.tried }

/-- Close requests whose port is down leave again on another, once there is one (R328, R133; log 124). -/
def State.askAgain (s : State) : State :=
  (slist s.alloc.teams).foldl (fun s t => (slist t.2.closes).foldl (fun s c => c.2.asks.foldl (fun s a =>
    if c.2.waiting.contains a.1 && decide (a.1 ≠ s.self) && !s.portUp a.2.2 && (s.pickPort a.1 0 []).isSome then
      (s.modTeam t.1 (fun t => { t with closes := oset t.closes c.1 ((oget t.closes c.1).map (fun x =>
        { x with asks := x.asks.map (fun y => if y = a then (a.1, a.2.1, (s.pickPort a.1 0 []).getD 48) else y) })) })).sendOut
        a.1 0 (.closeRequest a.1 t.1 c.1 a.2.1)
    else s) s) s) s

/-- Everything that may leave again does. -/
def State.sendAgain (s : State) : State := s.flushRemotes.sendLoads.askAgain

/-- A port goes down: the requests that left on it are sent again elsewhere (R328). -/
def State.dropPortLink (s : State) (p : Nat) : State :=
  let s := s.modPort p (fun x => { x with up := false })
  ({ s with
    pod := { s.pod with remotes := smap s.pod.remotes (fun _ r => if r.sent && r.port = p then r.again else r) }
    atrium := { s.atrium with rloads := smap s.atrium.rloads (fun _ r => if r.sent && r.port = p then r.again else r) } }).sendAgain

/-- PORT_DOWN (R323): no flit for 10 µs. -/
def execPortDown (a : Nat) (s : State) : Out :=
  match s.port? a with
  | none => .refused (.notEnabled "PORT_DOWN")
  | some x => whenEnabled "PORT_DOWN" (x.up && decide (x.lastRx + 10000 ≤ s.sched.gtc)) (s.dropPortLink a)

/-- LINK_REKEY (R358): every 2^48 flits. -/
def execLinkRekey (a : Nat) (s : State) : Out :=
  match s.port? a with
  | none => .refused (.notEnabled "LINK_REKEY")
  | some x => whenEnabled "LINK_REKEY" (x.up && decide (2 ^ 48 ≤ x.flits)) (s.rekey a)

/-- PORT_RETRAIN (R323, R358, R363): the driver retrains a port that is down; a fenced one stays down. -/
def execPortRetrain (a : Nat) (s : State) : Out :=
  match s.port? a with
  | none => .refused (.notEnabled "PORT_RETRAIN")
  | some x => if s.mgmt.badPorts.contains a then .next s else whenEnabled "PORT_RETRAIN" (!x.up)
      ((s.modPort a (fun x => { x with up := true, lastRx := s.sched.gtc, lastTx := s.sched.gtc })).rekey a).sendAgain

/-! ### Requests of other chips (R325, R328, R329) -/

/-- The access a remote operation is checked for. -/
def remoteAcc : RemoteOp → Acc
  | .siRead _ => .read
  | .wtRead => .read
  | .write _ => .write
  | .atomic .. => .atomic
  | .hold => .write
  | .release _ => .write

def servedKey (r : RemoteReq) : Nat := remoteKey r.chip r.seq

/-- Note whether a request waits for a translation. -/
def State.setWaiting (s : State) (r : RemoteReq) (w : Bool) : State :=
  let x := (oget s.pod.served (servedKey r)).map (fun (x : Served) => { x with waiting := w })
  { s with pod := { s.pod with served := oset s.pod.served (servedKey r) x } }

/-- A request at a Gallery bank, performed at once. -/
def State.serveBank (s : State) (r : RemoteReq) (key : Nat) : State :=
  let sec := key / 64
  let bad := s.poisoned sec
  match r.op with
  | .siRead _ => s.answerChip r.chip r.seq (if bad then .poisoned (s.sectorData sec) else .done (s.sectorData sec) 0)
  | .wtRead => s.answerChip r.chip r.seq (if bad then .poisoned (s.sectorData sec) else .done (s.sectorData sec) 0)
  | .write cells =>
    (s.bankWrite (cells.map (fun c => (sec * 64 + c.1 % 64, c.2))) true).answerChip r.chip r.seq
      (if bad then .poisoned [] else .done [] 0)
  | .atomic aop wide lanes =>
    let x := atomicLanes aop wide sec lanes s.mem
    (s.bankWrite x.2 true).answerChip r.chip r.seq (if bad then .poisoned (oldBytes x.1) else .done (oldBytes x.1) 0)
  | .hold => s.homePerform sec ⟨.chip r.chip r.seq, .hold 0⟩
  | .release _ => s

/-- The request as a home takes it. -/
def homeBodyOf (r : RemoteReq) (sec : Nat) : HomeBody :=
  match r.op with
  | .siRead lease => .siRead lease r.acq noTeam 0
  | .wtRead => .wtRead r.acq noTeam 0
  | .write cells => .write (cells.map (fun c => (sec * 64 + c.1 % 64, c.2))) noTeam
  | .atomic aop wide lanes => .atomics aop wide lanes r.acq
  | .hold => .hold 0
  | .release _ => .wtRead r.acq noTeam 0

/-- Whether the home, or the bank, of a request takes it now (R163, R265). -/
def State.exportRoom (s : State) (r : RemoteReq) : Bool :=
  match s.exportAt r.exp r.off r.n (remoteAcc r.op) with
  | .mem _ _ pa => s.homeAccepts (pa / 64)
  | .bank key => !(remoteAcc r.op).isWrite || !s.bankHeld (key / 64)
  | _ => true

/-- Whether an earlier request of the chip to the same sector still waits (R172, R328). -/
def State.servedAhead (s : State) (r : RemoteReq) : Bool :=
  (slist s.pod.served).any (fun x => x.2.waiting && x.2.req.chip = r.chip && x.2.req.exp = r.exp && x.2.req.off / 64 = r.off / 64
    && decide (x.2.req.seq < r.seq))

/-- A CPYV of another chip lets the sector of its version word go, with the bytes it writes there (R265). -/
def State.letGo (s : State) (r : RemoteReq) (cells : List (Nat × Byte)) : State :=
  match s.pod.holds.find? (fun h => h.1 = r.chip && h.2.1 = r.exp && h.2.2.1 = r.off) with
  | none => s.answerChip r.chip r.seq (.done [] 0)
  | some h =>
    let sec := h.2.2.2
    let at_ := cells.map (fun c => (sec * 64 + c.1 % 64, c.2))
    let v := s.servedVas r.chip r.seq at_
    let s := { s with pod := { s.pod with holds := s.pod.holds.filter (· ≠ h) } }
    let s := if cells = [] then s else if bankSector sec then s.bankWrite at_ true else s.commit sec at_ true v.1 v.2
    (s.releaseHold sec).answerChip r.chip r.seq (.done [] 0)

/-- Perform an accepted request; one whose translation has to wait stays waiting (R307, R325), and so does a later one of its sector.
A sealed payload that fails its tag is discarded (R299). -/
def State.serveRemote (s : State) (r : RemoteReq) : State :=
  let s := s.exportWalked r.exp r.off
  if !r.tagOk then s.answerChip r.chip r.seq .discarded
  else if s.servedAhead r then s.setWaiting r true
  else
  match r.op with
  | .release cells => s.letGo r cells
  | _ =>
  match s.exportAt r.exp r.off r.n (remoteAcc r.op) with
  | .bank key => if s.exportRoom r then s.serveBank r key else s.setWaiting r true
  | .mem _ _ pa =>
    if s.exportRoom r then
      let s := s.setWaiting r false
      s.homeArrive (pa / 64) ⟨.chip r.chip r.seq, homeBodyOf r (pa / 64)⟩
    else s.setWaiting r true
  | .replay ctx page =>
    let s := s.setWaiting r true
    s.reportFault ctx page 0 ((remoteAcc r.op).isWrite) noTeam
  | .busy => s.setWaiting r true
  | .bad => s.answerChip r.chip r.seq .refusedExport
  | .fatal => s.answerChip r.chip r.seq .refusedXlate

/-- Whether a request may be accepted now: a batch record for it, room at its home. -/
def State.mayAccept (s : State) (r : RemoteReq) : Bool := s.recordFree r.chip r.batch && s.exportRoom r

/-- REMOTE_REQUEST (R322, R325, R328): a duplicate is answered with the saved reply; a request that cannot be accepted yet waits at the
ingress. A dead chip's packets are discarded, and a chip that has lost time for too long answers nothing. No request crosses a
sector. -/
def execRemoteRequest (a : RemoteReq) (s : State) : Out :=
  if 64 < a.off % 64 + a.n then .refused (.notEnabled "REMOTE_REQUEST")
  else if s.deaf a.chip then .next s
  else
    match oget s.pod.served (servedKey a) with
    | some x => .next (s.answerAgain a.chip a.seq x)
    | none =>
      if s.mayAccept a then
        let s := s.openRecord a.chip a.batch
        let s := { s with pod := { s.pod with served := oset s.pod.served (servedKey a) (some ⟨a, none, s.sched.gtc, false⟩) } }
        .next ((s.emit (.receipt a.chip a.seq)).serveRemote a)
      else .next s

/-- Try every request that waits for a translation again (R307, R325). -/
def State.retryServed (s : State) : State :=
  (slist s.pod.served).foldl (fun s x => if x.2.waiting then s.serveRemote x.2.req else s) s

/-- DUPLICATE_RECORD_EXPIRY (R328): after 2 ms; `a` is a chip, or 2048 more than one for the copy of an MCAST store. -/
def execDuplicateRecordExpiry (a b : Nat) (s : State) : Out :=
  match oget s.pod.served (remoteKey a b) with
  | none => .refused (.notEnabled "DUPLICATE_RECORD_EXPIRY")
  | some x => whenEnabled "DUPLICATE_RECORD_EXPIRY" (x.reply.isSome && decide (x.at_ + 2000000 ≤ s.sched.gtc))
      { s with pod := { s.pod with served := oset s.pod.served (remoteKey a b) none } }

/-- CLOSE_REQUEST (R133, R329). -/
def execCloseRequest (a b c d : Nat) (s : State) : Out :=
  if s.deaf a then .next s
  else
    match s.batch? a b c with
    | some x => .next (s.setBatch { x with closing := some d })
    | none =>
      if s.pod.batches.length < 16384 then .next (s.setBatch ⟨a, b, c, 0, some d, false, false, false⟩) else .next s

/-- END_NOTICE (R329). -/
def execEndNotice (a b : Nat) (s : State) : Out :=
  if s.pod.dead.contains a then .next s else .next { s with pod := { s.pod with batches := s.pod.batches.filter (fun x => !(x.chip = a && x.team = b)) } }

/-- WATCH_REGISTRATION (R131): a sector of this chip that an arm of chip `a` watches. A watch whose page is not resident, or that the
export refuses, is dropped, which leaves the arm its 4,096-cycle bound (DESIGN CHOICE, log 64). -/
def execWatchRegistration (a b c d : Nat) (s : State) : Out :=
  let put := fun (sec : Nat) => { s with coh := { s.coh with watches := s.coh.watches ++ [(sec, a, d)] } }
  if s.deaf a then .next s
  else
    match s.exportAt b c 1 .read with
    | .bank key => .next (put (key / 64))
    | .mem _ _ pa => .next (put (pa / 64))
    | .replay .. => .next s
    | .busy => .next s
    | .bad => .next s
    | .fatal => .next s

/-! ### Answers (R75, R159, R328) -/

/-- RECEIPT (R328): `a` is the target chip times 2^32 plus the sequence number. One for a request that is over, as of a chip that has
been declared dead since (R331), is discarded. -/
def execReceipt (a : Nat) (s : State) : Out :=
  match s.remote? a, oget s.atrium.rloads a with
  | some r, _ => .next (s.setRemote a (some { r with receipt := true }))
  | none, some r => .next { s with atrium := { s.atrium with rloads := oset s.atrium.rloads a (some { r with receipt := true }) } }
  | none, none => .next s

/-- Bytes of a remote sector that a command asked for. -/
def State.remoteBytes (s : State) (r : Remote) (data : List Byte) : State :=
  match oget s.coh.ops r.opId with
  | some x =>
    (match x.kind with
     | .cmdRead c sl off =>
       (s.modCmd c (fun y => { modSlice y sl (fun x =>
         { x with buf := (cellsOf off data).foldl (fun m z => oset m z.1 (some z.2)) x.buf }) with
           writes := y.writes.filter (· ≠ r.opId) })).dropOp r.opId
     | _ => s)
  | none => s

/-- The value of a remote load; an SI read's lease leaves an L copy (R159). -/
def State.remoteData (s : State) (r : Remote) (data : List Byte) (lease : Nat) : State :=
  let keep := (match r.op with | .siRead _ => true | _ => false) && s.mayInstall r.core r.sector r.load r.part
    && (match s.l1? r.core r.sector with | none => true | some x => x.st = .l) && decide (64 < lease)
  let s := (s.readyPart r.load r.part data).remoteBytes r data
  if keep then s.install r.core r.sector ⟨.l, data, 0, s.sched.gtc + lease - 64, []⟩ else s

/-- Data of a poisoned sector: its reader traps SOFT, a command fails (R318). -/
def State.remotePoison (s : State) (r : Remote) (data : List Byte) : State :=
  (s.modPart r.load r.part (fun l p => { p with st := .poisoned (l.vals p data) })).failCmdOp r.opId Code.soft r.chip

/-- A write or atomic has been performed: its arm's scoreboard, its command, the sender's tile (R152). -/
def State.remoteWritten (s : State) (r : Remote) : State :=
  let s := s.finishOp r.opId
  match r.count with
  | some (key, n) => s.countTile key n
  | none => s

/-- The lanes of a remote atomic that have written, by their old values: a CAS that fails delivers nothing (R113, R152). -/
def lanesWritten (aop : AOp) (wide : Bool) (lanes : List (Nat × Word × Word)) (olds : List Nat) : Nat :=
  ((lanes.zip olds).filter (fun x => (atomicNew aop wide x.2 (atomicArg wide x.1.2.1) (atomicArg wide x.1.2.2)).isSome)).length

/-- The old values of a remote atomic are in. -/
def State.remoteOlds (s : State) (r : Remote) (aop : AOp) (wide : Bool) (lanes : List (Nat × Word × Word)) (data : List Byte)
    (bad : Bool) : State :=
  let olds := (List.range lanes.length).map (fun i => dataAt data (8 * i) 8)
  (s.readyOlds r.load r.part olds bad).remoteWritten
    { r with count := r.count.map (fun x => (x.1, x.2 * lanesWritten aop wide lanes olds)) }

/-- A CPYV has the sector of its version word at another chip (R265): the word's bytes. -/
def State.remoteHeld (s : State) (r : Remote) (data : List Byte) : State :=
  match oget s.coh.ops r.opId with
  | some x =>
    (match x.kind with
     | .cmdHold c => (s.modCmd c (fun y => modSlice y 1 (fun x =>
         { x with buf := (cellsOf (r.off / 64 * 64) data).foldl (fun m z => oset m z.1 (some z.2)) x.buf }))).finishOp r.opId
     | _ => s)
  | none => s

/-- REMOTE_ACKNOWLEDGEMENT (R75, R118, R134, R152, R257, R325, R328): `a` numbers the request as in RECEIPT, or the copy of an MCAST
store at a member; one for a request that is over is discarded. -/
def execRemoteAcknowledgement (a : Nat) (b : RemoteEnd) (s : State) : Out :=
  match s.remote? a with
  | none => .next s
  | some r =>
    let s := s.setRemote a none
    let refused := fun (code : Nat) =>
      let s := s.failCmdOp r.opId code r.chip
      let s := if remoteIsWrite r.op then s else s.losePart r.load r.part r.chip
      if remoteIsRead r.op then s else s.finishOp r.opId false
    match b with
    | .refusedExport => .next (refused Code.bounds)
    | .refusedXlate => .next (refused Code.xlateFatal)
    | .discarded => .next (refused Code.soft)
    | .done data lease =>
      (match r.op with
       | .write _ => .next (s.remoteWritten r)
       | .atomic aop wide lanes => .next (s.remoteOlds r aop wide lanes data false)
       | .hold => .next (s.remoteHeld r data)
       | .release _ => .next (s.remoteWritten r)
       | .siRead _ => .next (s.remoteData r data lease)
       | .wtRead => .next (s.remoteData r data 0))
    | .poisoned data =>
      (match r.op with
       | .write _ => .next (s.remoteWritten r)
       | .atomic aop wide lanes => .next (s.remoteOlds r aop wide lanes data true)
       | .hold => .next ((s.failCmdOp r.opId Code.soft r.chip).remoteHeld r data)
       | .release _ => .next (s.remoteWritten r)
       | .siRead _ => .next (s.remotePoison r data)
       | .wtRead => .next (s.remotePoison r data))

/-- RESEND_TIMEOUT (R328): 200 µs without a receipt, of a request, of a copy of an MCAST store or of a reducing load. -/
def execResendTimeout (a : Nat) (s : State) : Out :=
  match s.remote? a, oget s.atrium.rloads a with
  | some r, _ => whenEnabled "RESEND_TIMEOUT" (r.sent && !r.receipt && decide (r.since + 200000 ≤ s.sched.gtc))
      (s.setRemote a (some r.again)).flushRemotes
  | none, some r => whenEnabled "RESEND_TIMEOUT" (r.sent && !r.receipt && decide (r.since + 200000 ≤ s.sched.gtc))
      { s with atrium := { s.atrium with rloads := oset s.atrium.rloads a (some r.again) } }.sendLoads
  | none, none => .refused (.notEnabled "RESEND_TIMEOUT")

/-- SUMMARY_REPLY (R133, R134): one that nothing awaits, as of a chip that has been declared dead since, is discarded (R331). -/
def execSummaryReply (a b c : Nat) (d e f : Bool) (s : State) : Out :=
  match (s.team? a).bind (fun t => oget t.closes b) with
  | none => .next s
  | some x =>
    if x.waiting.contains c then
      .next (s.settleClose a b { x with
        waiting := x.waiting.filter (· ≠ c)
        failed := if d || e || f then (c :: x.failed).dedup else x.failed
        poison := x.poison || d
        xlate := x.xlate || e
        bounds := x.bounds || f })
    else .next s

/-! ### Dead peers (R331, R332) -/

/-- A request to a dead peer ends (R332). -/
def State.endRemote (s : State) (chip : Nat) (key : Nat) (r : Remote) : State :=
  let s := s.setRemote key none
  let s := match r.tag with
    | some (tid, tag) => s.modTeam tid (fun t =>
        let ps := (sget [] t.peers tag).map (fun (x : Nat × Nat × Bool) => if x.1 = chip then (x.1, x.2.1, true) else x)
        { t with peers := sset [] t.peers tag ps })
    | none => s
  let s := s.failCmdOp r.opId 0x0F chip
  let s := if remoteIsWrite r.op then s else s.losePart r.load r.part chip
  if remoteIsRead r.op then s else s.finishOp r.opId false

/-- Whether work is outstanding to a chip that cannot be reached: no port of its mask is up, or a request has gone without a receipt
through resends on every port. -/
def State.unanswered (s : State) (chip : Nat) : Bool :=
  (slist s.pod.remotes).any (fun x => (x.2.chip = chip || s.nextHop x.2 = chip) && ((s.upPorts chip []).isEmpty
    || (!x.2.receipt && !x.2.sent && (s.upPorts (s.nextHop x.2) x.2.tried).isEmpty)))
  || (slist s.atrium.rloads).any (fun x => s.groupRoot x.2.group = chip && !x.2.receipt && !x.2.sent
    && (s.upPorts chip x.2.tried).isEmpty)
  || ((s.upPorts chip []).isEmpty
    && ((slist s.alloc.teams).any (fun t => (slist t.2.closes).any (fun c => c.2.waiting.contains chip))
      || (slist s.eng.cmds).any (fun c => match c.2.group? with | some g => (s.groupChips g).contains chip | none => false)
      || (slist s.atrium.rloads).any (fun x => (s.groupChips x.2.group).contains chip)))

/-- Everything outstanding to a peer that is declared dead. -/
def State.declareDead (s : State) (chip : Nat) : State :=
  let s := ({ s with pod := { s.pod with dead := chip :: s.pod.dead } }).faultEntry Ft.deadPeer 0 chip 0
  let s := (slist s.pod.remotes).foldl (fun s x => if x.2.chip = chip then s.endRemote chip x.1 x.2 else s) s
  let s := (slist s.alloc.teams).foldl (fun s t => (slist t.2.closes).foldl (fun s c => s.loseClose chip t.1 c.1 c.2) s) s
  let held := s.pod.holds.filter (fun h => h.1 = chip)
  let s := held.foldl (fun s h => s.releaseHold h.2.2.2)
    { s with pod := { s.pod with holds := s.pod.holds.filter (fun h => h.1 ≠ chip) } }
  let s := (List.range 256).foldl (fun s g =>
    if s.groupValid g && (s.groupChips g).contains chip then s.raiseGroupError g chip else s) s
  { s with coh := { s.coh with watches := s.coh.watches.filter (fun w => w.2.1 ≠ chip) } }

/-- DEAD_PEER_DECLARATION (R301, R331, R332). -/
def execDeadPeerDeclaration (a : Nat) (s : State) : Out :=
  whenEnabled "DEAD_PEER_DECLARATION" (!s.pod.dead.contains a && s.unanswered a) (s.declareDead a)

/-- DEAD_PEER_CLEAR (R331): the driver clears the declaration, if there is one. -/
def execDeadPeerClear (a : Nat) (s : State) : Out :=
  .next { s with pod := { s.pod with dead := s.pod.dead.filter (· ≠ a) } }

/-! ### Time (R124, R330) -/

def State.timectl (s : State) : Word := s.bar0 0x300080
def State.isMaster (s : State) : Bool := s.timectl.getLsbD 63

/-- Arms whose FENCE.SC has drained take heartbeat h (R124). -/
def beatArm (s : State) (h : Nat) (a : Arm) : Arm :=
  match a.wait with
  | .scDrain ops cmds => if (s.liveOps ops).isEmpty && (s.liveCmds cmds).isEmpty then { a with wait := .scWait h } else a
  | _ => a

/-- HEARTBEAT_TICK (R124, R330): the GTC has reached a multiple of 128. Every port that is up carries a time message. -/
def execHeartbeatTick (s : State) : Out :=
  let h := s.sched.gtc / 128
  whenEnabled "HEARTBEAT_TICK" (s.sched.gtc % 128 = 0 && decide (s.sched.hbeat < h))
    ((slist s.pod.ports).foldl (fun s p => if p.2.up then (s.sendFlit p.1).emit (.timeMessage p.1) else s)
      { s with
        sched := { s.sched with hbeat := h }
        alloc := { s.alloc with teams := smap s.alloc.teams (fun _ t =>
          { t with armT := t.armT.map (beatArm s h), armF := t.armF.map (beatArm s h) }) } })

/-- TIME_MESSAGE (R330): the estimate of the offset, local less master, from the port towards the master. On a
port that is down it is lost (R323). -/
def execTimeMessage (a : Nat) (b : Int) (s : State) : Out :=
  if s.portUp a then
    let s := s.modPort a (fun x => { x with lastRx := s.sched.gtc })
    if s.isMaster || !s.pod.timeStarted || fld s.timectl 0 6 ≠ a then .next s
    else
      let s := { s with pod := { s.pod with offset := b, lastTime := s.sched.gtc } }
      if b.natAbs ≤ 20 then .next { s with pod := { s.pod with locked := true, bounded := true, lostSince := none } }
      else .next s
  else .next s

/-- TIME_BOUND_LOSS (R330): the estimate exceeds 20 ticks, or no time message came for 100 µs. -/
def execTimeBoundLoss (s : State) : Out :=
  whenEnabled "TIME_BOUND_LOSS"
    (s.pod.locked && s.pod.bounded && !s.isMaster && (decide (20 < s.pod.offset.natAbs) || decide (s.pod.lastTime + 100000 ≤ s.sched.gtc)))
    { s with pod := { s.pod with bounded := false, lostSince := some s.sched.gtc } }

/-- TIME_BOUND_TIMEOUT (R330): not restored within 1 ms. -/
def execTimeBoundTimeout (s : State) : Out :=
  match s.pod.lostSince with
  | none => .refused (.notEnabled "TIME_BOUND_TIMEOUT")
  | some t => whenEnabled "TIME_BOUND_TIMEOUT" (s.pod.answering && decide (t + 1000000 ≤ s.sched.gtc))
      ({ s with pod := { s.pod with answering := false } }.emit .timeLost)

/-- Whether no launch is resident and no Easel packet outstanding (R330, R355). -/
def State.quiet (s : State) : Bool :=
  !(slist s.alloc.launches).any (fun l => l.2.onCore) && s.easel.packets.isEmpty

/-- GTC_LOAD (R330): once no launch is resident, no packet outstanding and every lease over, the master's time is loaded and every
EXP and summary expiry set to it; the deadlines counted from the old time start again (log 32). -/
def execGtcLoad (s : State) : Out :=
  let g := ((s.sched.gtc : Int) - s.pod.offset).toNat
  let done := (slist s.coh.dir).all (fun d => decide (d.2.exp ≤ s.sched.gtc)) && s.coh.summary.all (fun x => decide (x.2 ≤ s.sched.gtc))
  whenEnabled "GTC_LOAD" (s.noLeases && s.quiet && done)
    { s with
      sched := { s.sched with gtc := g, hbeat := g / 128 }
      coh := { s.coh with
        dir := smap s.coh.dir (fun _ d => { d with exp := g })
        summary := s.coh.summary.filterMap (fun x => if g = 0 then none else some (x.1, g))
        l1 := s.coh.l1.filter (fun x => match x.2 with | some y => y.st ≠ .l | none => false) }
      pod := { s.pod with
        locked := true
        bounded := true
        lostSince := none
        offset := 0
        lastTime := g
        ports := smap s.pod.ports (fun _ p => { p with lastRx := g, lastTx := g })
        remotes := smap s.pod.remotes (fun _ r => { r with since := g })
        served := smap s.pod.served (fun _ x => { x with at_ := g }) }
      atrium := { s.atrium with
        rloads := smap s.atrium.rloads (fun _ r => { r with since := g })
        lastMove := if g = 0 then [] else s.atrium.lastMove.map (fun x => (x.1, g))
        memberWaits := s.atrium.memberWaits.map (fun x => (x.1, x.2.1, g)) }
      easel := { s.easel with sites := smap s.easel.sites (fun _ x => { x with
        lastFlit := g
        invals := x.invals.map (fun i => { i with by_ := i.by_ - s.sched.gtc + g })
        ghosts := x.ghosts.map (fun y => (y.1, y.2.1, y.2.2 - s.sched.gtc + g)) }) } }

/-! ### Scale-out (R333) -/

/-- UET_WRITE (R325, R326, R333): a write from the network, checked and delivered like a remote store. -/
def execUetWrite (a b : Nat) (c : List Byte) (s : State) : Out :=
  if 64 < b % 64 + c.length ∨ s.mgmt.stage < 3 then .refused (.notEnabled "UET_WRITE")
  else
    match s.exportWrite (OpKind.delivery none) a b c.length (cellsOf b c) with
    | .done _ s' => .next s'
    | .wait s' => .next s'
    | .bad => .next s
    | .fatal => .next s

/-- Bytes that a command reads from the network, slice by slice. -/
def netBytes (c : Cmd) : Nat :=
  (c.slices.map (fun x => match x.src with | some r => if r.entry.space = Sp.net then r.len else 0 | none => 0)).sum

/-- Give the slices of a command their bytes from the network. -/
def netFill (data : List Byte) : List Slice → List Slice
  | [] => []
  | x :: r =>
    match x.src with
    | some g =>
      if g.entry.space = Sp.net then
        { x with buf := (cellsOf g.off (data.take g.len)).foldl (fun m z => oset m z.1 (some z.2)) x.buf } :: netFill (data.drop g.len) r
      else x :: netFill data r
    | none => x :: netFill data r

/-- A command's operation for which the transport has answered leaves it. -/
def State.endNet (s : State) (cid : Nat) (o : Option Nat) : State :=
  match o with
  | some o => (s.modCmd cid (fun c => { c with writes := c.writes.filter (· ≠ o) })).dropOp o
  | none => s

/-- UET_DELIVERY (R333): the transport reports that every packet of a copy's reads was delivered, with the bytes, or, with none, every
packet of its writes; a report of any other length says that it could not. -/
def execUetDelivery (a : Nat) (b : List Byte) (s : State) : Out :=
  match s.cmd? a with
  | none => .refused (.notEnabled "UET_DELIVERY")
  | some c =>
    match netOp s c OpKind.reads, netOp s c OpKind.netWrite with
    | none, none => .refused (.notEnabled "UET_DELIVERY")
    | some o, w =>
      if b.length = netBytes c then .next ((s.modCmd a (fun c => { c with slices := netFill b c.slices })).endNet a (some o))
      else .next (((s.modCmd a (fun c => c.failWith 0x0F 0)).endNet a (some o)).endNet a w)
    | none, some o =>
      if b = [] then whenEnabled "UET_DELIVERY" (doneMoving c) (s.finishOp o)
      else .next ((s.modCmd a (fun c => c.failWith 0x0F 0)).endNet a (some o))

end Sys2Proof.Machine
end

