-- ==== Sys2Proof/Machine/Time.lean ====
section
/-! DEFINITION. Time, the next unit of the current arm, and the state in which a word stands where the next fetch reads (helpers of
Step). -/

namespace Sys2Proof.Machine

/-- Time passes (R364): at most to the next heartbeat tick, which is an event of its own and comes before more time. -/
def elapse (s : State) (ticks : Nat) : State :=
  let due := s.sched.gtc % 128 = 0 ∧ s.sched.hbeat < s.sched.gtc / 128
  let room := if due then 0 else 128 - s.sched.gtc % 128
  { s with sched := { s.sched with gtc := s.sched.gtc + min ticks room } }

/-- The arm whose unit comes next, with its launch, when it may issue. -/
def State.issuing (s : State) : Option (Nat × Bool × Team × Arm × Launch) :=
  match s.curArm with
  | none => none
  | some (tid, f, t, a) =>
    match s.launch? t.geom.launch with
    | none => none
    | some l => if armMayIssue s t f a then some (tid, f, t, a, l) else none

/-- The unit the current arm issues next. -/
def State.nextUnit (s : State) : Option UnitRes :=
  match s.issuing with
  | none => none
  | some (_, _, t, a, l) => some (fetchUnit s l t.geom.core a.pc.toNat)

/-- The state in which the current arm's next unit has been fetched. -/
def State.fetched (s : State) : State :=
  match s.issuing with
  | none => s
  | some (_, _, t, a, l) => s.unitFetched l t.geom.core a.pc.toNat

/-- A fetch that gives no instruction: the trap is taken, or the arm parks (R11, R33, R307). -/
def fetchStop (s : State) (r : UnitRes) : State :=
  match s.issuing with
  | none => s
  | some (tid, f, _, a, _) =>
    match r with
    | .unit _ => s
    | .busy => s.blocked
    | .trap len code info => takeTrap s tid f a.pc len code info
    | .replay p => parkArm' s tid f p
where
  /-- park at an address of code -/
  parkArm' (s : State) (tid : Nat) (f : Bool) (p : Nat) : State :=
    s.modArm tid f (fun a => { a with wait := .xlate [(p, false, false)] })

/-! ### The state whose next fetch reads a given word (log 12) -/

/-- Page tables, at fixed places, that map virtual page 0 of context 0 readable onto physical 0xE0000. -/
def probeTables : List (Nat × Byte) :=
  cellsOf 0 (leBytes 8 0x80001) ++ cellsOf 0x80000 (leBytes 8 0xA0003) ++ cellsOf 0xA0000 (leBytes 8 0xC0003)
    ++ cellsOf 0xC0000 (leBytes 8 0xE0005)

/-- The launch of the probe: one block of one team of one lane on core 0, code at virtual address 0. -/
def probeLaunch : Launch where
  lr := ⟨0, 0x10000, 0, 1, 7, 7, 0, 32, 0, 0, 0, 0, 0, 0, 1, true, 0, 0, 0⟩
  ctx := 0
  prio := 0
  inst := 0
  node := 0
  scope := 3
  status := .resident
  placed := 0
  x0 := 0
  y0 := 0
  pal := []
  scratchAt := []
  slots := []
  saved := []

/-- An arm at team start (R83). -/
def Arm.start (pc : Word) (active : LaneMask) : Arm := ⟨pc, active, [], [], 0, false, .ready, [], [], [], [], false, 0, 0, 0⟩

/-- A team at its start (R83). -/
def Team.start (g : TeamGeom) (pc vec seed : Word) (chip : Nat) : Team where
  geom := g
  armT := some (Arm.start pc (firstLanes g.lanes))
  armF := none
  live := firstLanes g.lanes
  lanes := (List.range g.lanes).map (fun L => { Lane.init with gen := seedGen seed (globalLane chip g L) })
  g := []
  q := 0
  vmark := []
  gmark := []
  joins := []
  nextInst := 0
  walkers := []
  slots := []
  trap := ⟨vec, 0, 0, 0, 0⟩
  srseed := seed
  engfail := false
  nolane := false
  lostjoin := false
  engcode := none
  batchNo := 0
  batches := []
  conv := 0
  batchGen := []
  peers := []
  closes := []
  barPhase := []
  collSeq := 0
  units := []

/-- The team of the probe. -/
def probeTeam : Team := Team.start ⟨0, 0, 0, 0, 0, 0, 1, 64, 64, 32⟩ 0 0 0 0

/-- `withFetchWord` (see Step): the probe launch resident and current, the word's bytes where its code lies. -/
def placeWord (s : State) (nbits w : Nat) : State :=
  { s with
    sched := { s.sched with cur := some ⟨0, false⟩, agenda := [], issued := [], waits := false }
    mem := Memory.putAll s.mem (probeTables ++ cellsOf 0xE0000 (leBytes (nbits / 8) w ++ leBytes (8 - nbits / 8) 0))
    alloc := { s.alloc with
      launches := oset s.alloc.launches 0 (some probeLaunch)
      teams := oset s.alloc.teams 0 (some probeTeam) }
    -- no translation, copy or request of before stands between the fetch and the words placed
    coh := { s.coh with dir := [], net := [] }
    easel := { s.easel with tlb := [] }
    eng := { s.eng with fenced := [] }
    mgmt := { s.mgmt with stage := 3, bar0 := sset 0 s.mgmt.bar0 0x300400 0 } }

end Sys2Proof.Machine
end

