-- ==== Sys2Proof/Machine/Placement.lean ====
section
/-! DEFINITION. The core allocator: launch records, room, placement, pre-emption, suspension, resumption, the end of a team (R64,
R79, R82, R241 to R246, R308 to R315). -/

namespace Sys2Proof.Machine

/-! ### Accesses at virtual addresses by the walkers and the allocator -/

/-- The words of little-endian bytes. -/
def wordsOf : Nat → List Byte → List Word
  | 0, _ => []
  | n + 1, d => BitVec.ofNat 64 (leNat (d.take 8)) :: wordsOf n (d.drop 8)

/-- Pieces of a run of bytes, cut at sector boundaries. -/
def cutRun : Nat → Nat → List Byte → List (Nat × List Byte)
  | 0, _, _ => []
  | k + 1, va, d =>
    if d.isEmpty then []
    else
      let m := 64 - va % 64
      (va, d.take m) :: cutRun k (va + m) (d.drop m)

/-- How an agent's access to bytes of a context stands. -/
inductive Virt (α : Type)
  | ok (x : α) (s : State)
  | replay (page : Nat) (s : State)
  | fatal (s : State)
  /-- a home has not answered, or does not take the request yet -/
  | busy (s : State)

/-- The state an access leaves. -/
def Virt.st {α : Type} : Virt α → State
  | .ok _ s => s
  | .replay _ s => s
  | .fatal s => s
  | .busy s => s

/-- What follows an access that has succeeded. -/
def Virt.bind {α β : Type} (x : Virt α) (go : α → State → Virt β) : Virt β :=
  match x with
  | .ok a s => go a s
  | .replay p s => .replay p s
  | .fatal s => .fatal s
  | .busy s => .busy s

/-- The physical address of a virtual one. The page tables are read as agents read memory. -/
def physOne (s : State) (ctx va : Nat) (acc : Acc) : Virt Nat :=
  let s := s.walked (dieUnit 0) ctx va
  let r := xlHeld s (dieUnit 0) ctx va acc
  match r.1 with
  | .page .. => .ok r.2 s
  | .replay .. => .replay (va / 2 ^ 17) s
  | .fatal => .fatal s
  | .busy => .busy s

/-- Physical addresses of virtual ones, one after the other. -/
def physOf (ctx : Nat) (acc : Acc) : List Nat → State → Virt (List Nat)
  | [], s => .ok [] s
  | va :: r, s => (physOne s ctx va acc).bind (fun pa s => (physOf ctx acc r s).bind (fun l s => .ok (pa :: l) s))

/-- Read n bytes as WT reads at their homes (R165): the bytes, and whether a sector of theirs is poisoned. What an agent has read it
keeps until it is done (`State.dropReads`). -/
def readVirt (s : State) (who : ReadAgent) (ctx va n : Nat) : Virt (List Byte × Bool) :=
  let ps := cutRun (n / 64 + 2) va (List.replicate n 0)
  (physOf ctx .read (ps.map (·.1)) s).bind (fun pas s =>
    let r := s.agentAsk who none (pas.map (· / 64))
    match r.1 with
    | some ds =>
      .ok ((ps.zip (pas.zip ds)).flatMap (fun x => (x.2.2.1.drop (x.2.1 % 64)).take x.1.2.length), ds.any (fun d => d.2.1)) r.2
    | none => .busy r.2)

/-- Write bytes under operation kind `kind`, the last piece under `last` (R165, R182): the operations. -/
def writeVirt (s : State) (ctx va : Nat) (d : List Byte) (kind last : Nat → OpKind) : Virt (List Nat) :=
  let ps := cutRun (d.length / 64 + 2) va d
  (physOf ctx .write (ps.map (·.1)) s).bind (fun pas s =>
    if pas.all (fun pa => s.homeAccepts (pa / 64)) then
      let r := (ps.zip pas).zipIdx.foldl (fun (acc : List Nat × State) p =>
        let w := acc.2.agentWrite ((if p.2 + 1 = ps.length then last else kind) p.1.1.1) p.1.2 p.1.1.2
        (w.1 :: acc.1, w.2)) ([], s)
      .ok r.1 r.2
    else .busy s)

/-! ### The launch record (R241) -/

/-- Fields of a launch record. -/
def parseRecord (w : List Word) : LaunchRec :=
  let x := fun (i : Nat) => (w[i]?).getD 0
  { code := fld (x 0) 0 57, codeLen := fld (x 1) 0 32, entry := fld (x 1) 32 32, lanes := fld (x 2) 0 11
    vregs := fld (x 2) 16 3, gregs := fld (x 2) 20 3, teams := fld (x 2) 24 4, barriers := fld (x 2) 32 6
    scratch := fld (x 2) 40 9 * 4096, gw := fld (x 3) 0 2, gh := fld (x 3) 2 2, lw := fld (x 3) 8 4, lh := fld (x 3) 16 4
    blocks := fld (x 3) 24 4, weight := fld (x 3) 32 4, mx := (x 3).getLsbD 40, palette := fld (x 4) 0 57
    srseed := x 5, trapvec := fld (x 6) 0 57 }

/-- The bits of word i that a record may set. -/
def recordMask (i : Nat) : Nat :=
  if i = 0 ∨ i = 4 ∨ i = 6 then 2 ^ 57 - 1
  else if i = 1 ∨ i = 5 then 2 ^ 64 - 1
  else if i = 2 then 0x7FF + 7 * 2 ^ 16 + 7 * 2 ^ 20 + 15 * 2 ^ 24 + 63 * 2 ^ 32 + 511 * 2 ^ 40
  else if i = 3 then 15 + 15 * 2 ^ 8 + 15 * 2 ^ 16 + 15 * 2 ^ 24 + 15 * 2 ^ 32 + 2 ^ 40
  else 0

/-- Register-file entries of a team (R82). -/
def LaunchRec.entries (r : LaunchRec) : Nat := 32 * ((r.lanes + 31) / 32) * (8 * (r.vregs + 1))

/-! ### Room on a core (R242, R244) -/

def Launch.covers (l : Launch) (core : Nat) : Bool :=
  decide (l.x0 ≤ coreX core ∧ coreX core ≤ l.x0 + l.lr.lw ∧ l.y0 ≤ coreY core ∧ coreY core ≤ l.y0 + l.lr.lh)

/-- The cores of a rectangle. -/
def rectCores (r : LaunchRec) (x0 y0 : Nat) : List Nat :=
  (List.range ((r.lw + 1) * (r.lh + 1))).map (fun i => (y0 + i / (r.lw + 1)) * 16 + x0 + i % (r.lw + 1))

def Launch.cores (l : Launch) : List Nat := rectCores l.lr l.x0 l.y0

/-- The number of a launch's k-th team. -/
def teamId (lid k : Nat) : Nat := lid * 65536 + k
def launchOfTeam (tid : Nat) : Nat := tid / 65536

/-- The core of a launch's team: teams are numbered core by core. -/
def Launch.teamCore (l : Launch) (tid : Nat) : Nat := (l.cores[tid % 65536 / ((l.lr.blocks + 1) * (l.lr.teams + 1))]?).getD 0

/-- Whether two cores of a launch are of one gang. -/
def Launch.sameGang (l : Launch) (a b : Nat) : Bool := l.gangCore a 0 = l.gangCore b 0

/-- Whether an operation of a launch must complete before it is suspended (R308, step 3) or its gang retires (R288). -/
def opHolds (lid : Nat) (o : Op) : Bool :=
  launchOfTeam o.team = lid && (o.kind = .store || o.kind = .atomic || o.kind = .stm || o.kind = .cache)

/-- Whether the gang of a core has not retired (R121, R243, R288): a team of it lives, or an engine command, store, STM copy, atomic or
write-back that it issued is not complete. -/
def gangStays (s : State) (lid : Nat) (l : Launch) (core : Nat) : Bool :=
  !(s.gangLive lid l core).isEmpty
    || (slist s.eng.cmds).any (fun c => c.2.launch = lid && l.sameGang c.2.core core)
    || (slist s.coh.ops).any (fun o => opHolds lid o.2 && l.sameGang (l.teamCore o.2.team) core)

/-- Launches whose blocks a core holds: their gang there has not retired (R243). Those in `ex` are taken as gone. -/
def holders (s : State) (ex : List Nat) (core : Nat) : List (Nat × Launch) :=
  (slist s.alloc.launches).filter (fun kl => kl.2.onCore && !ex.contains kl.1 && kl.2.covers core && gangStays s kl.1 kl.2 core)

/-- The scratchpad runs a launch's blocks hold on a core: offset and length. -/
def Launch.runs (l : Launch) (core : Nat) : List (Nat × Nat) :=
  (List.range (l.lr.blocks + 1)).map (fun b => (sget 0 l.scratchAt (core * 16 + b), l.lr.scratch))

/-- The lowest offset at which `n` bytes are free (R244). -/
def lowestFree (runs : List (Nat × Nat)) (n : Nat) : Option Nat :=
  ((List.range 257).map (fun i => i * 4096)).find? (fun o =>
    decide (o + n ≤ 2 ^ 20) && !runs.any (fun r => decide (o < r.1 + r.2) && decide (r.1 < o + n)))

/-- Offsets of `k` new blocks, each in turn. -/
def placeRuns (n : Nat) : Nat → List (Nat × Nat) → Option (List Nat)
  | 0, _ => some []
  | k + 1, runs =>
    match lowestFree runs n with
    | none => none
    | some o => (placeRuns n k ((o, n) :: runs)).map (fun r => o :: r)

/-- Resident teams of a core. -/
def coreTeams (s : State) (ex : List Nat) (core : Nat) : List Team :=
  ((slist s.alloc.teams).filter (fun kt => kt.2.geom.core = core && !ex.contains kt.2.geom.launch
    && (match s.launch? kt.2.geom.launch with | some l => l.onCore | none => false))).map (·.2)

def TeamGeom.entries (g : TeamGeom) : Nat := 32 * ((g.lanes + 31) / 32) * g.vcount

/-- Entries in use on each of the 16 datapaths. -/
def datapathUse (ts : List Team) : List Nat :=
  (List.range 16).map (fun d => ((ts.filter (fun t => t.geom.datapath = d)).map (fun t => t.geom.entries)).sum)

/-- Where teams of `n` entries each lie in the register files of the datapaths they are bound to, in runs of 32 entries: the lowest that
are free, which the spec leaves open (DESIGN CHOICE, log 65). `used` is what the teams of a core hold: datapath, runs. -/
def bindUnits (n : Nat) : List Nat → List (Nat × List Nat) → List (List Nat)
  | [], _ => []
  | d :: r, used =>
    let taken := (used.filter (fun x => x.1 = d)).flatMap (·.2)
    let mine := ((List.range 512).filter (fun i => !taken.contains i)).take (n / 32)
    mine :: bindUnits n r ((d, mine) :: used)

/-- Bind k teams of `n` entries each to the lowest datapaths with room. -/
def bindTeams (n : Nat) : Nat → List Nat → Option (List Nat)
  | 0, _ => some []
  | k + 1, use =>
    match use.findIdx? (fun u => decide (u + n ≤ 16384)) with
    | none => none
    | some d => (bindTeams n k (use.modify d (· + n))).map (fun r => d :: r)

/-- What a core gives a launch: scratchpad offsets of its blocks, datapaths, register-file runs and slots of its teams. -/
structure CorePlan where
  core : Nat
  offs : List Nat
  dps : List Nat
  units : List (List Nat)
  slots : List Nat
  deriving DecidableEq

/-- Room on one core, with the launches of `ex` gone. -/
def planCore (s : State) (ex : List Nat) (r : LaunchRec) (core : Nat) : Option CorePlan :=
  let hs := holders s ex core
  let ts := coreTeams s ex core
  let nb := r.blocks + 1
  let nt := nb * (r.teams + 1)
  if s.eng.fenced.contains core || decide (16 < (hs.map (fun h => h.2.lr.blocks + 1)).sum + nb) || decide (64 < ts.length + nt)
    || (r.mx && hs.any (fun h => h.2.lr.mx)) then none
  else
    match placeRuns r.scratch nb (hs.flatMap (fun h => h.2.runs core)), bindTeams r.entries nt (datapathUse ts) with
    | some offs, some dps =>
      some ⟨core, offs, dps, bindUnits r.entries dps (ts.map (fun t => (t.geom.datapath, t.units))),
        (((List.range 64).filter (fun i => !ts.any (fun t => t.geom.slot = i))).take nt)⟩
    | _, _ => none

/-- All of a list, or none. -/
def allSome {α : Type} : List (Option α) → Option (List α)
  | [] => some []
  | none :: _ => none
  | some x :: r => (allSome r).map (fun l => x :: l)

def planAt (s : State) (ex : List Nat) (r : LaunchRec) (o : Nat × Nat) : Option (List CorePlan) :=
  allSome ((rectCores r o.1 o.2).map (planCore s ex r))

/-- Origins in the allocator's order (R242). -/
def origins (r : LaunchRec) : List (Nat × Nat) :=
  (List.range 12).flatMap (fun y => (List.range 16).filterMap (fun x =>
    if x % 2 ^ r.gw = 0 ∧ y % 2 ^ r.gh = 0 ∧ x + r.lw < 16 ∧ y + r.lh < 12 then some (x, y) else none))

/-- The first origin with room, and what each core gives. -/
def planFirst (s : State) (ex : List Nat) (r : LaunchRec) : List (Nat × Nat) → Option ((Nat × Nat) × List CorePlan)
  | [] => none
  | o :: rest =>
    match planAt s ex r o with
    | some p => some (o, p)
    | none => planFirst s ex r rest

/-- Whether a record may be launched (R79, R241, R242). -/
def recordOk (w : List Word) : Bool :=
  let r := parseRecord w
  let nb := r.blocks + 1
  let nt := nb * (r.teams + 1)
  (w.zipIdx.all (fun x => x.1.toNat &&& (2 ^ 64 - 1 - recordMask x.2) = 0)) && w.length = 8
    && decide (r.code % 64 = 0 ∧ r.codeLen % 4 = 0 ∧ r.codeLen ≠ 0 ∧ r.entry % 4 = 0 ∧ r.entry < r.codeLen)
    && decide (1 ≤ r.lanes ∧ r.lanes ≤ 1024 ∧ r.barriers ≤ 32 ∧ r.scratch ≤ 2 ^ 20 ∧ 1 ≤ r.weight ∧ r.lh ≤ 11)
    && decide ((r.lw + 1) % 2 ^ r.gw = 0 ∧ (r.lh + 1) % 2 ^ r.gh = 0)
    && decide (r.palette % 64 = 0 ∧ r.trapvec % 4 = 0 ∧ r.entries ≤ 16384)
    && decide (nt ≤ 64 ∧ nb * r.scratch ≤ 2 ^ 20) && (bindTeams r.entries nt (List.replicate 16 0)).isSome

/-! ### Placement (R242 to R244) -/

/-- The launch the allocator serves next: the highest class, in arrival order; a suspended launch keeps its place (R243, R246). -/
def allocHead (s : State) : Option (Nat × Launch) :=
  ((slist s.alloc.launches).filter (fun kl => kl.2.status = .waiting || kl.2.status = .suspended)).foldl (fun best kl =>
    match best with
    | none => some kl
    | some b => if b.2.prio < kl.2.prio ∨ (b.2.prio = kl.2.prio ∧ kl.1 < b.1) then some kl else best) none

/-- The palette of a launch from its image. -/
def parsePalette (r : LaunchRec) (img : List Byte) : Store PalEntry :=
  let k : PalCtx := ⟨r.scratch, 2 ^ r.gw * 2 ^ r.gh, r.lanes, r.teams + 1⟩
  (List.range 256).foldl (fun m i =>
    let e := parseEntry k (wordsOf 8 ((img.drop (64 * i)).take 64))
    if e.ok then sset PalEntry.invalid m i e else m) []

/-- The teams of one core. `base` numbers the first. -/
def startTeams (lid : Nat) (r : LaunchRec) (chip base : Nat) (p : CorePlan) (m : Store (Option Team)) : Store (Option Team) :=
  (List.range ((r.blocks + 1) * (r.teams + 1))).foldl (fun m i =>
    let g : TeamGeom := ⟨lid, p.core, i / (r.teams + 1), i % (r.teams + 1), (p.slots[i]?).getD 0, (p.dps[i]?).getD 0, r.lanes,
      8 * (r.vregs + 1), 8 * (r.gregs + 1), r.barriers⟩
    oset m (teamId lid (base + i)) (some { Team.start g (BitVec.ofNat 64 (r.code + r.entry)) (BitVec.ofNat 64 r.trapvec) r.srseed
      chip with units := (p.units[i]?).getD [] })) m

/-- Place a launch: allocations, palette, teams (R83, R244, R255). -/
def placeLaunch (s : State) (lid : Nat) (l : Launch) (o : Nat × Nat) (ps : List CorePlan) (pal : Store PalEntry) : State :=
  let n := (l.lr.blocks + 1) * (l.lr.teams + 1)
  let l' : Launch := { l with
    status := .resident, placed := s.alloc.placed, x0 := o.1, y0 := o.2, pal := pal
    scratchAt := ps.foldl (fun m p => p.offs.zipIdx.foldl (fun m b => sset 0 m (p.core * 16 + b.2) b.1) m) [] }
  let teams := ps.zipIdx.foldl (fun m p => startTeams lid l.lr s.self (p.2 * n) p.1 m) s.alloc.teams
  { s with alloc := { s.alloc with
    placed := s.alloc.placed + 1, teams := teams, launches := oset s.alloc.launches lid (some l') } }

/-- A launch ends before it starts: its node fails with a code. -/
def State.failLaunch (s : State) (lid code : Nat) : State := s.modLaunch lid (fun l => { l with status := .aborting code s.sched.gtc })

/-- LAUNCH_PLACEMENT (R144, R242 to R244). The palette is read when the launch is placed; the code of a launch whose palette is
poisoned is open, and so free (log 66). -/
def execLaunchPlacement (s : State) : Out :=
  match allocHead s with
  | none => .refused (.notEnabled "LAUNCH_PLACEMENT")
  | some (lid, l) =>
    if l.status ≠ .waiting ∨ s.mgmt.stage < 3 then .refused (.notEnabled "LAUNCH_PLACEMENT")
    else
      match planFirst s [] l.lr (origins l.lr) with
      | none => .refused (.notEnabled "LAUNCH_PLACEMENT")
      | some (o, ps) =>
        let who := ReadAgent.launch lid
        match readVirt s who l.ctx l.lr.palette 16384 with
        | .ok (img, bad) s' =>
          let s' := s'.dropReads who
          let v := s'.freeWord
          .next (if bad then v.2.failLaunch lid (fld v.1 0 8) else placeLaunch s' lid l o ps (parsePalette l.lr img))
        | .replay p s' => .next (s'.reportFault l.ctx p (if o.1 < 8 then 0 else 1) false (teamId lid 0))
        | .fatal s' => .next ((s'.dropReads who).failLaunch lid 4)
        | .busy s' => .next s'

/-! ### Pre-emption (R246, R308, R309) -/

/-- Save slots that are free (R309). -/
def freeSaveSlots (s : State) : List Nat :=
  (List.range (fld (s.bar0 0x300008) 0 16)).filter (fun i => !(slist s.alloc.launches).any (fun kl => kl.2.slots.contains i))

def Launch.coreCount (l : Launch) : Nat := (l.lr.lw + 1) * (l.lr.lh + 1)

/-- Outstanding packets of a launch at a site. -/
def launchPackets (s : State) (lid site : Nat) : List Packet :=
  s.easel.packets.filter (fun p => p.site = site && launchOfTeam p.team = lid)

/-- Whether save slots and save buffers last for one more victim after those chosen (R309, R346). -/
def affordable (s : State) (victims : List (Nat × Launch)) : Bool :=
  decide ((victims.map (fun v => v.2.coreCount)).sum ≤ (freeSaveSlots s).length)
    && [0, 1].all (fun st => decide ((victims.map (fun v => (launchPackets s v.1 st).length)).sum
      + (s.buffersHeld st).length ≤ (s.site st).bufferCount) || victims.all (fun v => (launchPackets s v.1 st).isEmpty))

/-- Insert a launch by class, lowest first, then the most recently placed. -/
def insVictim (x : Nat × Launch) : List (Nat × Launch) → List (Nat × Launch)
  | [] => [x]
  | y :: r => if x.2.prio < y.2.prio ∨ (x.2.prio = y.2.prio ∧ y.2.placed < x.2.placed) then x :: y :: r else y :: insVictim x r

/-- Launches of a lower class that hold a core of a rectangle, in the order they are taken. -/
def victimsAt (s : State) (l : Launch) (o : Nat × Nat) : List (Nat × Launch) :=
  ((slist s.alloc.launches).filter (fun kl => kl.2.status = .resident && decide (kl.2.prio < l.prio)
    && (rectCores l.lr o.1 o.2).any (fun c => kl.2.covers c && gangStays s kl.1 kl.2 c))).foldl (fun acc x => insVictim x acc) []

/-- Take victims until the rectangle has room; those that cannot be saved are passed over. -/
def takeVictims (s : State) (l : Launch) (o : Nat × Nat) (gone : List Nat) : List (Nat × Launch) → List (Nat × Launch) →
    Option (List (Nat × Launch))
  | taken, [] => if (planAt s (gone ++ taken.map (·.1)) l.lr o).isSome then some taken else none
  | taken, v :: r =>
    if (planAt s (gone ++ taken.map (·.1)) l.lr o).isSome then some taken
    else if affordable s (taken ++ [v]) then takeVictims s l o gone (taken ++ [v]) r
    else takeVictims s l o gone taken r

def firstVictims (s : State) (l : Launch) (gone : List Nat) : List (Nat × Nat) → Option (List (Nat × Launch))
  | [] => none
  | o :: r =>
    match takeVictims s l o gone [] (victimsAt s l o) with
    | some v => some v
    | none => firstVictims s l gone r

/-- The request reaches a launch: arms that cannot issue stop at once, its guests are sent STOP (R246, R308, R312). -/
def stopLaunch (s : State) (v : Nat × Launch) : State :=
  let stop := fun (t : Team) (f : Bool) => t.modArm f (fun a => if armMayIssue s t f a || armTakes s t f a then a else a.stop)
  let s1 := { s with alloc := { s.alloc with teams := smap s.alloc.teams (fun _ t =>
    if t.geom.launch = v.1 then stop (stop t false) true else t) } }
  let s2 := s1.setLaunch v.1 (some { v.2 with status := .stopping s.sched.gtc, slots := (freeSaveSlots s).take v.2.coreCount })
  ((launchPackets s v.1 0) ++ (launchPackets s v.1 1)).foldl (fun s p => s.stopPacket p) s2

/-- PREEMPTION (R246). Launches of lower classes that are stopping already are on their way out. -/
def execPreemption (s : State) : Out :=
  match allocHead s with
  | none => .refused (.notEnabled "PREEMPTION")
  | some (_, l) =>
    let gone := ((slist s.alloc.launches).filter (fun kl => kl.2.isStopping && decide (kl.2.prio < l.prio))).map (·.1)
    if l.status ≠ .waiting ∨ (planFirst s gone l.lr (origins l.lr)).isSome then .refused (.notEnabled "PREEMPTION")
    else
      match firstVictims s l gone (origins l.lr) with
      | none => .refused (.notEnabled "PREEMPTION")
      | some vs => .next (vs.foldl stopLaunch s)

/-- ARM_STOP_DEADLINE (R246, R308): 2 µs after the request the arm stops at its instruction boundary. -/
def execArmStopDeadline (a : ArmId) (s : State) : Out :=
  match s.armOf a with
  | none => .refused (.notEnabled "ARM_STOP_DEADLINE")
  | some (t, x) =>
    match (s.launch? t.geom.launch).bind Launch.since? with
    | some since =>
      whenEnabled "ARM_STOP_DEADLINE" (!x.stopped && decide (since + 2000 ≤ s.sched.gtc))
        (match x.due? with
         | some info =>
           if armTakes s t a.f x then
             takeTrap s a.team a.f x.pc (match s.launch? t.geom.launch with | some l => unitLenAt s l t.geom.core x.pc.toNat | none => 4)
               Code.xlateFatal info
           else s.setTeam a.team (t.setArm a.f (some x.stop))
         | none => s.setTeam a.team (t.setArm a.f (some x.stop)))
    | none => .refused (.notEnabled "ARM_STOP_DEADLINE")

/-! ### Suspension (R308 to R313) -/

/-- Whether no arm of a launch may issue. -/
def armsHalted (s : State) (lid : Nat) : Bool :=
  (s.teamsOf lid).all (fun kt =>
    [false, true].all (fun f => match kt.2.arm? f with
      | some a => !armMayIssue s kt.2 f a && !armTakes s kt.2 f a && decide (a.todo = 0)
      | none => true))

/-- Whether a command has stopped, or never started (R312). -/
def cmdHalted (s : State) (cid : Nat) (c : Cmd) : Bool :=
  writesDone s c && (!c.started || c.stopped ||
    (match c.kind with
     | .coll form t gh root _ => decide (collSends s form t gh root ≤ 64 * c.sent.length)
     | .easel .. => s.easel.packets.any (fun p => p.cmd = cid && p.stopped)
     | _ => false))

/-- Whether a launch has stopped (R308, steps 1 to 3): no arm may issue, every engine command has stopped, every store, STM copy and
atomic has completed. -/
def launchHalted (s : State) (lid : Nat) : Bool :=
  armsHalted s lid && ((slist s.eng.cmds).filter (fun c => c.2.launch = lid)).all (fun c => cmdHalted s c.1 c.2)
    && !(slist s.coh.ops).any (fun o => opHolds lid o.2)

/-- Write-backs of a core that have not reached their homes. -/
def writeBacksOut (s : State) (core : Nat) : Bool := s.coh.net.any (fun m => m.toHome && m.core = core && !m.body.written.isEmpty)

/-- Writes on their way to a launch's scratchpad: STM copies and lane accesses at its banks. -/
def writesOut (s : State) (rs : List (Nat × Nat)) : Bool :=
  s.coh.net.any (fun m => m.toHome && rs.any (fun r => decide (r.1 / 64 ≤ m.sector) && decide (m.sector * 64 < r.2))
    && (match m.body with
      | .stmCopy .. => true
      | .req b => !b.isRead
      | _ => false))

/-- Ranges of a launch's scratchpad allocations, as memory keys. -/
def Launch.keyRanges (l : Launch) : List (Nat × Nat) :=
  l.cores.flatMap (fun c => (List.range (l.lr.blocks + 1)).map (fun b => (l.allocKey c b 0, l.allocKey c b 0 + l.lr.scratch)))

def inRanges (rs : List (Nat × Nat)) (k : Nat) : Bool := rs.any (fun r => decide (r.1 ≤ k) && decide (k < r.2))

/-- The cores' L1 sectors leave (R308, step 4). -/
def emptyL1 (s : State) (core : Nat) : State :=
  ((slist s.coh.l1).filter (fun kx => kx.1 % 256 = core)).foldl (fun s kx => s.evictSector core (kx.1 / 256)) s

/-- The launch is suspended: its scratchpad bytes are saved; fetched walker elements, and those asked for, are discarded, as is what its
arms have read for a unit that has not issued. -/
def suspendLaunch (s : State) (lid : Nat) (l : Launch) : State :=
  let s := l.cores.foldl emptyL1 s
  let s := { s with coh := { s.coh with
    loads := s.coh.loads.filter (fun x => match x.2 with
      | some y => !(launchOfTeam y.team = lid && y.walker.isSome) | none => false)
    reads := s.coh.reads.filter (fun r => match r.2 with
      | some x => (match x.who with | .arm a => launchOfTeam a.team ≠ lid | _ => true)
      | none => false) } }
  let rs := l.keyRanges
  let s := s.setLaunch lid (some { l with status := .suspended, saved := s.mem.filter (fun c => inRanges rs c.1) })
  { s with alloc := { s.alloc with teams := smap s.alloc.teams (fun _ t =>
    if t.geom.launch = lid then { t with walkers := smap t.walkers (fun _ w => { w with arrived := [] }) } else t) } }

/-- LAUNCH_SUSPENDED (R308 to R312): first the M sectors are written back, then the launch's state is saved. -/
def execLaunchSuspended (a : Nat) (s : State) : Out :=
  match s.launch? a with
  | none => .refused (.notEnabled "LAUNCH_SUSPENDED")
  | some l =>
    let ready := l.isStopping && !l.isAborting && launchHalted s a && !writesOut s l.keyRanges
    let dirty := l.cores.filter (fun c => (slist s.coh.l1).any (fun kx => kx.1 % 256 = c && kx.2.st = .m))
    if !ready then .refused (.notEnabled "LAUNCH_SUSPENDED")
    else if dirty ≠ [] then .next (dirty.foldl (fun s c => (s.publishSectors c (fun _ => true)).2) s)
    else whenEnabled "LAUNCH_SUSPENDED" (!l.cores.any (writeBacksOut s)) (suspendLaunch s a l)

/-! ### Resumption (R246, R314) -/

/-- Whether what a suspended launch held on a core is free again. -/
def coreFreeFor (s : State) (lid : Nat) (l : Launch) (core : Nat) : Bool :=
  let hs := holders s [] core
  let ts := coreTeams s [] core
  let mine := ((s.teamsOf lid).map (·.2)).filter (fun t => t.geom.core = core)
  let tiles := ((slist s.eng.tiles).filter (fun x => x.1 / 65536 = lid && x.1 / 256 % 256 = core)).map (·.2.slot)
  let runs := if gangStays s lid l core then l.runs core else []
  !s.eng.fenced.contains core && !mine.any (fun t => ts.any (fun u => u.geom.slot = t.geom.slot))
    && !mine.any (fun t => ts.any (fun u => u.geom.datapath = t.geom.datapath && t.units.any u.units.contains))
    && !runs.any (fun r => (hs.flatMap (fun h => h.2.runs core)).any (fun q => decide (q.1 < r.1 + r.2) && decide (r.1 < q.1 + q.2)))
    && !tiles.any (coreTiles s core).contains && !(l.lr.mx && hs.any (fun h => h.2.lr.mx))

/-- An arm starts again at its saved PC as a fresh unit (R314). A team that has arrived at a barrier has its arrival saved with the
barrier, and a DLAUNCH whose descriptor has left awaits its status: those waits go on (log 55). -/
def Arm.resume (a : Arm) : Arm :=
  { a with
    stopped := false
    wait := match a.wait with
      | .barrier key phase => .barrier key phase
      | .dlaunch gd words sent answer => .dlaunch gd words sent answer
      | _ => .ready }

/-- A stopped command continues from its resume record; a CPYV starts again from step 1 (R265, R312). -/
def Cmd.resume (c : Cmd) : Cmd :=
  match c.kind with
  | .cpyv _ => { c with
      stopped := false
      got := if c.got < 2 then 0 else c.got
      slices := if c.got < 2 then c.slices.map (fun x => { x with done := 0, buf := [] }) else c.slices }
  | _ => { c with stopped := false }

def resumeLaunch (s : State) (lid : Nat) (l : Launch) : State :=
  let rs := l.keyRanges
  let mem := Memory.putAll (s.mem.filter (fun c => !inRanges rs c.1)) l.saved
  let s := { s with
    mem := mem
    alloc := { s.alloc with teams := smap s.alloc.teams (fun _ t =>
      if t.geom.launch = lid then { t with armT := t.armT.map Arm.resume, armF := t.armF.map Arm.resume } else t) }
    eng := { s.eng with cmds := smap s.eng.cmds (fun _ c => if c.launch = lid then c.resume else c) } }
  let s := s.setLaunch lid (some { l with status := .resident, saved := [], slots := [] })
  ((launchPackets s lid 0) ++ (launchPackets s lid 1)).foldl (fun s p => s.resumePacket p) s

/-- LAUNCH_RESUME (R246, R314). -/
def execLaunchResume (a : Nat) (s : State) : Out :=
  match allocHead s with
  | none => .refused (.notEnabled "LAUNCH_RESUME")
  | some (lid, l) =>
    whenEnabled "LAUNCH_RESUME" (decide (lid = a ∧ l.status = .suspended) && l.cores.all (coreFreeFor s lid l))
      (resumeLaunch s lid l)

/-! ### The end of a team (R64, R243, R278) -/

/-- Operations of a message to a home or bank. -/
def MsgBody.opsOf : MsgBody → List Nat
  | .req (.write _ o) => [o]
  | .req (.atomic _ _ _ _ _ _ o _ _) => [o]
  | .recallAnswer _ _ os => os
  | .publishAnswer _ os => os
  | .publishWriteBack _ os => os
  | .evictionWriteBack _ os => os
  | .stmCopy _ o => [o]
  | _ => []

def OwnAct.opOf : OwnAct → Option Nat
  | .store o _ _ _ => some o
  | .atomic o _ _ _ _ _ _ _ _ _ => some o
  | .load .. => none

/-- Whether an operation has been accepted by its target (R64): it has reached its home, or the other chip's receipt is in. -/
def accepted (s : State) (o : Nat) : Bool :=
  !s.coh.net.any (fun m => m.body.opsOf.contains o)
    && !(slist s.coh.owns).any (fun a => a.2.any (fun x => x.opOf = some o))
    && !(slist s.pod.remotes).any (fun r => r.2.opId = o && !r.2.receipt)

/-- What ends with a team's block when the team was its last: its tiles and barriers (R278). -/
def endBlock (s : State) (g : TeamGeom) : State :=
  if (s.blockLive g.launch g.core g.block).isEmpty then
    let k := (g.launch * 256 + g.core) * 16 + g.block
    { s with eng := { s.eng with
      tiles := s.eng.tiles.filter (fun t => t.1 / 16 ≠ k)
      barriers := s.eng.barriers.filter (fun b => b.1 / 64 ≠ k || b.1 % 64 = 63) } }
  else s

/-- A team that ends counts as arrived at its block's open commands, and its absence may complete barriers (R126, R263). -/
def settleEnd (s : State) (l : Launch) (g : TeamGeom) : State :=
  let s := ((slist s.eng.cmds).filter (fun c => c.2.joining && c.2.launch = g.launch && c.2.core = g.core
    && c.2.block = g.block)).foldl (fun s c => s.settleJoin c.1) s
  let s := (List.range g.barriers).foldl (fun s b =>
    s.settleBarrier (barKey g.launch g.core g.block b) (s.blockLive g.launch g.core g.block) false) s
  s.settleBarrier (gangBarKey g.launch l g.core) (s.gangLive g.launch l g.core) true

def endTeam (s : State) (tid : Nat) (t : Team) : State :=
  let s := (s.endNotices tid t).delTeam tid
  let s := { s with coh := { s.coh with
    loads := s.coh.loads.filter (fun x => match x.2 with | some l => l.team ≠ tid | none => false)
    ops := s.coh.ops.filter (fun o => match o.2 with | some x => !(x.team = tid && x.kind = .load) | none => false) } }
  match s.launch? t.geom.launch with
  | some l => endBlock (settleEnd s l t.geom) t.geom
  | none => s

/-- TEAM_END (R64): no lane is left, and what the team issued has been accepted. -/
def execTeamEnd (a : Nat) (s : State) : Out :=
  match s.team? a with
  | none => .refused (.notEnabled "TEAM_END")
  | some t =>
    whenEnabled "TEAM_END"
      (t.live = 0 && ((slist s.coh.ops).filter (fun o => o.2.team = a && o.2.kind ≠ .load)).all (fun o => accepted s o.1))
      (endTeam s a t)

end Sys2Proof.Machine
end

