-- ==== Sys2Proof/Machine/Rings.lean ====
section
/-! DEFINITION. Submission rings, graphs and the walkers, and DLAUNCH (R233 to R240). -/

namespace Sys2Proof.Machine

/-! ### Rings (R233 to R235, R347) -/

def ringAddr (r o : Nat) : Nat := 0x100000 + 64 * r + o
def State.ring (s : State) (r o : Nat) : Word := s.bar0 (ringAddr r o)
def State.ringOn (s : State) (r : Nat) : Bool := (s.ring r 8).getLsbD 31
def State.ringDie (s : State) (r : Nat) : Nat := fld (s.ring r 8) 16 1
def State.ringPrio (s : State) (r : Nat) : Nat := fld (s.ring r 8) 8 2
def State.ringLog (s : State) (r : Nat) : Nat := fld (s.ring r 8) 0 4

def State.inst? (s : State) (i : Nat) : Option Inst := oget s.alloc.insts i
def State.setInst (s : State) (i : Nat) (x : Option Inst) : State :=
  { s with alloc := { s.alloc with insts := oset s.alloc.insts i x } }

def State.modInst (s : State) (i : Nat) (f : Inst → Inst) : State :=
  match s.inst? i with
  | none => s
  | some x => s.setInst i (some (f x))

/-- A write of a ring's tail (R235): one too far ahead stops the ring. -/
def State.doorbell (s : State) (a : Nat) (b : BitVec 32) : State :=
  let ahead := (b - (s.ring a 0x18).setWidth 32).toNat
  let s := s.setBar0 (ringAddr a 0x10) (b.setWidth 64)
  if 2 ^ s.ringLog a < ahead then s.setBar0 (ringAddr a 0x20) 1 else s

/-- DOORBELL. -/
def execDoorbell (a : Nat) (b : BitVec 32) (s : State) : Out := .next (if s.mgmt.stage < 2 then s else s.doorbell a b)

/-! ### Nodes (R236, R237) -/

/-- A node from the words of its descriptor. -/
def parseNode (w : List Word) : Node :=
  let x := fun (i : Nat) => (w[i]?).getD 0
  ⟨fld (x 0) 0 4, fld (x 0) 8 8, fld (x 0) 16 3, [fld (x 1) 0 16, fld (x 1) 16 16, fld (x 1) 32 16, fld (x 1) 48 16],
    fld (x 2) 0 57, fld (x 3) 0 57, x 4, x 5⟩

/-- Reserved bits, KIND, SCOPE and C of a descriptor (R236). -/
def nodeBitsOk (w : List Word) : Bool :=
  let x := fun (i : Nat) => ((w[i]?).getD 0).toNat
  let n := parseNode w
  let c := n.c.toNat
  decide (bitsOf (x 0) 4 4 = 0 ∧ x 0 < 2 ^ 19 ∧ x 2 < 2 ^ 57 ∧ x 3 < 2 ^ 57 ∧ x 6 = 0 ∧ x 7 = 0)
    && decide (1 ≤ n.kind ∧ n.kind ≤ 6 ∧ 3 ≤ n.scope ∧ n.scope ≤ 5)
    && (if n.kind = 4 then decide (1 ≤ c ∧ c ≤ 2 ^ 40)
        else if n.kind = 6 then decide (c < 2 ^ 16 ∧ bitsOf c 11 4 = 0) else decide (c = 0))

/-- The names of a node's successors; in a WHILE, S0 and S1 are its body. -/
def Node.names (n : Node) : List Nat := ((if n.kind = 3 then n.succ.drop 2 else n.succ).filter (· ≠ 0xFFFF))
def Node.bodyStart (n : Node) : Nat := (n.succ[0]?).getD 0
def Node.bodyLen (n : Node) : Nat := (n.succ[1]?).getD 0
def Node.body (n : Node) : List Nat := (List.range n.bodyLen).map (· + n.bodyStart)

/-- The rules of a WHILE node i in a graph (R237). -/
def whileOk (nodes : List Node) (i : Nat) (n : Node) : Bool :=
  decide (1 ≤ n.bodyLen ∧ n.bodyStart + n.bodyLen ≤ nodes.length) && !n.body.contains i
    && ((n.body.filterMap (fun j => nodes[j]?)).filter (fun m => m.names.contains i)).length = 1

/-- The lowest node of a graph that breaks a rule. -/
def badNode (ws : List (List Word)) : Option Nat :=
  let nodes := ws.map parseNode
  ((ws.zip nodes).zipIdx.find? (fun x =>
    !(nodeBitsOk x.1.1 && x.1.2.names.all (fun m => decide (m < nodes.length)) && (x.1.2.kind ≠ 3 || whileOk nodes x.2 x.1.2)))).map (·.2)

/-! ### States of nodes -/

def Inst.node? (x : Inst) (n : Nat) : Option Node := oget x.nodes n
def Inst.state? (x : Inst) (n : Nat) : Option NodeState := oget x.states n
def Inst.setState (x : Inst) (n : Nat) (st : NodeState) : Inst := { x with states := oset x.states n (some st) }

/-- A node becomes ready. -/
def Inst.ready (x : Inst) (n : Nat) : Inst := { (x.setState n (.ready x.nready)) with nready := x.nready + 1 }

def NodeState.order : NodeState → Option Nat
  | .ready o => some o
  | _ => none

/-- Whether the walker may start this node now: it is ready, nothing was ready before it, the instance has not failed (R237). -/
def Inst.mayStart (x : Inst) (n : Nat) : Bool :=
  !x.aborted && x.err.isNone &&
  (match (x.state? n).bind NodeState.order with
   | none => false
   | some o => (slist x.states).all (fun p => match p.2.order with | some q => decide (o ≤ q) | none => true))

/-- Decrement the counts of successors; those that reach 0 become ready, lower names first (R237). -/
def Inst.release (x : Inst) (succ : List Nat) : Inst :=
  let x1 := succ.foldl (fun x n => match x.state? n with
    | some (.blocked (c + 1)) => x.setState n (.blocked c)
    | _ => x) x
  ((slist x1.states).filter (fun p => succ.contains p.1 && p.2 = .blocked 0)).foldl (fun x p => x.ready p.1) x1

/-- Whether a node is neither ready to start nor under way. -/
def NodeState.idle (failed : Bool) : NodeState → Bool
  | .blocked _ => true
  | .done => true
  | .ready _ => failed
  | .running => false
  | .busy .. => false
  | .ending _ => false
  | .storing .. => false

/-! ### The end of an instance (R238) -/

/-- The DONE word. -/
def Inst.doneWord (x : Inst) : Word :=
  match x.err with
  | some (c, n) => BitVec.ofNat 64 (2 ^ 63 + c * 2 ^ 48 + n * 2 ^ 32 + x.seq.toNat)
  | none => BitVec.ofNat 64 x.seq.toNat

/-- Whether nothing of an instance is ready to start or under way. -/
def Inst.over (x : Inst) : Bool :=
  (x.graph.isNone || x.aborted || x.err.isSome) && (slist x.states).all (fun p => p.2.idle (x.aborted || x.err.isSome))

/-- An instance in which nothing is ready or running ends: its DONE word is written; the instance is over when that commits. Where a
page of the word is not resident, which is reported, or its home takes no write now, NODE_COMPLETE tries again. When the word
commits at once, the instance is gone already and `modInst` changes nothing. -/
def State.settleInst (s : State) (i : Nat) : State :=
  match s.inst? i with
  | none => s
  | some x =>
    if x.ending || !x.over then s
    else if x.doneAt = 0 then s.setInst i none
    else
      match writeVirt s x.ctx x.doneAt (leBytes 8 x.doneWord.toNat) (fun _ => .nodeWrite i 0 none) (fun _ => .doneWrite i) with
      | .ok _ s' => s'.modInst i (fun x => { x with ending := true })
      | .replay p s' => s'.reportFault x.ctx p x.die true 0
      | .fatal s' => s'.setInst i none
      | .busy s' => s'

/-- The stores of a node that are under way. -/
def NodeState.ops : NodeState → List Nat
  | .busy _ ops => ops
  | .storing ops _ => ops
  | _ => []

/-- A node ends without completing: what it reads is dropped, and DONE follows the stores it has issued (R238). -/
def State.cutNode (s : State) (i n : Nat) : State :=
  let s := s.dropReads (.node i n)
  s.modInst i (fun x =>
    let ops := s.liveOps (((x.state? n).map NodeState.ops).getD [])
    x.setState n (if ops.isEmpty then .done else .storing ops []))

/-- A node fails (R238): nothing further of the instance starts. -/
def State.failNode (s : State) (i n code : Nat) : State :=
  ((s.cutNode i n).modInst i (fun x => { x with err := some (x.err.getD (code, n)) })).settleInst i

/-- A node fails on a poisoned sector: R238 has no code for it, which is therefore free (log 66). -/
def State.failPoison (s : State) (i n : Nat) : State :=
  let v := s.freeWord
  v.2.failNode i n (fld v.1 0 8)

/-! ### INSTANCE_START (R234 to R236) -/

/-- Rings of a walker with an entry waiting. -/
def waitingRings (s : State) (die : Nat) : List Nat :=
  (List.range 64).filter (fun r => s.ringOn r && s.ringDie r = die && s.ring r 0x20 = 0
    && (s.ring r 0x10).setWidth 32 ≠ (s.ring r 0x18).setWidth 32 && !(slist s.alloc.insts).any (fun x => x.2.ring = r))

/-- The highest class of a walker's waiting rings. -/
def topPrio (s : State) (die : Nat) : Nat := (waitingRings s die).foldl (fun m r => max m (s.ringPrio r)) 0

/-- The ring to serve: the highest class, round robin within it. -/
def nextRing (s : State) (die : Nat) : Option Nat :=
  let top := topPrio s die
  let best := (waitingRings s die).filter (fun r => s.ringPrio r = top)
  match best.find? (fun r => decide (sget 0 s.alloc.lastRing (die * 4 + top) ≤ r)) with
  | some r => some r
  | none => best.head?

/-- An instance fails before any node of it starts. -/
def Inst.fails (x : Inst) (code node : Nat) : Inst := { x with err := some (code, node), graph := none }

/-- The nodes of an instance's graph: those with no predecessor are ready. -/
def Inst.withNodes (x : Inst) (ws : List (List Word)) : Inst :=
  let nodes := ws.map parseNode
  let x : Inst := { x with
    nodes := nodes.zipIdx.foldl (fun m n => oset m n.2 (some n.1)) []
    states := nodes.zipIdx.foldl (fun m n => oset m n.2 (some (.blocked n.1.preds))) []
    graph := none }
  (nodes.zipIdx.filter (fun n => n.1.preds = 0)).foldl (fun x n => x.ready n.2) x

/-- What reading an entry, or a graph, gives. -/
inductive GraphRead
  | inst (x : Inst) (s : State)
  | replay (page : Nat) (s : State)
  | busy (s : State)

/-- Words a walker reads for an instance, given to `go`; an access that fails fails the instance. `free` names the node of a failure that
no node caused (log 3); the code of a poisoned read is free (log 66). -/
def instWords (s : State) (x : Inst) (va n free : Nat) (go : State → List Byte → GraphRead) : GraphRead :=
  match readVirt s (.ring x.ring) x.ctx va n with
  | .replay p s' => .replay p s'
  | .busy s' => .busy s'
  | .fatal s' => .inst (x.fails 4 free) s'
  | .ok (d, bad) s' =>
    let v := s'.freeWord
    if bad then .inst (x.fails (fld v.1 0 8) free) v.2 else go s' d

/-- The instance that a ring's next entry starts, with its graph still to be read (R234). -/
def readEntry (s : State) (r free : Nat) : GraphRead :=
  let x : Inst := ⟨r, fld (s.ring r 0x28) 0 16, s.ringPrio r, 0, 0, [], [], 0, 0, none, false, false, s.ringDie r, none⟩
  let at_ := fld (s.ring r 0) 0 57 + 64 * (fld (s.ring r 0x18) 0 32 % 2 ^ s.ringLog r)
  instWords s x at_ 64 free (fun s d =>
    let w := wordsOf 8 d
    let word := fun (i : Nat) => (w[i]?).getD 0
    let graph := (word 0).toNat
    let x : Inst := { x with seq := (word 1).setWidth 32, doneAt := if (word 2).toNat < 2 ^ 57 then (word 2).toNat else 0 }
    if (word 2).toNat ≥ 2 ^ 57 ∨ graph ≥ 2 ^ 57 ∨ graph % 64 ≠ 0 ∨ (word 1).toNat ≥ 2 ^ 32 ∨ (w.drop 3).any (· ≠ 0) then
      .inst (x.fails 1 free) s
    else .inst { x with graph := some graph } s)

/-- Read an instance's graph image (R236). -/
def readGraph (s : State) (x : Inst) (graph free : Nat) : GraphRead :=
  instWords s x graph 64 free (fun s h =>
    let hw := wordsOf 8 h
    let n := ((hw[0]?).getD 0).toNat
    if n = 0 ∨ 4096 < n ∨ (hw.drop 1).any (· ≠ 0) then .inst (x.fails 1 free) s
    else
      instWords s x (graph + 64) (64 * n) free (fun s img =>
        let ws := (List.range n).map (fun i => wordsOf 8 ((img.drop (64 * i)).take 64))
        match badNode ws with
        | some b => .inst (x.fails 1 b) s
        | none => .inst (x.withNodes ws) s))

/-- Go on with the graph of an instance that still lacks it. -/
def State.fetchGraph (s : State) (i : Nat) : State :=
  match s.inst? i with
  | none => s
  | some x =>
    match x.graph with
    | none => s
    | some g =>
      if x.aborted then s
      else
        let v := s.freeWord
        match readGraph v.2 x g (fld v.1 0 16) with
        | .busy s' => s'
        | .replay p s' => s'.reportFault x.ctx p x.die false 0
        | .inst x s' => ((s'.dropReads (.ring x.ring)).setInst i (some x)).settleInst i

/-- The instances of a walker whose graph is still to be read. -/
def unread (s : State) (die : Nat) : List Nat :=
  ((slist s.alloc.insts).filter (fun x => x.2.die = die && x.2.graph.isSome && !x.2.aborted)).map (·.1)

/-- INSTANCE_START (R235, R236): the walker goes on with the graphs it has still to read; with room for another instance it reads the
next entry, advances HEAD past it, and reads its graph. -/
def execInstanceStart (a : Nat) (s : State) : Out :=
  let running := ((slist s.alloc.insts).filter (fun x => x.2.die = a)).length
  let s0 := (unread s a).foldl State.fetchGraph s
  match (if 32 ≤ running ∨ s.mgmt.stage < 3 then none else nextRing s a) with
  | none => whenEnabled "INSTANCE_START" (unread s a ≠ []) s0
  | some r =>
    let v := s0.freeWord
    match readEntry v.2 r (fld v.1 0 16) with
    | .busy s' => .next s'
    | .replay p s' => .next (s'.reportFault (fld (s.ring r 0x28) 0 16) p a false 0)
    | .inst x s' =>
      let s' := (s'.dropReads (.ring r)).setBar0 (ringAddr r 0x18) (((s.ring r 0x18).setWidth 32 + 1 : BitVec 32).setWidth 64)
      let n := s'.newId
      let s' := n.2.setInst n.1 (some x)
      .next (({ s' with alloc := { s'.alloc with
        lastRing := sset 0 s'.alloc.lastRing (a * 4 + topPrio s a) (r + 1) } }.settleInst n.1).fetchGraph n.1)

/-! ### Starting nodes (R237) -/

/-- The node when the walker may start it and it is of a kind. -/
def startable (s : State) (i n kind : Nat) : Option (Inst × Node) :=
  match s.inst? i with
  | none => none
  | some x =>
    match x.node? n with
    | none => none
    | some d => if d.kind = kind && x.mayStart n then some (x, d) else none

/-- Bytes a walker reads for a node; a fault is reported or fails the node, as does poison. -/
def nodeBytes (s : State) (i n : Nat) (x : Inst) (va len : Nat) (go : State → List Byte → State) : Out :=
  match readVirt s (.node i n) x.ctx va len with
  | .ok (d, bad) s' => .next (if bad then s'.failPoison i n else go (s'.dropReads (.node i n)) d)
  | .replay p s' => .next (s'.reportFault x.ctx p x.die false 0)
  | .fatal s' => .next (s'.failNode i n 4)
  | .busy s' => .next s'

/-- A 64-bit word for a node. -/
def nodeWord (s : State) (i n : Nat) (x : Inst) (va : Nat) (go : State → Nat → State) : Out :=
  nodeBytes s i n x va 8 (fun s d => go s (leNat d))

def State.nodeState (s : State) (i n : Nat) (st : NodeState) : State := s.modInst i (fun x => x.setState n st)

/-- LAUNCH_NODE (R237, R241): the record goes to the allocator, which refuses one that breaks a rule. -/
def execLaunchNode (a b : Nat) (s : State) : Out :=
  match startable s a b 1 with
  | none => .refused (.notEnabled "LAUNCH_NODE")
  | some (x, d) =>
    nodeBytes s a b x d.a 64 (fun s img =>
      let w := wordsOf 8 img
      if recordOk w then
        let n := s.newId
        let l : Launch := ⟨parseRecord w, x.ctx, x.prio, a, b, d.scope, .waiting, 0, 0, 0, [], [], [], []⟩
        (n.2.setLaunch (n.1 + 1) (some l)).nodeState a b .running
      else s.failNode a b 2)

/-- COND_NODE (R237). -/
def execCondNode (a b : Nat) (s : State) : Out :=
  match startable s a b 2 with
  | none => .refused (.notEnabled "COND_NODE")
  | some (x, d) => nodeWord s a b x d.a (fun s w =>
      s.nodeState a b (.ending (if w ≠ 0 then d.succ.take 2 else d.succ.drop 2)))

/-- The body of a WHILE goes round again: its nodes return to their PREDS, its first is ready, the WHILE's count is 1. -/
def againBody (x : Inst) (w : Nat) (d : Node) : Inst :=
  let x := d.body.foldl (fun x n => x.setState n (.blocked (((x.node? n).map (·.preds)).getD 0))) x
  let x := (d.body.filter (fun n => n = d.bodyStart || ((x.node? n).map (·.preds)).getD 1 = 0)).foldl (fun x n => x.ready n) x
  x.setState w (.blocked 1)

/-- WHILE_NODE (R237). -/
def execWhileNode (a b : Nat) (s : State) : Out :=
  match startable s a b 3 with
  | none => .refused (.notEnabled "WHILE_NODE")
  | some (x, d) => nodeWord s a b x d.a (fun s w =>
      if w ≠ 0 then s.modInst a (fun x => againBody x b d) else s.nodeState a b (.ending (d.succ.drop 2)))

/-- Bytes of the next chunk of a copy, and where it starts in the run: upwards, or downwards when the destination overlaps the
source from above (R264). -/
def copyChunk (src dst n moved : Nat) : Nat × Nat :=
  let left := n - moved
  if src < dst ∧ dst < src + n then
    let m := min left ((dst + left + 63) % 64 + 1)
    (left - m, m)
  else (moved, min left (64 - (dst + moved) % 64))

/-- The operation of a COPY node's write, which counts as an engine's (R152, R237). -/
def copyWrite (i n ctx va : Nat) : OpKind := .nodeWrite i n (some (ctx, va / 64 * 64))

/-- COPY_NODE (R237): moves the next chunk. -/
def execCopyNode (a b : Nat) (s : State) : Out :=
  let go := fun (x : Inst) (d : Node) (moved : Nat) (ops : List Nat) =>
    let k := copyChunk d.a d.b.toNat d.c.toNat moved
    match readVirt s (.node a b) x.ctx (d.a + k.1) k.2 with
    | .ok (data, bad) s1 =>
      if bad then Host.Outcome.next (s1.failPoison a b)
      else
        (match writeVirt s1 x.ctx (d.b.toNat + k.1) data (copyWrite a b x.ctx) (copyWrite a b x.ctx) with
         | .ok o s' => .next ((s'.dropReads (.node a b)).nodeState a b (.busy (moved + k.2) (o ++ s'.liveOps ops)))
         | .replay p s' => .next (s'.reportFault x.ctx p x.die true 0)
         | .fatal s' => .next (s'.failNode a b 4)
         | .busy s' => .next s')
    | .replay p s1 => .next (s1.reportFault x.ctx p x.die false 0)
    | .fatal s1 => .next (s1.failNode a b 4)
    | .busy s1 => .next s1
  match startable s a b 4 with
  | some (x, d) => go x d 0 []
  | none =>
    match s.inst? a with
    | none => .refused (.notEnabled "COPY_NODE")
    | some x =>
      match x.node? b, x.state? b with
      | some d, some (.busy m ops) =>
        if d.kind = 4 ∧ m < d.c.toNat then go x d m ops else .refused (.notEnabled "COPY_NODE")
      | _, _ => .refused (.notEnabled "COPY_NODE")

/-- WAIT_NODE (R237): reads the word; the node goes on once it is at least B. -/
def execWaitNode (a b : Nat) (s : State) : Out :=
  let go := fun (x : Inst) (d : Node) => nodeWord s a b x d.a (fun s w =>
    s.nodeState a b (if d.b.toNat ≤ w then .ending d.succ else .running))
  match startable s a b 5 with
  | some (x, d) => go x d
  | none =>
    match s.inst? a with
    | none => .refused (.notEnabled "WAIT_NODE")
    | some x =>
      match x.node? b, x.state? b with
      | some d, some .running => if d.kind = 5 then go x d else .refused (.notEnabled "WAIT_NODE")
      | _, _ => .refused (.notEnabled "WAIT_NODE")

/-- SIGNAL_NODE (R237): stores B to A; the interrupt follows the store. -/
def execSignalNode (a b : Nat) (s : State) : Out :=
  match startable s a b 6 with
  | none => .refused (.notEnabled "SIGNAL_NODE")
  | some (x, d) =>
    match writeVirt s x.ctx d.a (leBytes 8 d.b.toNat) (fun _ => .nodeWrite a b none) (fun _ => .nodeWrite a b none) with
    | .ok o s' => .next (s'.nodeState a b (.busy 0 o))
    | .replay p s' => .next (s'.reportFault x.ctx p x.die true 0)
    | .fatal s' => .next (s'.failNode a b 4)
    | .busy s' => .next s'

/-! ### Completing nodes (R237, R238) -/

/-- The successors are released and the node is done. -/
def State.nodeDone (s : State) (i n : Nat) (succ : List Nat) : State :=
  (s.modInst i (fun x => (x.setState n .done).release succ)).settleInst i

/-- The completion store of a node, and what follows when it commits at once. -/
def State.complStore (s : State) (i n : Nat) (x : Inst) (d : Node) (succ : List Nat) : State :=
  if d.compl = 0 then s.nodeDone i n succ
  else
    match writeVirt s x.ctx d.compl (leBytes 8 x.seq.toNat) (fun _ => .nodeWrite i n none) (fun _ => .nodeWrite i n none) with
    | .ok o s' => if (s'.liveOps o).isEmpty then s'.nodeDone i n succ else s'.nodeState i n (.storing o succ)
    | .replay p s' => (s'.nodeState i n (.ending succ)).reportFault x.ctx p x.die true 0
    | .fatal s' => s'.failNode i n 4
    | .busy s' => s'.nodeState i n (.ending succ)

/-- NODE_COMPLETE (R238). Named 0xFFFF, it tries again to write the DONE word of an instance in which nothing is ready or running. -/
def execNodeComplete (a b : Nat) (s : State) : Out :=
  match s.inst? a with
  | none => .refused (.notEnabled "NODE_COMPLETE")
  | some x =>
    if b = 0xFFFF then whenEnabled "NODE_COMPLETE" (!x.ending && x.over) (s.settleInst a)
    else
    match x.node? b, x.state? b with
    | some d, some (.ending succ) => .next (s.complStore a b x d succ)
    | some d, some (.busy m ops) =>
      whenEnabled "NODE_COMPLETE" ((s.liveOps ops).isEmpty && (d.kind ≠ 4 || decide (d.c.toNat ≤ m)))
        ((if d.kind = 6 ∧ d.c.getLsbD 15 then s.emit (.msix (fld d.c 0 11)) else s).complStore a b x d d.succ)
    | some _, some (.storing ops succ) => whenEnabled "NODE_COMPLETE" (s.liveOps ops).isEmpty (s.nodeDone a b succ)
    | _, _ => .refused (.notEnabled "NODE_COMPLETE")

/-- M sectors of a core that arms of a launch wrote. -/
def L1Sec.writtenBy (x : L1Sec) (lid : Nat) : Bool := x.writers.any (fun w => launchOfTeam w.1 = lid)

/-- Cores that hold in M a sector that an arm of a launch wrote. -/
def launchDirty (s : State) (lid : Nat) : List Nat :=
  (((slist s.coh.l1).filter (fun kx => kx.2.st = .m && kx.2.writtenBy lid)).map (fun kx => kx.1 % 256)).dedup

/-- Write back a launch's M sectors, as operations of the arms that wrote them. -/
def flushLaunch (s : State) (lid : Nat) : State :=
  (launchDirty s lid).foldl (fun s c => (s.publishSectors c (fun x => x.writtenBy lid)).2) s

/-- The launch that a LAUNCH node started. -/
def nodeLaunch (s : State) (i n : Nat) : Option (Nat × Launch) :=
  (slist s.alloc.launches).find? (fun kl => kl.2.inst = i && kl.2.node = n)

/-- LAUNCH_NODE_COMPLETE (R237, R238, R306): no team is left and everything the launch issued has completed; an aborted launch
is stopped as for a pre-emption (R308, steps 1 to 3), its guests' packets too, then fails its node. -/
def execLaunchNodeComplete (a b : Nat) (s : State) : Out :=
  match s.inst? a, nodeLaunch s a b with
  | some x, some (lid, l) =>
    let quiet := (s.teamsOf lid).isEmpty && !(slist s.eng.cmds).any (fun c => c.2.launch = lid)
      && !(slist s.coh.ops).any (fun o => opHolds lid o.2)
    let gone := s.setLaunch lid none
    (match l.status with
     | .waiting => .refused (.notEnabled "LAUNCH_NODE_COMPLETE")
     | .suspended => .refused (.notEnabled "LAUNCH_NODE_COMPLETE")
     | .aborting c _ =>
       let ps := launchPackets s lid 0 ++ launchPackets s lid 1
       let toStop := ps.filter (fun p => p.stopBy.isNone && !p.stopped)
       if toStop ≠ [] then .next (toStop.foldl State.stopPacket s)
       else
         let gone := s.dropLaunch lid c
         let gone := { (gone.setLaunch lid none) with easel := { gone.easel with
           packets := gone.easel.packets.filter (fun p => launchOfTeam p.team ≠ lid) } }
         whenEnabled "LAUNCH_NODE_COMPLETE" (launchHalted s lid && ps.all (fun p => p.stopped))
           (if x.aborted then (gone.nodeState a b .done).settleInst a else gone.failNode a b c)
     | _ =>
       if !quiet then .refused (.notEnabled "LAUNCH_NODE_COMPLETE")
       else if launchDirty s lid ≠ [] then .next (flushLaunch s lid)
       else
         match x.node? b with
         | some d => .next (gone.nodeState a b (.ending d.succ))
         | none => .refused (.notEnabled "LAUNCH_NODE_COMPLETE"))
  | _, _ => .refused (.notEnabled "LAUNCH_NODE_COMPLETE")

/-! ### ENABLE_CLEAR (R233) -/

/-- Whether a node of that kind is a WAIT or COPY under way, which the abort of its instance ends: DONE waits for no more than the
launches (R233). -/
def NodeState.longRunning (kind : Nat) : NodeState → Bool
  | .running => kind = 5
  | .busy .. => kind = 4
  | _ => false

/-- Clear ENABLE: the ring's instance is aborted with every launch it placed; HEAD, DOORBELL and the error return to 0. -/
def State.clearRing (s : State) (r : Nat) : State :=
  let s := s.setBar0 (ringAddr r 8) (s.ring r 8 &&& ~~~(0x80000000#64))
  let s := ((slist s.alloc.insts).filter (fun x => x.2.ring = r && !x.2.ending)).foldl (fun s x =>
    let v := s.freeWord
    let s := v.2.setInst x.1 (some { x.2 with aborted := true, err := some (6, fld v.1 0 16) })
    let cut := (slist x.2.states).filter (fun p => ((x.2.node? p.1).map (fun d => NodeState.longRunning d.kind p.2)).getD false)
    let s := cut.foldl (fun s p => s.cutNode x.1 p.1) s
    let s := ((slist s.alloc.launches).filter (fun kl => kl.2.inst = x.1)).foldl (fun s kl => s.haltLaunch kl.1 6) s
    s.settleInst x.1) s
  let s := s.dropReads (.ring r)
  ((s.setBar0 (ringAddr r 0x10) 0).setBar0 (ringAddr r 0x18) 0).setBar0 (ringAddr r 0x20) 0

/-- ENABLE_CLEAR (R233): on a ring whose ENABLE is clear it changes nothing. -/
def execEnableClear (a : Nat) (s : State) : Out := .next (if s.ringOn a then s.clearRing a else s)

/-! ### DLAUNCH (R239, R240) -/

/-- The arm waits at DLAUNCH with its descriptor. -/
def sendDescriptor (k : Ctx) (gd : Nat) (s : State) (d : List Byte) : Res :=
  .stay (s.modArm k.tid k.f (fun a => { a with wait := .dlaunch gd (wordsOf 8 d) 0 none }))

/-- DLAUNCH: checks, the release, the read of the descriptor. -/
def dlaunchEff (f : UR) (k : Ctx) (s : State) : Res :=
  let h := k.t.greg f.ga.toNat
  let o := k.t.greg f.gb.toNat
  match s.launch? k.t.geom.launch, k.t.handle s h with
  | some l, some e =>
    if !(e.canRead && spaceIn [Sp.device, Sp.gallery] e) then .trap Code.handle h
    else if e.limit < o.toNat + 64 then .trap Code.bounds o
    else if misaligned o 64 then .trap Code.alignIssue o
    else if s.awaitsOwn k.t.geom.core k.tid k.f then .wait
    else if s.wroteM k.t.geom.core k.tid k.f then .stay (s.wideRelease k.t.geom.core k.tid k.f).2
    else if !(s.liveOps k.a.ops).isEmpty || !(s.liveCmds k.a.cmds).isEmpty then .wait
    else
      match placeOf l k.t.geom e 0 o.toNat with
      | .bank key =>
        if s.poisoned (key / 64) then .trap Code.soft (BitVec.ofNat 64 (2 ^ 63 + f.ga.toNat))
        else sendDescriptor k f.gd.toNat s (Memory.bytes s.mem key 64)
      | .va va =>
        (match xlateVas s (coreUnit k.t.geom.core) l.ctx .read [va] with
         | .fatal i => .trap Code.xlateFatal i
         | .miss ps => .park ps
         | .ok =>
           armReads k s [paOf s (coreUnit k.t.geom.core) l.ctx va / 64] (fun s ds =>
             if ds.any (fun d => d.2.1) then .trap Code.soft (BitVec.ofNat 64 (2 ^ 63 + f.ga.toNat))
             else sendDescriptor k f.gd.toNat s (ds.flatMap (·.1))))
      | .pod .. => .wait
      | .mcast .. => .wait
      | .none => .wait
  | none, _ => .wait
  | some _, none => .trap Code.handle h

/-- DLAUNCH (R239). -/
def execDlaunch (f : UR) (s : State) : Out :=
  issueUnit (.dlaunch f) { qg := f.qg.toNat, gr := [(f.ga.toNat, false), (f.gb.toNat, false)], gw := [f.gd.toNat] } s (dlaunchEff f)

/-- Whether a successor of a new node may be named (R240): it has not become ready. -/
def openSucc (x : Inst) (n : Nat) : Bool :=
  match x.state? n with
  | some (.blocked _) => true
  | _ => false

/-- The walker's answer to a descriptor, and the instance after it (R240). -/
def acceptNode (x : Inst) (w : List Word) : Word × Inst :=
  let d := parseNode w
  if x.aborted || x.err.isSome then (4, x)
  else if !nodeBitsOk w || decide (d.preds ≠ 0 ∨ d.kind = 3) || d.succ.any (fun n => decide (0x8100 ≤ n ∧ n < 0xFFFF)) then (2, x)
  else if !d.names.all (openSucc x) then (3, x)
  else if 256 ≤ x.dyn then (1, x)
  else
    let k := 0x8000 + x.dyn
    let x1 := d.names.foldl (fun x n => match x.state? n with
      | some (.blocked c) => x.setState n (.blocked (c + 1))
      | _ => x) x
    (BitVec.ofNat 64 (k * 65536), ({ x1 with nodes := oset x1.nodes k (some d), dyn := x1.dyn + 1 } : Inst).ready k)

/-- DLAUNCH_DESCRIPTOR (R240): the descriptor of an arm reaches the walker. -/
def execDlaunchDescriptor (a : ArmId) (s : State) : Out :=
  match s.armOf a with
  | none => .refused (.notEnabled "DLAUNCH_DESCRIPTOR")
  | some (t, x) =>
    match x.wait, (s.launch? t.geom.launch).bind (fun l => (s.inst? l.inst).map (fun i => (l.inst, i))) with
    | .dlaunch gd w n none, some (ii, i) =>
      let r := acceptNode i w
      .next ((s.setTeam a.team (t.setArm a.f (some { x with wait := .dlaunch gd w n (some r.1) }))).setInst ii (some r.2))
    | _, _ => .refused (.notEnabled "DLAUNCH_DESCRIPTOR")

/-- DLAUNCH_STATUS (R239): the answer reaches the arm. -/
def execDlaunchStatus (a : ArmId) (s : State) : Out :=
  match s.armOf a with
  | none => .refused (.notEnabled "DLAUNCH_STATUS")
  | some (t, x) =>
    match x.wait with
    | .dlaunch gd _ _ (some v) => .next (s.setTeam a.team ((t.setG gd v).setArm a.f (some x.wake)))
    | _ => .refused (.notEnabled "DLAUNCH_STATUS")

end Sys2Proof.Machine
end

