-- ==== Sys2Proof/Machine/EaselEv.lean ====
section
/-! DEFINITION. Translation walks and the driver's answers (R307, R350 to R352), and what guests send: contract packets, port requests,
deadlines (R341 to R346). -/

namespace Sys2Proof.Machine

/-! ### Walks and faults -/

/-- The accesses of an arm that wait for a page. -/
def Arm.waitsOn (a : Arm) (page : Nat) : List (Nat × Bool × Bool) :=
  match a.wait with
  | .xlate ps => ps.filter (fun p => p.1 / 2 ^ 17 = page)
  | _ => []

/-- The arms of a context that wait for a page: team, arm, core, first access. -/
def State.pageWaiters (s : State) (ctx page : Nat) : List (ArmId × Nat × Nat × Bool) :=
  (slist s.alloc.teams).flatMap (fun kt =>
    if (s.launch? kt.2.geom.launch).map (·.ctx) = some ctx then
      [false, true].filterMap (fun f =>
        ((kt.2.arm? f).bind (fun a => (a.waitsOn page).head?)).map (fun p => (⟨kt.1, f⟩, kt.2.geom.core, p.1, p.2.1)))
    else [])

/-- An arm no longer waits for a page; with nothing left to wait for it replays its unit. -/
def Arm.gotPage (a : Arm) (page : Nat) : Arm :=
  match a.wait with
  | .xlate ps =>
    let rest := ps.filter (fun p => p.1 / 2 ^ 17 ≠ page)
    { a with wait := if rest.isEmpty then .ready else .xlate rest }
  | _ => a

/-- The arms that wait for a page take XLATE_FATAL at their units, each when it next issues (R108, R307). -/
def State.fatalWaiters (s : State) (ws : List (ArmId × Nat × Nat × Bool)) : State :=
  ws.foldl (fun s w => s.modArm w.1.team w.1.f (fun a =>
    { a with wait := .fatal (BitVec.ofNat 64 (w.2.2.1 + if w.2.2.2 then 2 ^ 63 else 0)) })) s

/-- Whether a request of another chip waits with an address in a page that the driver does not owe an answer for. -/
def State.servedWaits (s : State) (ctx page : Nat) : Bool :=
  !s.easel.faults.any (fun f => f.ctx = ctx && f.page = page) && (slist s.pod.served).any (fun x => x.2.waiting
    && (match s.exportAt x.2.req.exp x.2.req.off x.2.req.n (remoteAcc x.2.req.op) with
        | .mem c va _ => c = ctx && va / 2 ^ 17 = page
        | .replay c p => c = ctx && p = page
        | _ => false))

/-- Whether an access that an arm awaits is one that a page's permissions allow. -/
def waitAllowed (x : Nat × Bool × Bool) (r w a : Bool) : Bool :=
  (if x.2.2 then Acc.atomic else if x.2.1 then Acc.write else Acc.read).allowed r w a

/-- Whether an arm that waits for a page has an access there that its permissions do not allow. -/
def State.waiterDenied (s : State) (page : Nat) (w : ArmId × Nat × Nat × Bool) (r wr a : Bool) : Bool :=
  match s.armOf w.1 with
  | some (_, x) => (x.waitsOn page).any (fun y => !waitAllowed y r wr a)
  | none => false

/-- TABLE_WALK (R307, R350, R351): a walk for the arms that wait on a page ends, or one for requests of other chips that wait. A page
that is not resident goes to the driver only for the accesses that its permissions allow. -/
def execTableWalk (a b : Nat) (s : State) : Out :=
  let ws := s.pageWaiters a b
  if ws.isEmpty then whenEnabled "TABLE_WALK" (s.servedWaits a b) s.retryServed
  else
    -- the state in which the walks of these arms' cores have read the tables
    let s := ((ws.map (fun w => w.2.1)).dedup).foldl (fun s c => s.walked (coreUnit c) a (b * 2 ^ 17)) s
    match walk s a (b * 2 ^ 17) with
    | .page .. => .next (ws.foldl (fun s w => s.modArm w.1.team w.1.f (fun x => x.gotPage b)) s)
    | .replay r wr at_ =>
      let bad := ws.filter (fun w => s.waiterDenied b w r wr at_)
      let fresh := (ws.filter (fun w => !bad.contains w)).filter (fun w =>
        !s.easel.faults.any (fun f => f.ctx = a && f.page = b && f.die = coreDie w.2.1))
      whenEnabled "TABLE_WALK" (!fresh.isEmpty || !bad.isEmpty)
        (fresh.foldl (fun s w => s.reportFault a b (coreDie w.2.1) w.2.2.2 w.1.team) (s.fatalWaiters bad))
    | .fatal => .next (s.fatalWaiters ws)
    | .busy => .refused (.notEnabled "TABLE_WALK")

/-- The driver's answer ends the fault records of a page. -/
def State.endFault (s : State) (ctx page : Nat) : State :=
  { s with easel := { s.easel with faults := s.easel.faults.filter (fun f => !(f.ctx = ctx && f.page = page)) } }

def State.faulted (s : State) (ctx page : Nat) : Bool := s.easel.faults.any (fun f => f.ctx = ctx && f.page = page)

/-- The commands of a context that are parked at a page (R257). -/
def State.parkedAt (s : State) (ctx page : Nat) (c : Cmd) : Bool :=
  (c.parked.map (·.1)) = some page && (s.launch? c.launch).map (·.ctx) = some ctx

/-- RESOLVED to every packet that waits on a page, for each FAULT with its address (R341, R344). -/
def State.resolveGuests (s : State) (ctx page res : Nat) : State :=
  (s.easel.packets.filter (fun p => p.ctx = ctx && p.waits.any (fun va => va / 2 ^ 17 = page))).foldl (fun s p =>
    (p.waits.filter (fun va => va / 2 ^ 17 = page)).foldl (fun s va =>
      s.emit (.packet p.site (contractPacket 0xF011 p.pkt (leBytes 8 va ++ leBytes 1 res))))
      (s.modPacket p (fun x => { x with
        waits := x.waits.filter (fun va => va / 2 ^ 17 ≠ page)
        denied := if res = 1 then (page :: x.denied).dedup else x.denied }))) s

/-- What waits by trying again does so. -/
def State.retryAll (s : State) : State :=
  (slist s.alloc.insts).foldl (fun s i => s.settleInst i.1) s.retryServed

/-- FAULT_RESOLVE (R257, R307, R344): parked arms replay, commands go on, guests are told. An answer to a record that has been
withdrawn (R346) does nothing. -/
def execFaultResolve (a b : Nat) (s : State) : Out :=
  let ws := s.pageWaiters a b
  let t := s.endFault a b
  let t := ws.foldl (fun s w => s.modArm w.1.team w.1.f (fun x => { x with wait := .ready })) t
  let t := { t with
    eng := { t.eng with cmds := smap t.eng.cmds (fun _ c => if s.parkedAt a b c then { c with parked := none } else c) }
    easel := { t.easel with denied := t.easel.denied.filter (· ≠ (a, b)) } }
  .next (if s.faulted a b then (t.resolveGuests a b 0).retryAll else s)

/-- FAULT_FATAL (R257, R307, R344): arms trap XLATE_FATAL, commands fail, guests are told. An answer to a record
that has been withdrawn (R346) does nothing. -/
def execFaultFatal (a b : Nat) (s : State) : Out :=
  let t := (s.endFault a b).fatalWaiters (s.pageWaiters a b)
  let t := { t with
    eng := { t.eng with cmds := smap t.eng.cmds (fun _ c => if s.parkedAt a b c then c.failWith Code.xlateFatal s.self else c) }
    easel := { t.easel with denied := ((a, b) :: t.easel.denied).dedup } }
  .next (if s.faulted a b then (t.resolveGuests a b 1).retryAll else s)

/-! ### Invalidation (R352) -/

def Inval.covers (i : Inval) (ctx page : Nat) : Bool :=
  i.ctx = ctx && (i.all || (decide (i.page ≤ page) && decide (page < i.page + i.count)))

/-- Whether an invalidation meets the page that begins at `first`, of 128 KiB or of 2 GiB. -/
def Inval.meets (i : Inval) (ctx first : Nat) (big : Bool) : Bool :=
  if big then i.ctx = ctx && (i.all || (decide (i.page < first / bigPages * bigPages + bigPages)
    && decide (first / bigPages * bigPages < i.page + i.count)))
  else i.covers ctx first

/-- Sites whose guest is attested. -/
def State.liveSites (s : State) : List Nat := [0, 1].filter (fun i => (s.site i).serves)

/-- Whether a sector lies in a page of one of these entries. -/
def TlbEnt.reachesSector (e : TlbEnt) (sec : Nat) : Bool :=
  decide (e.pa ≤ sec * 64) && decide (sec * 64 < e.pa + if e.big then 2 ^ 31 else 2 ^ 17)

/-- Whether an operation may have been translated through a page of an invalidation: by the addresses of its bytes; writes of the
controller's agents, which keep none, are all waited for. -/
def Op.usedPage (x : Op) (i : Inval) : Bool :=
  let at_ := fun (a : Option (Nat × Nat)) => match a with | some (ctx, va) => i.covers ctx (va / 2 ^ 17) | none => false
  match x.kind with
  | .cmdWrite _ a => at_ a
  | .guest _ _ _ a => at_ a
  | .delivery _ a => at_ a
  | .cmdHold _ => true
  | .nodeWrite .. => true
  | .doneWrite _ => true
  | .load => x.spans.any (fun p => p.cls = 1 && i.covers p.tag (p.lo / 2 ^ 17))
  | .store => x.spans.any (fun p => p.cls = 1 && i.covers p.tag (p.lo / 2 ^ 17))
  | .atomic => x.spans.any (fun p => p.cls = 1 && i.covers p.tag (p.lo / 2 ^ 17))
  | .cache => x.spans.isEmpty || x.spans.any (fun p => p.cls = 1 && i.covers p.tag (p.lo / 2 ^ 17))
  | .stm => false
  | .cmdRead .. => false
  | .remote .. => true
  | .host => false

/-- What lives when GO is set and used, or may have used, a translation that is dropped (R352): operations, loads, served requests and
agents' reads. -/
def State.liveNow (s : State) (i : Inval) : List Nat × List Nat × List Nat × List Nat :=
  let dropped := s.easel.tlb.filter (fun e => i.meets e.ctx e.page e.big)
  let hit := fun (sec : Nat) => dropped.any (fun e => e.reachesSector sec)
  (((slist s.coh.ops).filter (fun o => o.2.usedPage i)).map Prod.fst,
    ((slist s.coh.loads).filter (fun l => (slist l.2.parts).any (fun p => hit p.2.sector))).map Prod.fst,
    ((slist s.pod.served).filter (fun x => x.2.reply.isNone
      && i.covers (fld (s.expWord x.2.req.exp 3) 0 16) ((fld (s.expWord x.2.req.exp 1) 0 57 + x.2.req.off) / 2 ^ 17))).map Prod.fst,
    ((slist s.coh.reads).filter (fun r => hit r.2.sector)).map Prod.fst)

/-- A write of XINVCTL (R352): with GO, entries leave every TLB and every guest is sent INVAL. -/
def State.xinvWrite (s : State) (a : Word) : State :=
  if s.easel.xinvBusy then s
  else if a.getLsbD 63 then
    let va := fld (s.bar0 0x300300) 17 40
    let i : Inval := ⟨s.easel.nextInv, s.sched.gtc + 10000, fld a 0 16, va, fld a 16 32, a.getLsbD 62⟩
    let pkt := contractPacket 0xF014 [] (leBytes 8 (va * 2 ^ 17) ++ leBytes 4 i.count ++ leBytes 2 i.ctx ++ leBytes 2 (if i.all then 1 else 0)
      ++ leBytes 4 i.num)
    let s := s.setBar0 0x300308 (a &&& 0xC000FFFFFFFFFFFF#64)
    let (ops, loads, srv, reads) := s.liveNow i
    let s := { s with easel := { s.easel with
      tlb := s.easel.tlb.filter (fun e => !i.meets e.ctx e.page e.big)
      xinvBusy := true
      nextInv := (i.num + 1) % 2 ^ 32
      xinvOps := ops
      xinvLoads := loads
      xinvServed := srv
      xinvReads := reads } }
    s.liveSites.foldl (fun s d => (s.setSite d { s.site d with invals := (s.site d).invals ++ [i] }).emit (.packet d pkt)) s
  else s.setBar0 0x300308 (a &&& 0x4000FFFFFFFFFFFF#64)

/-- XINVCTL_GO. -/
def execXinvctlGo (a : Word) (s : State) : Out := .next (if s.mgmt.stage < 2 then s else s.xinvWrite a)

/-- XINV_COMPLETE: every guest has answered or is isolated, every request that used a dropped translation is over. -/
def execXinvComplete (s : State) : Out :=
  whenEnabled "XINV_COMPLETE"
    (s.easel.xinvBusy && s.liveSites.all (fun d => (s.site d).invals.isEmpty) && (s.liveOps s.easel.xinvOps).isEmpty
      && !s.easel.xinvLoads.any (fun l => (oget s.coh.loads l).isSome)
      && !s.easel.xinvServed.any (fun k => match oget s.pod.served k with | some x => x.reply.isNone | none => false)
      && !s.easel.xinvReads.any (fun r => (oget s.coh.reads r).isSome))
    { s.setBar0 0x300308 (s.bar0 0x300308 &&& 0x7FFFFFFFFFFFFFFF#64) with easel := { s.easel with
      xinvBusy := false, xinvOps := [], xinvLoads := [], xinvServed := [], xinvReads := [] } }

/-! ### Contract packets from a guest (R341, R342, R344, R346) -/

/-- A flit has come from a site. -/
def State.heard (s : State) (site : Nat) : State := s.setSite site { s.site site with lastFlit := s.sched.gtc }

/-- A packet ends; a STOPPED that was due stays due (R346). -/
def State.closePacket (s : State) (p : Packet) (fail : Option Nat) (gres : Nat) : State :=
  let s := match p.stopBy with
    | some d => s.setSite p.site { s.site p.site with ghosts := (s.site p.site).ghosts ++ [(p.queue, p.seq, d)] }
    | none => s
  (s.withdrawFaults p).endPacket p fail gres

/-- Handle a guest's packet that names an outstanding work packet; one that names none isolates its guest (R342, R343). An isolated
site's packets are discarded. -/
def fromGuest (s : State) (q : GuestPkt) (fn : State → Packet → State) : Out :=
  if (s.site q.site).serves then
    let s := s.heard q.site
    match s.packet? q with
    | none => .next (s.isolate q.site 1)
    | some p => .next (fn s p)
  else .next s

/-- Writes of a packet that have not been answered. -/
def State.guestWrites (s : State) (q : GuestPkt) : Bool :=
  (slist s.coh.ops).any (fun o => match o.2.kind with
    | .guest st qu sq _ => decide (st = q.site ∧ qu = q.queue ∧ sq = q.seq)
    | _ => false)

/-- COMPLETE (R256, R273, R340, R343). -/
def execComplete (a : GuestPkt) (b : BitVec 32) (s : State) : Out :=
  fromGuest s a (fun s p => if s.guestWrites a then s.isolate a.site 1 else s.closePacket p none b.toNat)

/-- FAULT (R344): internal faults and those of a page answered as fatal fail the command; any other goes to the driver. One that is
due and comes after its deadline isolates the guest (log 113). -/
def execFault (a : GuestPkt) (b : Nat) (c d : Bool) (s : State) : Out :=
  fromGuest s a (fun s p =>
    let page := b / 2 ^ 17
    if p.owes.any (fun o => o.1 = page && decide (o.2 < s.sched.gtc)) then s.isolate a.site 2
    else if d then s.closePacket p (some Code.guest) 0
    else if p.denied.contains page then s.closePacket p (some Code.xlateFatal) 0
    else
      let s := s.modPacket p (fun x => { x with owes := x.owes.filter (fun o => o.1 ≠ page) })
      if p.stopBy.isSome then s
      else (s.modPacket p (fun x => { x with waits := (b :: x.waits).dedup })).reportFault p.ctx page a.site c p.team)

/-- STOPPED (R344 to R346). -/
def execStopped (a : GuestPkt) (b c : Nat) (d : Bool) (s : State) : Out :=
  if (s.site a.site).serves then
    let s := s.heard a.site
    let x := s.site a.site
    match s.packet? a with
    | some p =>
      if p.stopBy.isNone || d || decide (b ≠ x.bufferAddr (p.buf.getD 0)) then .next (s.isolate a.site 1)
      else if decide (2 ^ 20 < c) || (match p.stopBy with | some d => decide (d < s.sched.gtc) | none => false) then
        .next (s.isolate a.site 4)
      else .next (s.modPacket p (fun x => { x with stopBy := none, savedLen := c, stopped := true, granted := [], denied := [], owes := [] }))
    | none =>
      if x.ghosts.any (fun g => g.1 = a.queue && g.2.1 = a.seq && decide (g.2.2 < s.sched.gtc)) then .next (s.isolate a.site 4)
      else if x.ghosts.any (fun g => g.1 = a.queue && g.2.1 = a.seq) then
        .next (s.setSite a.site { x with ghosts := x.ghosts.filter (fun g => !(g.1 = a.queue && g.2.1 = a.seq)) })
      else .next (s.isolate a.site 1)
  else .next s

/-- INVACK (R346, R352): the pages of the invalidation are no longer granted. -/
def execInvack (a b : Nat) (s : State) : Out :=
  if (s.site a).serves then
    let s := s.heard a
    match (s.site a).invals.find? (fun i => i.num = b) with
    | none => .next s
    | some i =>
      if i.by_ < s.sched.gtc then .next (s.isolate a 3)
      else
      let s := s.setSite a { s.site a with invals := (s.site a).invals.filter (fun x => x.num ≠ b) }
      .next { s with easel := { s.easel with packets := s.easel.packets.map (fun p =>
        if p.site = a then { p with granted := p.granted.filter (fun g => !i.meets p.ctx g.1 g.2) } else p) } }
  else .next s

/-- XLREQ (R343, R344, R350): the answer is 0 valid, 1 not resident, 2 fatal; while a table cannot be read it waits. A valid answer
grants the whole page. -/
def execXlreq (a : GuestPkt) (b : Nat) (c d : Bool) (s : State) : Out :=
  fromGuest s a (fun s p =>
    let acc := if d then Acc.atomic else if c then Acc.write else Acc.read
    let page := b / 2 ^ 17
    let ans := fun (s : State) (res : Nat) (big : Bool) =>
      s.emit (.packet a.site (contractPacket 0xF010 p.pkt (leBytes 8 b ++ leBytes 1 res ++ leBytes 1 (if big then 1 else 0))))
    let late := s.sched.gtc + 10000
    let s := s.walked (dieUnit a.site) p.ctx b
    match (xlNow s (dieUnit a.site) p.ctx b acc).1 with
    | .page _ _ _ _ big => ans (s.modPacket p (fun x => { x with
        granted := ((if big then page / bigPages * bigPages else page, big) :: x.granted).dedup })) 0 big
    | .replay .. =>
      ans (s.modPacket p (fun x => { x with owes := x.owes ++ [(page, late)], denied := x.denied.filter (· ≠ page) })) 1 false
    | .busy => s
    | .fatal => ans (s.modPacket p (fun x => { x with owes := x.owes ++ [(page, late)], denied := (page :: x.denied).dedup })) 2 false)

/-! ### The coherent port (R343) -/

/-- A port request: translated in its packet's context; refused when its page does not translate, and a page that the guest was
never granted isolates it (R344). -/
def portAccess (s : State) (q : GuestPkt) (va : Nat) (acc : Acc) (fn : State → Packet → Nat → State) : Out :=
  fromGuest s q (fun s p =>
    let no := s.emit (.portRefused q.site q.queue q.seq)
    if !p.granted.any (fun g => pageHolds g.1 g.2 (va / 2 ^ 17)) then no.isolate q.site 1
    else
      let s := s.walked (dieUnit q.site) p.ctx va
      match xlNow s (dieUnit q.site) p.ctx va acc with
      | (.page .., pa) => fn s p pa
      | (.busy, _) => s
      | _ => s.emit (.portRefused q.site q.queue q.seq))

/-- A guest's read of its sector at the home: refused when it is poisoned. Until the home answers it waits. The
reply carries what remains of its lease when it leaves (R343). -/
def portRead (s : State) (q : GuestPkt) (lease : Option Nat) (pa : Nat) : State :=
  match s.agentReads (.guest q.site q.queue q.seq) lease [pa / 64] with
  | (some ((d, bad, expiry) :: _), s') =>
    s'.emit (if bad then .portRefused q.site q.queue q.seq else .portData q.site q.queue q.seq d (expiry - s.sched.gtc))
  | (_, s') => s'

/-- RDCURR: a WT read. -/
def execRdcurr (a : GuestPkt) (b : Nat) (s : State) : Out := portAccess s a b .read (fun s _ pa => portRead s a none pa)

/-- RDSHARED: an SI read with a lease of 1,024 ticks (R159). -/
def execRdshared (a : GuestPkt) (b : Nat) (s : State) : Out := portAccess s a b .read (fun s _ pa => portRead s a (some 1024) pa)

/-- WRCUR: a WT store with byte enables; `c` gives bytes by offset in the sector. -/
def execWrcur (a : GuestPkt) (b : Nat) (c : List (Nat × Byte)) (s : State) : Out :=
  portAccess s a b .write (fun s p pa =>
    if s.homeAccepts (pa / 64) then
      let o := s.freshOp (.guest a.site a.queue a.seq (some (p.ctx, b / 64 * 64))) 0 false
      o.2.homeArrive (pa / 64) ⟨.op, .write (c.map (fun x => (pa / 64 * 64 + x.1 % 64, x.2))) o.1⟩
    else s)

/-! ### Deadlines and isolation (R344, R345) -/

/-- FAULT_REPORT_DEADLINE. -/
def execFaultReportDeadline (a : GuestPkt) (s : State) : Out :=
  match s.packet? a with
  | none => .refused (.notEnabled "FAULT_REPORT_DEADLINE")
  | some p => whenEnabled "FAULT_REPORT_DEADLINE" ((s.site a.site).serves && p.owes.any (fun o => decide (o.2 < s.sched.gtc)))
      (s.isolate a.site 2)

/-- INVACK_DEADLINE. -/
def execInvackDeadline (a : Nat) (s : State) : Out :=
  whenEnabled "INVACK_DEADLINE" ((s.site a).serves && (s.site a).invals.any (fun i => decide (i.by_ < s.sched.gtc))) (s.isolate a 3)

/-- STOPPED_DEADLINE. -/
def execStoppedDeadline (a : GuestPkt) (s : State) : Out :=
  let late := (match (s.packet? a).bind (·.stopBy) with | some d => decide (d < s.sched.gtc) | none => false)
    || (s.site a.site).ghosts.any (fun g => g.1 = a.queue && g.2.1 = a.seq && decide (g.2.2 < s.sched.gtc))
  whenEnabled "STOPPED_DEADLINE" ((s.site a.site).serves && late) (s.isolate a.site 4)

/-- LINK_SILENT: no flit for 10 µs. -/
def execLinkSilent (a : Nat) (s : State) : Out :=
  whenEnabled "LINK_SILENT" ((s.site a).serves && decide ((s.site a).lastFlit + 10000 < s.sched.gtc)) (s.isolate a 5)

/-- GUEST_SITE_RESET (R345): the driver resets an isolated site; a guest whose chain verifies serves again, with the queues it
declares, and counts SEQ from 0. -/
def execGuestSiteReset (a : Nat) (b : Option Nat) (s : State) : Out :=
  match b with
  | some q => whenEnabled "GUEST_SITE_RESET" (s.site a).isolated (s.attested a q)
  | none => whenEnabled "GUEST_SITE_RESET" (s.site a).isolated (s.setSite a { s.site a with attested := false })

/-- UNLISTED_CONTRACT_KIND (R342): a kind that the table does not list from a guest isolates it. -/
def execUnlistedContractKind (a : Nat) (b : BitVec 16) (s : State) : Out :=
  if 0xF001 ≤ b.toNat ∧ b.toNat ≤ 0xF005 then .refused (.notEnabled "UNLISTED_CONTRACT_KIND")
  else .next (if (s.site a).serves then (s.heard a).isolate a 1 else s)

end Sys2Proof.Machine
end

