-- ==== Sys2Proof/Machine/Sha3.lean ====
section
/-! DEFINITION. SHA3-256, which R356 and R357 name and do not spell out: FIPS 202 (PRESUMED, log 127). A lane is a number below 2^64, and the
state is its 25 lanes, lane (x, y) at 5 y + x. -/

namespace Sys2Proof.Machine

namespace Keccak

def lane (a : List Nat) (i : Nat) : Nat := (a[i]?).getD 0

def rotl (x n : Nat) : Nat := (x * 2 ^ n + x / 2 ^ (64 - n)) % 2 ^ 64

/-- Offsets by which ρ turns lane (x, y). -/
def offsets : List Nat := [0, 1, 62, 28, 27, 36, 44, 6, 55, 20, 3, 10, 43, 25, 39, 41, 45, 15, 21, 8, 18, 2, 61, 56, 14]

/-- Constants of ι. -/
def constants : List Nat := [0x0000000000000001, 0x0000000000008082, 0x800000000000808A, 0x8000000080008000, 0x000000000000808B,
  0x0000000080000001, 0x8000000080008081, 0x8000000000008009, 0x000000000000008A, 0x0000000000000088, 0x0000000080008009,
  0x000000008000000A, 0x000000008000808B, 0x800000000000008B, 0x8000000000008089, 0x8000000000008003, 0x8000000000008002,
  0x8000000000000080, 0x000000000000800A, 0x800000008000000A, 0x8000000080008081, 0x8000000000008080, 0x0000000080000001,
  0x8000000080008008]

/-- The parity of a column of the state. -/
def parity (a : List Nat) (x : Nat) : Nat := lane a x ^^^ lane a (x + 5) ^^^ lane a (x + 10) ^^^ lane a (x + 15) ^^^ lane a (x + 20)

def theta (a : List Nat) : List Nat :=
  let c := (List.range 5).map (parity a)
  (List.range 25).map (fun i => lane a i ^^^ lane c ((i + 4) % 5) ^^^ rotl (lane c ((i + 1) % 5)) 1)

/-- ρ and π: lane (x, y) comes from lane (x + 3 y, x), turned. -/
def rhoPi (a : List Nat) : List Nat :=
  (List.range 25).map (fun i =>
    let j := 5 * (i % 5) + (i % 5 + 3 * (i / 5)) % 5
    rotl (lane a j) (lane offsets j))

def chi (a : List Nat) : List Nat :=
  (List.range 25).map (fun i =>
    let y := i / 5 * 5
    lane a i ^^^ ((2 ^ 64 - 1 - lane a (y + (i + 1) % 5)) &&& lane a (y + (i + 2) % 5)))

def iota (k : Nat) (a : List Nat) : List Nat := a.set 0 (lane a 0 ^^^ k)

def permute (a : List Nat) : List Nat := constants.foldl (fun a k => iota k (chi (rhoPi (theta a)))) a

/-- Bytes of a block at the rate of SHA3-256. -/
def rate : Nat := 136

/-- A message with its padding: 01 and then 1 0…0 1 in bits, to a multiple of the rate. -/
def pad (m : List Byte) : List Byte :=
  let n := rate - m.length % rate
  m ++ (if n = 1 then [0x86] else 0x06 :: (List.replicate (n - 2) 0 ++ [0x80]))

/-- The state after blocks; the number bounds them. -/
def absorb : Nat → List Byte → List Nat → List Nat
  | 0, _, a => a
  | n + 1, m, a =>
    if m.length < rate then a
    else absorb n (m.drop rate) (permute ((List.range 25).map (fun i =>
      lane a i ^^^ (if i < 17 then leNat ((m.drop (8 * i)).take 8) else 0))))

end Keccak

/-- SHA3-256 of some bytes. -/
def sha3 (m : List Byte) : List Byte :=
  let p := Keccak.pad m
  ((Keccak.absorb (p.length / Keccak.rate) p (List.replicate 25 0)).take 4).flatMap (leBytes 8)

end Sys2Proof.Machine
end

