-- ==== Sys2Proof/Machine/Manage.lean ====
section
/-! DEFINITION. The host link, the registers of BAR 0, the mailbox, the stages of bring-up, power (R182, R306, R316, R330, R353 to
R362). -/

namespace Sys2Proof.Machine

/-! ### The host's accesses to memory (R182, R353, R367) -/

/-- Whether every byte of a run reaches memory; an empty run does. -/
def runReaches (pa n : Nat) : Bool := n = 0 || (reaches pa && reaches (pa + n - 1))

/-- An access of the host that has not committed: the host's writes commit in order. -/
def State.hostBusy (s : State) : Bool := (slist s.coh.ops).any (fun o => decide (o.2.kind = .host))

/-- One sector's piece of a host write. -/
def State.hostPiece (s : State) (x : Nat × List Byte) : State :=
  let o := s.freshOp .host 0 false
  o.2.homeArrive (x.1 / 64) ⟨.op, .write (cellsOf x.1 x.2) o.1⟩

/-- HOST_WRITE: a write at system scope. -/
def execHostWrite (a : Nat) (b : List Byte) (s : State) : Out :=
  let ps := cutRun (b.length / 64 + 2) a b
  if !runReaches a b.length then .fault (.reachesNothing a)
  else if s.mgmt.stage < 2 then .refused (.notEnabled "HOST_WRITE")
  else if s.hostBusy || !ps.all (fun x => s.homeAccepts (x.1 / 64)) then .next s
  else .next (ps.foldl State.hostPiece s)

/-- HOST_READ: WT reads at the homes of its sectors. -/
def execHostRead (a b : Nat) (s : State) : Out :=
  let ps := cutRun (b / 64 + 2) a (List.replicate b 0)
  if !runReaches a b then .fault (.reachesNothing a)
  else if s.mgmt.stage < 2 then .refused (.notEnabled "HOST_READ")
  else if s.hostBusy then .next s
  else
    match s.agentReads .host none (ps.map (fun x => x.1 / 64)) with
    | (some ds, s') => .next (s'.emit (.hostData a ((ps.zip ds).flatMap (fun x => (x.2.1.drop (x.1.1 % 64)).take x.1.2.length))))
    | (none, s') => .next s'

/-- The AtomicOps of PCIe (R353): FetchAdd, Swap, CAS. -/
def pcieAtomic (op : AOp) : Bool := op = .add || op = .xchg || op = .cas

/-- HOST_ATOMIC: an AtomicOp of the host, performed at the home. -/
def execHostAtomic (a : Nat) (b : Bool) (c : AOp) (d e : Word) (s : State) : Out :=
  if !runReaches a (atomicBytes b) then .fault (.reachesNothing a)
  else if s.mgmt.stage < 2 ∨ !pcieAtomic c ∨ a % atomicBytes b ≠ 0 then .refused (.notEnabled "HOST_ATOMIC")
  else if s.hostBusy || !s.homeAccepts (a / 64) then .next s
  else
    let o := s.freshOp .host 0 false
    .next (o.2.homeArrive (a / 64) ⟨.op, .atomic c b (a % 64) d e false o.1 noTeam 0⟩)

/-! ### The mailbox (R357, R358) -/

/-- A mailbox command is written. One that comes after another may find it running: then it is refused with BUSY. Whether an earlier
command still runs is a free value. -/
def State.mailbox (s : State) (go : State → State) : State :=
  let v := s.freeWord
  if s.mgmt.mailRan && v.1.getLsbD 0 then v.2.emit .mailBusy
  else go { v.2 with mgmt := { v.2.mgmt with mailRan := true } }

/-- What a report says (R357): the nonce, the digests of the running firmware and of each attested guest's chain, the rollback counter
and the stage. In which order is the model's choice (log 127). -/
def State.reportBody (s : State) (nonce : List Byte) : List Byte :=
  nonce ++ s.mgmt.firmware ++ ((List.range 2).filter (fun i => (s.site i).attested)).flatMap (fun i => (s.site i).chain)
    ++ leBytes 4 s.mgmt.rollback ++ leBytes 1 s.mgmt.stage

/-- The report with its ML-DSA-44 signature under the identity key, which is never readable. -/
def State.attestation (s : State) (nonce : List Byte) : List Byte :=
  s.reportBody nonce ++ (List.range 2420).map (Config.identitySignature (s.reportBody nonce))

/-- ATTEST (R357). -/
def execAttest (a : List Byte) (s : State) : Out := .next (s.mailbox (fun s => s.emit (.report (s.attestation a))))

/-- KEYLOAD (R358): the key of an export or group is bound to a context. The key itself is in no register and not in the model. -/
def execKeyload (a : Nat) (b : Bool) (c : Nat) (_wrapped : List Byte) (s : State) : Out :=
  .next (s.mailbox (fun s => { s with mgmt := { s.mgmt with keys := ((a, b, c) :: s.mgmt.keys).dedup } }))

/-! ### Registers with an effect of their own -/

/-- Word of the abort record of a die (R306). -/
def State.abortWord (s : State) (die i : Nat) : Word :=
  match oget s.alloc.aborts die with
  | some w => (w[i]?).getD 0
  | none => 0

/-- Clear VALID of an abort record. -/
def State.clearAbort (s : State) (die : Nat) : State :=
  match oget s.alloc.aborts die with
  | some w =>
    let w' := w.set 0 ((w[0]?).getD 0 &&& 0x7FFFFFFFFFFFFFFF#64)
    { s with alloc := { s.alloc with aborts := oset s.alloc.aborts die (some w') } }
  | none => s

/-- ABORT_RECORD_READ (R306): word 0 is read, and VALID is clear. -/
def execAbortRecordRead (a : Nat) (s : State) : Out :=
  if s.mgmt.stage < 2 then .refused (.notEnabled "ABORT_RECORD_READ")
  else .next ((s.emit (.register (0x300100 + 64 * a) (s.abortWord a 0))).clearAbort a)

/-- A write of TIMECTL (R330, R355): in Stage C it starts Stage D; a master is locked at once. -/
def State.timectlWrite (s : State) (v : Word) : State :=
  let w : Word := if v.getLsbD 63 then 0x8000000000000000#64 else v &&& 0x3F#64
  if s.mgmt.stage < 3 then s
  else
    let s := s.setBar0 0x300080 w
    let s := if s.mgmt.stage = 3 then { s with
        mgmt := { s.mgmt with stageDPending := true }
        pod := { s.pod with timeStarted := true } }
      else s
    if w.getLsbD 63 then { s with pod := { s.pod with locked := true, bounded := true, lostSince := none } } else s

/-- TIMECTL_WRITE. -/
def execTimectlWrite (a : Word) (s : State) : Out := .next (s.timectlWrite a)

/-- A write of PWRCAP (R361): a value outside 500 to 3,000 is ignored. -/
def State.pwrcapWrite (s : State) (v : Word) : State :=
  let w := fld v 0 12
  if 500 ≤ w ∧ w ≤ 3000 then s.setBar0 0x20 (BitVec.ofNat 64 w) else s

/-- PWRCAP_WRITE. -/
def execPwrcapWrite (a : Word) (s : State) : Out := .next (s.pwrcapWrite a)

/-- A write of FTHRESH (R316): 0 and 1 are ignored. -/
def State.fthreshWrite (s : State) (v : Word) : State :=
  let w := fld v 0 4
  if s.mgmt.stage < 2 ∨ w < 2 then s else s.setBar0 0x300040 (BitVec.ofNat 64 w)

/-- FTHRESH_WRITE. -/
def execFthreshWrite (a : Word) (s : State) : Out := .next (s.fthreshWrite a)

/-! ### BAR 0 (R354) -/

/-- A register of a ring (R233, R347): RBASE, RCTL and RCTX change only while ENABLE is 0. -/
def State.ringWrite (s : State) (r o : Nat) (v : Word) : State :=
  if o = 0x10 then s.doorbell r (v.setWidth 32)
  else if s.ringOn r then (if o = 8 ∧ !v.getLsbD 31 then s.clearRing r else s)
  else if o = 0 then s.setBar0 (ringAddr r 0) (v &&& 0x1FFFFFFFFFFF000#64)
  else if o = 8 then
    (if v.getLsbD 31 && (decide (s.mgmt.stage < 3) || decide (fld v 0 4 < 4) || decide (12 < fld v 0 4)) then s
     else s.setBar0 (ringAddr r 8) (v &&& 0x8001030F#64))
  else if o = 0x28 then s.setBar0 (ringAddr r 0x28) (v &&& 0xFFFF#64)
  else s

/-- The eight words of a tree-table entry. -/
def State.treeEntry (s : State) (g : Nat) : List Word := (List.range 8).map (s.treeWord g)

/-- The bits of a word of an export, a route or an endpoint that are not reserved (R324, R327, R333). -/
def exportMask (i : Nat) : Word :=
  if i = 0 then 0x800000000000070F#64
  else if i = 1 ∨ i = 2 then 0x1FFFFFFFFFFFFFF#64
  else if i = 3 then 0xFFFF#64
  else 0

def endpointMask (i : Nat) : Word :=
  if i = 0 then 0x800000000000000F#64
  else if i = 1 then 0xFFFFFFFFFFFFFFFF#64
  else if i = 2 then 0xFFFFFFFFFFFF#64
  else 0

/-- A register of the 0x30_0000 region. -/
def State.poolWrite (s : State) (off : Nat) (v : Word) : State :=
  if off = 0x300000 then s.setBar0 off (v &&& 0x1FFFFFFFFFF0000#64)
  else if off = 0x300008 then s.setBar0 off (v &&& 0xFFFF#64)
  else if off = 0x300040 then s.fthreshWrite v
  else if off = 0x300080 then s.timectlWrite v
  else if off = 0x300208 ∨ off = 0x300218 then
    let i := (off - 0x300208) / 16
    s.setSite i { s.site i with gspool := v &&& 0xFFFFFFFFFFF00000#64 }
  else if off = 0x300300 then s.setBar0 off (v &&& 0x1FFFFFFFFFE0000#64)
  else if off = 0x300308 then s.xinvWrite v
  else if off = 0x300400 then s.setBar0 off (v &&& 0x1FFFFFFFFF80000#64)
  else s

/-- A write of a register: reserved bits are not kept, read-only registers and offsets in no region ignore it, and in Stage A
only the management region works. -/
def State.regWrite (s : State) (off : Nat) (v : Word) : State :=
  if off % 8 ≠ 0 then s
  else if off < 0x1000 then
    (if off = 0x18 then s.setBar0 off v else if off = 0x20 then s.pwrcapWrite v else s)
  else if s.mgmt.stage < 2 then s
  else if 0x100000 ≤ off ∧ off < 0x101000 then s.ringWrite ((off - 0x100000) / 64) (off % 64) v
  else if 0x200000 ≤ off ∧ off < 0x204000 then
    let g := (off - 0x200000) / 64
    s.treeWrite g ((s.treeEntry g).set (off % 64 / 8) v)
  else if 0x300000 ≤ off ∧ off < 0x400000 then s.poolWrite off v
  else if 0x400000 ≤ off ∧ off < 0x800000 then s.setBar0 off (v &&& exportMask (off % 64 / 8))
  else if 0x800000 ≤ off ∧ off < 0x802000 then s.setBar0 off (v &&& 0x8000FFFFFFFFFFFF#64)
  else if 0x810000 ≤ off ∧ off < 0x850000 then s.setBar0 off (v &&& endpointMask (off % 64 / 8))
  else s

/-- REGISTER_WRITE. -/
def execRegisterWrite (a : Nat) (b : Word) (s : State) : Out := .next (s.regWrite a b)

/-- EASELSTAT of a site (R338). -/
def Site.easelstat (x : Site) : Word :=
  BitVec.ofNat 64 ((if x.isolated then x.cause * 256 else 0) + x.qm1 * 16 + (if x.isolated then 2 else 0) + (if x.attested then 1 else 0))

/-- What a register reads as: a field that another part of the state holds, or the word written. -/
def State.regRead (s : State) (off : Nat) : Word :=
  if off % 8 ≠ 0 then 0
  else if off = 0 then BitVec.ofNat 64 (s.mgmt.stage + s.mgmt.failCode * 256 + s.mgmt.failStage * 65536)
  else if off = 0x10 then BitVec.ofNat 64 s.mgmt.fttail
  else if off = 0x28 then BitVec.ofNat 64 (s.mgmt.watts + s.mgmt.gated * 65536)
  else if off < 0x1000 then s.bar0 off
  else if s.mgmt.stage < 2 then 0
  else if off < 0x3000 then ((sget [] s.mgmt.faultTable ((off - 0x1000) / 32))[off % 32 / 8]?).getD 0
  else if 0x300100 ≤ off ∧ off < 0x300180 then s.abortWord ((off - 0x300100) / 64) (off % 64 / 8)
  else if off = 0x300200 ∨ off = 0x300210 then (s.site ((off - 0x300200) / 16)).easelstat
  else if off = 0x300208 ∨ off = 0x300218 then (s.site ((off - 0x300208) / 16)).gspool
  else if 0x800000 ≤ off ∧ off < 0x802000 then s.routeWord ((off - 0x800000) / 8)
  else s.bar0 off

/-! ### Power (R361, R362) -/

/-- POWER_WINDOW (R361): the watts of a window, and the fraction of cycles gated from now on: none under the cap unless the
controller gates already, else a free value of at most 3 of every 4, and over the cap not none. -/
def execPowerWindow (a : Nat) (s : State) : Out :=
  let cap := fld (s.bar0 0x20) 0 12
  let v := s.freeWord
  let w := a % 4096
  if w ≤ cap ∧ s.mgmt.gated = 0 then .next { s with mgmt := { s.mgmt with watts := w } }
  else .next { v.2 with mgmt := { v.2.mgmt with watts := w, gated := if cap < w then 1 + v.1.toNat % 192 else v.1.toNat % 193 } }

/-- What outlives the loss of the compute dies' power: the schedule, host memory, the chip's name, the messages sent. -/
def State.unpowered (s : State) : State :=
  { State.reset with
    sched := { State.reset.sched with agenda := s.sched.agenda, fresh := s.sched.fresh, nextId := s.sched.nextId }
    mem := s.mem.filter (fun c => decide (2 ^ 56 ≤ c.1) && decide (c.1 < 2 ^ 57))
    pod := { State.reset.pod with chipId := s.pod.chipId }
    out := s.out }

/-- A trip (R362): an entry of KIND 5; the compute dies lose power, the controller holds the part in Stage A. -/
def State.trip (s : State) (place : Nat) : State :=
  let s := s.faultEntry Ft.power 0 place 0
  { s.unpowered with mgmt := { s.mgmt with stage := 1, stageDPending := false, tripped := true } }

/-- CORE_CURRENT_TRIP. -/
def execCoreCurrentTrip (s : State) : Out := whenEnabled "CORE_CURRENT_TRIP" (!s.mgmt.tripped) (s.trip 0)

/-- TEMPERATURE_TRIP of a die. -/
def execTemperatureTrip (a : Nat) (s : State) : Out := whenEnabled "TEMPERATURE_TRIP" (!s.mgmt.tripped) (s.trip a)

/-- The part starts again in Stage A; the fused rollback counter stays (R356). -/
def State.restart (s : State) : State :=
  { s.unpowered with mgmt := { State.reset.mgmt with rollback := s.mgmt.rollback, romDigest := s.mgmt.romDigest } }

/-- POWER_GOOD (R355). -/
def execPowerGood (s : State) : Out := .next s.restart

/-- HOST_RESET (R362). -/
def execHostReset (s : State) : Out := .next s.restart

/-! ### Stages (R355, R356) -/

def State.stageFails (s : State) (code stage : Nat) : State :=
  { s with mgmt := { s.mgmt with failCode := code, failStage := stage } }

/-- Whether a firmware image is acceptable (R356): its layout, and its public key, which hashes to the digest in the ROM; `sigOk` says
whether the signature in bytes 1,328 to 3,747 verifies under that key. -/
def imageOk (rom img : List Byte) (sigOk : Bool) : Bool :=
  sigOk && decide (4096 ≤ img.length) && decide (sha3 ((img.drop 16).take 1312) = rom) && decide (leNat (img.take 4) = 0x5A455046)
    && decide (leNat ((img.drop 8).take 8) = img.length - 4096) && ((img.drop 3748).take 348).all (· = 0)

/-- STAGE_B (R355, R356): firmware, then HBM trained and scrubbed to zero. -/
def execStageB (a : List Byte) (b c : Bool) (s : State) : Out :=
  let version := leNat ((a.drop 4).take 4)
  whenEnabled "STAGE_B" (s.mgmt.stage = 1 && !s.mgmt.tripped)
    (if !imageOk s.mgmt.romDigest a b then s.stageFails 1 2
     else if version < s.mgmt.rollback then s.stageFails 2 2
     else
       let s := { s with mgmt := { s.mgmt with rollback := version } }
       if !c then s.stageFails 3 2
       else { s with
         mem := s.mem.filter (fun x => decide (2 ^ 39 ≤ x.1))
         mgmt := { s.mgmt with stage := 2, failCode := 0, failStage := 0, firmware := sha3 a } })

/-- A port at the end of its training. -/
def Port.trained (gtc p : Nat) : Port := ⟨true, gtc, gtc, 0, 0, Config.portFast p⟩

/-- A guest's site at Stage C (R337, R338): `g` is the number of its queues less 1 when its chain verifies. -/
def State.attestSite (s : State) (i : Nat) (g : Option Nat) : State :=
  match g with
  | some q => s.attested i q
  | none => s.setSite i { s.site i with attested := false, isolated := false, cause := 0 }

/-- STAGE_C (R317, R322, R337, R355): cores and ports that fail are fenced. -/
def execStageC (a b : List Nat) (c d : Option Nat) (s : State) : Out :=
  let bc := (a.filter (· < 256)).dedup
  let bp := (b.filter (· < 48)).dedup
  let s1 : State := { s with
    eng := { s.eng with fenced := bc }
    pod := { s.pod with ports := (List.range 48).map (fun p =>
      (p, some (if bp.contains p then { Port.trained s.sched.gtc p with up := false } else Port.trained s.sched.gtc p))) }
    mgmt := { s.mgmt with
      stage := 3
      badPorts := bp
      failCode := if bc ≠ [] ∨ bp ≠ [] then 4 else if c.isNone ∨ d.isNone then 5 else 0
      failStage := if bc ≠ [] ∨ bp ≠ [] ∨ c.isNone ∨ d.isNone then 3 else 0 } }
  let s2 := bc.foldl (fun s x => s.faultEntry Ft.fence 1 x 0) ((s1.attestSite 0 c).attestSite 1 d)
  whenEnabled "STAGE_C" (s.mgmt.stage = 2 && !s.mgmt.tripped) (bp.foldl (fun s x => s.faultEntry Ft.fence 3 x 0) s2)

/-- STAGE_D (R330, R355, R358): after quiet, the time locked and a key agreed for every port; a failure leaves the chip in C. -/
def execStageD (a : Bool) (s : State) : Out :=
  if a then
    whenEnabled "STAGE_D" (s.mgmt.stage = 3 && s.mgmt.stageDPending && s.quiet && s.pod.locked)
      ((slist s.pod.ports).foldl (fun s p => if p.2.up then s.rekey p.1 else s)
        { s with mgmt := { s.mgmt with stage := 4, stageDPending := false, failCode := 0, failStage := 0 } })
  else
    whenEnabled "STAGE_D" (s.mgmt.stage = 3 && s.mgmt.stageDPending && s.quiet)
      ({ s with mgmt := { s.mgmt with stageDPending := false } }.stageFails 4 4)

end Sys2Proof.Machine
end

