-- ==== Sys2Proof/Machine/Faults.lean ====
section
/-! DEFINITION. Error counts, lasting faults and what they fence, poison (R170, R316 to R318). -/

namespace Sys2Proof.Machine

/-! ### Fencing a core (R170, R317) -/

/-- A message of a fenced core to a home: what it writes back is merged at once; requests that write go on; the rest is treated as
answered. -/
def fencedToHome (s : State) (m : Msg) : State :=
  match m.body with
  | .recallAnswer _ cells ops => ops.foldl (fun s o => s.finishOp o) (mergeBack s m.sector cells)
  | .publishAnswer cells ops => ops.foldl (fun s o => s.finishOp o) (mergeBack s m.sector cells)
  | .publishWriteBack cells ops => ops.foldl (fun s o => s.finishOp o) (mergeBack s m.sector cells)
  | .evictionWriteBack cells ops => ops.foldl (fun s o => s.finishOp o) (mergeBack s m.sector cells)
  | _ => s

/-- A message from a home to a fenced core: an acknowledgement ends its operation. -/
def fencedToCore (s : State) (m : Msg) : State :=
  match m.body with
  | .ack op => s.finishOp op
  | _ => s

/-- Whether a message is a write or an atomic on its way to a home or bank. -/
def MsgBody.goesOn : MsgBody → Bool
  | .req (.write ..) => true
  | .req (.atomic ..) => true
  | .stmCopy .. => true
  | _ => false

/-- The messages of a core settle, in order. -/
def State.settleNet (s : State) (c : Nat) : State :=
  let mine := s.coh.net.filter (fun m => m.core = c && !(m.toHome && m.body.goesOn))
  let s := { s with coh := { s.coh with net := s.coh.net.filter (fun m => m.core ≠ c || (m.toHome && m.body.goesOn)) } }
  mine.foldl (fun s m => if m.toHome then fencedToHome s m else fencedToCore s m) s

def State.poisonSector (s : State) (sec : Nat) : State :=
  { s with coh := { s.coh with poison := sset false s.coh.poison sec true } }

/-- A poisoned sector is entered in the fault table. -/
def State.enterPoison (s : State) (unit sec : Nat) : State := (s.poisonSector sec).faultEntry Ft.poison unit (sec * 64) 64

/-- The M sectors of a core are written back; those of `unread` cannot be and are poisoned at their homes. -/
def State.salvage (s : State) (c : Nat) (unread : List Nat) : State :=
  ((slist s.coh.l1).filter (fun x => x.1 % 256 = c)).foldl (fun s x =>
    let sec := x.1 / 256
    let s := if x.2.st = .m then
        (if unread.contains sec then (if s.poisoned sec then s else s.enterPoison 1 sec) else mergeBack s sec (dirtyCells sec x.2))
      else s
    s.setL1 c sec none) s

/-- A core leaves a home's entry: it shares, owns and holds nothing there, and its requests for copies are withdrawn. -/
def State.leaveHome (s : State) (c sec : Nat) : State :=
  let d := s.dirEnt sec
  let keep := fun (r : HomeReq) => !(decide (r.src = .core c) && (r.body.isRead || r.body.isOwn))
  let s := s.setDir sec { d.without c with
    queue := d.queue.filter keep
    pubWait := d.pubWait.filter keep
    acqWait := d.acqWait.filter keep }
  let s := ownerGone s sec c
  (holderGone s ⟨0, true, c, sec, .forcedAnswer, []⟩).serveAll sec

/-- The operations that wait for ownership of a core. -/
def ownedOps (s : State) (c : Nat) : List Nat :=
  ((slist s.coh.owns).filter (fun x => x.1 % 256 = c)).flatMap (fun x => x.2.filterMap OwnAct.opOf)

/-- A launch ends because its core is fenced (R317): an abort record with trap code SOFT; CODE 3, or 7 when it was suspended. The
record's TRAPPC, the source number in its TRAPINFO and which team and arm it names are open, and so free (log 67). -/
def State.fenceLaunch (s : State) (lid c code : Nat) : State :=
  let pc := s.freeWord
  let src := pc.2.freeWord
  let who := src.2.freeWord
  let ts := ((s.teamsOf lid).map (·.2)).filter (fun t => t.geom.core = c)
  let g : TeamGeom := ((ts[who.1.toNat % ts.length]?).map (·.geom)).getD
    ⟨lid, c, fld who.1 0 4, fld who.1 4 4, 0, 0, 0, 0, 0, 0⟩
  (who.2.abortLaunch false Code.soft pc.1 (BitVec.ofNat 64 (2 ^ 63 + fld src.1 0 16)) g (who.1.getLsbD 8)).modLaunch lid
    (fun l => { l with status := .aborting code s.sched.gtc })

/-- The launches that a fenced core ends, with their codes. -/
def fencedLaunches (s : State) (c : Nat) : List (Nat × Nat) :=
  (slist s.alloc.launches).filterMap (fun x =>
    match x.2.status with
    | .suspended => if x.2.covers c then some (x.1, 7) else none
    | _ => if (s.teamsOf x.1).any (fun t => t.2.geom.core = c) then some (x.1, 3) else none)

/-- A core is fenced. -/
def State.fenceCore (s : State) (c : Nat) (unread : List Nat) : State :=
  if s.eng.fenced.contains c then s
  else
    let s := ({ s with eng := { s.eng with fenced := c :: s.eng.fenced } }).faultEntry Ft.fence 1 c 0
    let s := (s.settleNet c).salvage c unread
    let ops := ownedOps s c
    let s := { s with coh := { s.coh with owns := s.coh.owns.filter (fun x => x.1 % 256 ≠ c) } }
    let s := ops.foldl (fun s o => s.finishOp o) s
    let s := (fencedLaunches s c).foldl (fun s x => s.fenceLaunch x.1 c x.2) s
    ((slist s.coh.dir).map Prod.fst).foldl (fun s sec => s.leaveHome c sec) s

/-! ### Lasting faults (R316, R317) -/

/-- Unit classes, by the rows of R317. -/
def errUnit : ErrSource → Nat
  | .datapath .. => 1
  | .registerFile .. => 1
  | .l1 _ => 1
  | .scratchBank .. => 1
  | .macArray _ => 1
  | .uniformPipe _ => 1
  | .hbm _ => 2
  | .l2Data _ => 2
  | .portLane .. => 3
  | .combLane _ => 4
  | .l2Slice _ => 5
  | .galleryBank _ => 5
  | .bridge => 5
  | .atrium _ => 5
  | .gtc => 5

/-- A 128 KiB page is reported poisoned. -/
def State.poisonPage (s : State) (page : Nat) : State :=
  ((List.range 2048).foldl (fun s i => s.poisonSector (page * 2048 + i)) s).faultEntry Ft.poison 2 (page * 2 ^ 17) (2 ^ 17)

/-- A port goes down and routes avoid it. -/
def State.fencePort (s : State) (p : Nat) : State :=
  ({ s with mgmt := { s.mgmt with badPorts := (p :: s.mgmt.badPorts).dedup } }.dropPortLink p).faultEntry Ft.fence 3 p 0

/-- The chip stops answering. -/
def State.fenceChip (s : State) : State :=
  ({ s with pod := { s.pod with answering := false } }).faultEntry Ft.fence 5 s.self 0

/-- The unit of a source is fenced. `unread` are sectors that the error has made unreadable. -/
def State.fenceUnit (s : State) (src : ErrSource) (unread : List Nat) : State :=
  match src with
  | .datapath c _ => s.fenceCore c unread
  | .registerFile c _ => s.fenceCore c unread
  | .l1 c => s.fenceCore c unread
  | .scratchBank c _ => s.fenceCore c unread
  | .macArray c => s.fenceCore c unread
  | .uniformPipe c => s.fenceCore c unread
  | .hbm p => s.poisonPage p
  | .l2Data p => s.poisonPage p
  | .portLane p _ => s.fencePort p
  | .combLane l => s.faultEntry Ft.fence 4 l 0
  | .l2Slice _ => s.fenceChip
  | .galleryBank _ => s.fenceChip
  | .bridge => s.fenceChip
  | .atrium _ => s.fenceChip
  | .gtc => s.fenceChip

/-- The window of the GTC. -/
def State.errWindow (s : State) : Nat := s.sched.gtc / 2 ^ 30

/-- Events a source has counted in the present window. -/
def State.errCount (s : State) (src : ErrSource) : Nat :=
  if s.mgmt.window = s.errWindow then ((s.mgmt.errors.find? (fun e => e.1 = src)).map (·.2)).getD 0 else 0

/-- A source counts one event. -/
def State.countError (s : State) (src : ErrSource) : State :=
  let rest := if s.mgmt.window = s.errWindow then s.mgmt.errors.filter (fun e => e.1 ≠ src) else []
  { s with mgmt := { s.mgmt with errors := (src, s.errCount src + 1) :: rest, window := s.errWindow } }

/-- An event of a source: at the threshold the fault is declared lasting, once. -/
def State.errorEvent (s : State) (src : ErrSource) (unread : List Nat) : State :=
  let n := s.errCount src + 1
  let s := s.countError src
  if fld (s.bar0 0x300040) 0 4 ≤ n ∧ !s.mgmt.lasting.contains src then
    ({ s with mgmt := { s.mgmt with lasting := src :: s.mgmt.lasting } }).fenceUnit src unread
  else s

/-- CORRECTED_ERROR (R316). -/
def execCorrectedError (a : ErrSource) (s : State) : Out :=
  whenEnabled "CORRECTED_ERROR" (decide (2 ≤ s.mgmt.stage)) (s.errorEvent a [])

/-- UNCORRECTED_ERROR (R316, R318): the sectors it covers are poisoned and entered; it counts as one event. -/
def execUncorrectedError (a : ErrSource) (b : List Nat) (s : State) : Out :=
  whenEnabled "UNCORRECTED_ERROR" (decide (2 ≤ s.mgmt.stage))
    ((b.foldl (fun s sec => s.enterPoison (errUnit a) sec) s).errorEvent a b)

/-- ERROR_WINDOW_ROLL (R316). -/
def execErrorWindowRoll (s : State) : Out :=
  whenEnabled "ERROR_WINDOW_ROLL" (decide (s.mgmt.window < s.errWindow))
    { s with mgmt := { s.mgmt with errors := [], window := s.errWindow } }

end Sys2Proof.Machine
end

