-- ==== Sys2Proof/Machine/LaneFloat.lean ====
section
/-! DEFINITION. Lane floating-point and conversion instructions (R183 to R203). -/

namespace Sys2Proof.Machine

/-- A lane float form: `n` elements of width `w` of vd, element e from the operands by `g`, under the lane's environment;
RSR draws follow R184. -/
def laneFloat (i : Instr) (pg : BitVec 3) (vd : BitVec 6) (vr : List (Nat × Bool)) (o : Option Rm) (w n : Nat)
    (g : FEnv → (Nat → Word) → Nat → Nat → FRes) (s : State) : Out :=
  issueUnit i { pg := some pg.toNat, vw := [vd.toNat], vr := vr } s (fun k s =>
    .done (s.setTeam k.tid { k.t with lanes := mapLanes k.ex (fun L x =>
      let v := x.env.over o
      x.float vd.toNat w n (v.rm = .rsr) (g v (k.src L x))) 0 k.t.lanes }))

/-- Elements of a format in a lane (R183). -/
def fEls (c : FF) : Nat := 64 / c.bits

/-- A two-source LR form on elements of ty. -/
def floatBin (i : Instr) (f : FR) (g : FEnv → Nat → Nat → Nat → FRes) (s : State) : Out :=
  laneFloat i f.pg f.vd [(f.va.toNat, f.ta), (f.vb.toNat, f.tb)] none f.ty.bits (fEls f.ty) (fun v r e X =>
    g v X (elem f.ty.bits (r f.va.toNat) e) (elem f.ty.bits (r f.vb.toNat) e)) s

/-- An LU form on elements of ty. -/
def floatUn (i : Instr) (f : FU) (g : FEnv → Nat → Nat → FRes) (s : State) : Out :=
  laneFloat i f.pg f.vd [(f.va.toNat, f.ta)] none f.ty.bits (fEls f.ty) (fun v r e X =>
    g v X (elem f.ty.bits (r f.va.toNat) e)) s

/-- FADD (R188). -/
def execFadd (f : FR) (s : State) : Out :=
  floatBin (.fadd f) f (fAdd f.ty.fmt) s

/-- FSUB (R188). -/
def execFsub (f : FR) (s : State) : Out :=
  floatBin (.fsub f) f (fSub f.ty.fmt) s

/-- FMUL (R188). -/
def execFmul (f : FR) (s : State) : Out :=
  floatBin (.fmul f) f (fMul f.ty.fmt) s

/-- FDIV (R188). -/
def execFdiv (f : FR) (s : State) : Out :=
  floatBin (.fdiv f) f (fDiv f.ty.fmt) s

/-- FSCL (R191). -/
def execFscl (f : FR) (s : State) : Out :=
  floatBin (.fscl f) f (fScl f.ty.fmt) s

/-- FMIN (R189). -/
def execFmin (f : FR) (s : State) : Out :=
  floatBin (.fmin f) f (fun v _ a b => fMinMax false f.ty.fmt v.daz a b) s

/-- FMAX (R189). -/
def execFmax (f : FR) (s : State) : Out :=
  floatBin (.fmax f) f (fun v _ a b => fMinMax true f.ty.fmt v.daz a b) s

/-- FFMA: vd is also a source (R188). -/
def execFfma (f : FR) (s : State) : Out :=
  laneFloat (.ffma f) f.pg f.vd [(f.va.toNat, f.ta), (f.vb.toNat, f.tb), (f.vd.toNat, false)] none f.ty.bits (fEls f.ty)
    (fun v r e X => fFma f.ty.fmt v X (elem f.ty.bits (r f.va.toNat) e) (elem f.ty.bits (r f.vb.toNat) e)
      (elem f.ty.bits (r f.vd.toNat) e)) s

/-- The 16-bit format of FDOT and FCVTR (R17). -/
def hrFmt (f : HR) : Fmt := if f.bf then BF16 else F16

/-- FDOT: vd is also a source (R190). -/
def execFdot (f : HR) (s : State) : Out :=
  laneFloat (.fdot f) f.pg f.vd [(f.va.toNat, f.ta), (f.vb.toNat, f.tb), (f.vd.toNat, false)] none 32 2
    (fun v r e X => fDot (hrFmt f) v X (elem 16 (r f.va.toNat) (2 * e)) (elem 16 (r f.vb.toNat) (2 * e))
      (elem 16 (r f.va.toNat) (2 * e + 1)) (elem 16 (r f.vb.toNat) (2 * e + 1)) (elem 32 (r f.vd.toNat) e)) s

/-- SQRT (R192). -/
def execSqrt (f : FU) (s : State) : Out :=
  floatUn (.sqrt f) f (fSqrt f.ty.fmt) s

/-- RCP (R192). -/
def execRcp (f : FU) (s : State) : Out :=
  floatUn (.rcp f) f (fRcp f.ty.fmt) s

/-- RSQ (R192). -/
def execRsq (f : FU) (s : State) : Out :=
  floatUn (.rsq f) f (fun v _ a => fRsq f.ty v a) s

/-- EXP2 (R192). -/
def execExp2 (f : FU) (s : State) : Out :=
  floatUn (.exp2 f) f (fun v _ a => fExp2 f.ty v a) s

/-- LOG2 (R192). -/
def execLog2 (f : FU) (s : State) : Out :=
  floatUn (.log2 f) f (fun v _ a => fLog2 f.ty v a) s

/-- SIN (R192). -/
def execSin (f : FU) (s : State) : Out :=
  floatUn (.sin f) f (fun v _ a => fSin f.ty v a) s

/-- COS (R192). -/
def execCos (f : FU) (s : State) : Out :=
  floatUn (.cos f) f (fun v _ a => fCos f.ty v a) s

/-- TANH (R192). -/
def execTanh (f : FU) (s : State) : Out :=
  floatUn (.tanh f) f (fun v _ a => fTanh f.ty v a) s

/-- FABS: no flag, no draw (R193). -/
def execFabs (f : FU) (s : State) : Out :=
  laneUn (.fabs f) f.pg f.vd f.va f.ta (ew1 f.ty.bits (fAbs f.ty.fmt)) s

/-- FNEG: no flag, no draw (R193). -/
def execFneg (f : FU) (s : State) : Out :=
  laneUn (.fneg f) f.pg f.vd f.va f.ta (ew1 f.ty.bits (fNeg f.ty.fmt)) s

/-- FCLASS: no flag, no draw (R193). -/
def execFclass (f : FU) (s : State) : Out :=
  laneUn (.fclass f) f.pg f.vd f.va f.ta (ew1 f.ty.bits (fClass f.ty.fmt)) s

/-- FCMP: element 0, flags in the lane (R194). -/
def execFcmp (f : FC) (s : State) : Out :=
  issueUnit (.fcmp f) { pg := some f.pg.toNat, badPred := f.pd = 0, vr := [(f.va.toNat, false), (f.vb.toNat, false)] } s
    (fun k s => .done (s.setTeam k.tid { k.t with lanes := mapLanes k.ex (fun L x =>
      let r := fCmp f.ty.fmt x.env.daz f.cc (elem f.ty.bits (k.src L x f.va.toNat) 0)
        (elem f.ty.bits (k.src L x f.vb.toNat) 0)
      (x.setPred f.pd.toNat (combine f.cmb (x.pred f.pd.toNat) r.1)).raise r.2) 0 k.t.lanes }))

/-- Converted elements per lane (R195). -/
def cvtEls (ws wd : Nat) : Nat := 64 / max ws wd

/-- FCVT (R196). -/
def execFcvt (f : LCvt) (s : State) : Out :=
  laneFloat (.fcvt f) f.pg f.vd [(f.va.toNat, f.ta)] f.rm f.dst.bits (cvtEls f.src.bits f.dst.bits) (fun v r e X =>
    fCvt f.src.fmt f.dst.fmt v X (elem f.src.bits (r f.va.toNat) e)) s

/-- FCVTN: both elements of one lane share a micro-exponent (R200, R201). -/
def execFcvtn (f : LN) (s : State) : Out :=
  issueUnit (.fcvtn f) { pg := some f.pg.toNat, vw := [f.vd.toNat], vr := [(f.va.toNat, false), (f.vb.toNat, false)] } s
    (fun k s => .done (s.setTeam k.tid { k.t with lanes := mapLanes k.ex (fun L x =>
      let r := fcvtnLane f.nf x.env x.gen (k.src L x f.va.toNat) (k.src L x f.vb.toNat)
      { (x.setReg f.vd.toNat r.1).raise r.2.1 with gen := r.2.2 }) 0 k.t.lanes }))

/-- FCVTW (R202). -/
def execFcvtw (f : LW) (s : State) : Out :=
  laneFloat (.fcvtw f) f.pg f.vd [(f.va.toNat, f.ta)] none f.ty.bits (if f.ty = .f64 then 1 else 2) (fun v r e X =>
    fCvtW f.nf f.ty.fmt v X (bitsOf (r f.va.toNat).toNat 16 1) (elem 8 (r f.va.toNat) e)) s

/-- FCVTR (R203): the random field of each element comes from vb. -/
def execFcvtr (f : HR) (s : State) : Out :=
  laneFloat (.fcvtr f) f.pg f.vd [(f.va.toNat, f.ta), (f.vb.toNat, f.tb)] none 16 2 (fun v r e _ =>
    let b := (r f.vb.toNat).toNat
    let k := if 28 < bitsOf b 56 8 then 28 else bitsOf b 56 8
    fCvtR (hrFmt f) v k (if e = 0 then b % 2 ^ k else bitsOf b 28 k) (elem 32 (r f.va.toNat) e)) s

/-- FCVTI (R197). -/
def execFcvti (f : LCvtI) (s : State) : Out :=
  laneFloat (.fcvti f) f.pg f.vd [(f.va.toNat, f.ta)] f.rm f.iw.bits (cvtEls f.ff.bits f.iw.bits) (fun v r e X =>
    fCvtI f.ff.fmt v X f.uns f.iw.bits (elem f.ff.bits (r f.va.toNat) e)) s

/-- ICVTF (R198). -/
def execIcvtf (f : LCvtI) (s : State) : Out :=
  laneFloat (.icvtf f) f.pg f.vd [(f.va.toNat, f.ta)] f.rm f.ff.bits (cvtEls f.iw.bits f.ff.bits) (fun v r e X =>
    iCvtF f.ff.fmt v X f.uns f.iw.bits (elem f.iw.bits (r f.va.toNat) e)) s

/-- ICVT (R199). -/
def execIcvt (f : LICvt) (s : State) : Out :=
  laneUn (.icvt f) f.pg f.vd f.va f.ta (fun a => BitVec.ofNat 64 (packNat f.dst.bits (fun e =>
    iCvt f.sat f.sgn f.src.bits f.dst.bits (elem f.src.bits a e)) (cvtEls f.src.bits f.dst.bits))) s

end Sys2Proof.Machine
end

