-- ==== Sys2Proof/Machine/Moves.lean ====
section
/-! DEFINITION. Moves between lanes and the uniform side, cross-lane reads, reductions and scans (R58, R59, R204 to R209). -/

namespace Sys2Proof.Machine

/-- BCAST (R58): the source is a g register. -/
def execBcast (f : LMv) (s : State) : Out :=
  issueUnit (.bcast f) { pg := some f.pg.toNat, vw := [f.rd.toNat], gr := [(f.ra.toNat, f.ta)] } s (fun k s =>
    writeLanes k s f.rd.toNat (fun _ _ => k.t.greg f.ra.toNat))

/-- The lowest lane of a mask. -/
def lowestLane (k : Ctx) : Option Nat := (lanesOf k.ex k.t.geom.lanes).head?

/-- GETL (R58, R59). -/
def execGetl (f : LMv) (s : State) : Out :=
  issueUnit (.getl f) { pg := some f.pg.toNat, gw := [f.rd.toNat], vr := [(f.ra.toNat, f.ta)] } s (fun k s =>
    match lowestLane k with
    | none => .done (s.setTeam k.tid k.t.setNolane)
    | some L => writeG k s f.rd.toNat (k.src L (k.t.lane L) f.ra.toNat))

/-- A vote over the executing lanes; without one NOLANE is set (R59). -/
def noteNolane (k : Ctx) (t : Team) : Team := if k.ex = 0 then t.setNolane else t

/-- The executing lanes in which a predicate is true. -/
def voters (k : Ctx) (p : Nat) : List Nat := (lanesOf k.ex k.t.geom.lanes).filter (fun L => (k.t.lane L).pred p)

/-- VOTE.ANY (R58, R59). -/
def execVoteAny (f : LVote) (s : State) : Out :=
  issueUnit (.voteAny f) { pg := some f.pg.toNat, badPred := f.qd = 0 } s (fun k s =>
    .done (s.setTeam k.tid (noteNolane k (k.t.setQ f.qd.toNat (decide (voters k f.pa.toNat ≠ []))))))

/-- VOTE.ALL (R58, R59). -/
def execVoteAll (f : LVote) (s : State) : Out :=
  issueUnit (.voteAll f) { pg := some f.pg.toNat, badPred := f.qd = 0 } s (fun k s =>
    .done (s.setTeam k.tid (noteNolane k (k.t.setQ f.qd.toNat
      (decide ((voters k f.pa.toNat).length = countLanes k.ex k.t.geom.lanes))))))

/-- VOTE.CNT (R58, R59). -/
def execVoteCnt (f : LVoteC) (s : State) : Out :=
  issueUnit (.voteCnt f) { pg := some f.pg.toNat, gw := [f.gd.toNat] } s (fun k s =>
    .done (s.setTeam k.tid (noteNolane k (k.t.setG f.gd.toNat (BitVec.ofNat 64 (voters k f.pa.toNat).length)))))

/-- LANEIX (R58). -/
def execLaneix (pg : BitVec 3) (vd : BitVec 6) (s : State) : Out :=
  issueUnit (.laneix pg vd) { pg := some pg.toNat, vw := [vd.toNat] } s (fun k s =>
    writeLanes k s vd.toNat (fun L _ => BitVec.ofNat 64 L))

/-- The highest lane of an ascending list that is at most S. -/
def lastAtMost (S : Nat) : List Nat → Option Nat
  | [] => none
  | L :: r => if L ≤ S then (match lastAtMost S r with | some x => some x | none => some L) else none

/-- Element i of a register at width w under R204: the source lane itself, else the highest source lane below. -/
def crossRead (k : Ctx) (w : Nat) (va i : Nat) : Option Nat :=
  if k.t.geom.lanes ≤ i / (64 / w) then none
  else
    (lastAtMost (i / (64 / w)) (lanesOf k.ex k.t.geom.lanes)).map
      (fun L => elem w (k.src L (k.t.lane L) va) (i % (64 / w)))

/-- The XLANE forms (R205); `idx j n` is the element read, none when it lies below 0. -/
def crossLane (i : Instr) (f : LF) (idx : Nat → Nat → Option Nat) (s : State) : Out :=
  issueUnit i { pg := some f.pg.toNat, vw := [f.vd.toNat], vr := [(f.va.toNat, false), (f.vb.toNat, false)] } s (fun k s =>
    let w := f.ty.bits
    writeLanes k s f.vd.toNat (fun L x => pack w (fun e =>
      match (idx (L * (64 / w) + e) (elem w (k.src L x f.vb.toNat) e)).bind (crossRead k w f.va.toNat) with
      | some y => y
      | none => elem w (x.reg f.vd.toNat) e)))

/-- SHFL (R205). -/
def execShfl (f : LF) (s : State) : Out := crossLane (.shfl f) f (fun _ n => some n) s
/-- SHUP (R205). -/
def execShup (f : LF) (s : State) : Out := crossLane (.shup f) f (fun j n => if n ≤ j then some (j - n) else none) s
/-- SHDN (R205). -/
def execShdn (f : LF) (s : State) : Out := crossLane (.shdn f) f (fun j n => some (j + n)) s
/-- SHXOR (R205). -/
def execShxor (f : LF) (s : State) : Out := crossLane (.shxor f) f (fun j n => some (j ^^^ n)) s

/-! ### Reductions -/

/-- Width of the elements of a reduction (R206): ty is a width for the integer ops, a format for the float ones. -/
def redFF (ty : BitVec 2) : FF := if ty = 0 then .f64 else if ty = 1 then .f32 else if ty = 2 then .f16 else .bf16
def redIW (ty : BitVec 2) : IW := if ty = 0 then .w64 else if ty = 1 then .w32 else if ty = 2 then .w16 else .w8
def redIsFloat : RedOp → Bool
  | .fadd => true
  | .fmin => true
  | .fmax => true
  | _ => false
def redW (op : RedOp) (ty : BitVec 2) : Nat := if redIsFloat op then (redFF ty).bits else (redIW ty).bits

/-- The identity of an op (R208). -/
def redId (op : RedOp) (ty : BitVec 2) : Nat :=
  let w := redW op ty
  match op with
  | .add => 0
  | .or => 0
  | .xor => 0
  | .maxn => 0
  | .and => 2 ^ w - 1
  | .minn => 2 ^ w - 1
  | .min => 2 ^ (w - 1) - 1
  | .max => 2 ^ (w - 1)
  | .fadd => (redFF ty).fmt.sign true
  | .fmin => (redFF ty).fmt.inf
  | .fmax => (redFF ty).fmt.sign true + (redFF ty).fmt.inf

/-- x ⊕ y with its flags; RSR counts as RNE (R206). -/
def redOp (op : RedOp) (ty : BitVec 2) (v : FEnv) (x y : Nat) : Nat × Nat :=
  let w := redW op ty
  let f := (redFF ty).fmt
  match op with
  | .add => (iadd w x y, 0)
  | .min => (imin w x y, 0)
  | .max => (imax w x y, 0)
  | .minn => (iminn x y, 0)
  | .maxn => (imaxn x y, 0)
  | .and => (x &&& y, 0)
  | .or => (x ||| y, 0)
  | .xor => (x ^^^ y, 0)
  | .fadd => let r := fAdd f { v with rm := if v.rm = .rsr then .rne else v.rm } 0 x y; (r.bits, r.fl)
  | .fmin => let r := fMinMax false f v.daz x y; (r.bits, r.fl)
  | .fmax => let r := fMinMax true f v.daz x y; (r.bits, r.fl)

/-- Half of the tree's split (R206): 2^(⌈log2 n⌉ − 1). -/
def treeHalf (n : Nat) : Nat := 2 ^ (if 2 ^ Nat.log2 n = n then Nat.log2 n - 1 else Nat.log2 n)

/-- The fixed tree S over a list, by depth (R206). -/
def treeRed (f : Nat → Nat → Nat × Nat) : Nat → List Nat → Nat × Nat
  | 0, xs => (xs.headD 0, 0)
  | d + 1, xs =>
    if xs.length ≤ 1 then (xs.headD 0, 0)
    else
      let h := treeHalf xs.length
      let l := treeRed f d (xs.take h)
      let r := treeRed f d (xs.drop h)
      let y := f l.1 r.1
      (y.1, l.2 ||| r.2 ||| y.2)

/-- A single source element as a float op gives it: read after DAZ, a NaN canonical, with its flags (R185, R186, R189). -/
def redOne (op : RedOp) (ty : BitVec 2) (v : FEnv) (x : Nat) : Nat × Nat :=
  let f := (redFF ty).fmt
  let one : Nat × Nat := match unpack f v.daz x with
    | .nan s => (f.qnan, Fl.nf + (if s then Fl.iv else 0))
    | .inf _ => (x, Fl.nf)
    | .fin .. => (readDaz f v.daz x, 0)
  match op with
  | .fadd => one
  | .fmin => one
  | .fmax => one
  | _ => (x, 0)

/-- The reduction of a list of elements, with its flags (R206). -/
def reduceAll (op : RedOp) (ty : BitVec 2) (v : FEnv) (xs : List Nat) : Nat × Nat :=
  match xs with
  | [x] => redOne op ty v x
  | _ => treeRed (redOp op ty v) 16 xs

/-- The source elements in ascending index. -/
def redElems (k : Ctx) (w va : Nat) : List Nat :=
  (lanesOf k.ex k.t.geom.lanes).flatMap (fun L => (List.range (64 / w)).map (fun e => elem w (k.src L (k.t.lane L) va) e))

/-- XRED (R206, R208): the flags land in the lowest source lane. -/
def execXred (f : LX) (s : State) : Out :=
  issueUnit (.xred f) { pg := some f.pg.toNat, gw := [f.vd.toNat], vr := [(f.va.toNat, f.ta)] } s (fun k s =>
    match lowestLane k with
    | none => .done (s.setTeam k.tid ((k.t.setG f.vd.toNat (BitVec.ofNat 64 (redId f.op f.ty))).setNolane))
    | some L0 =>
      let r := reduceAll f.op f.ty (k.t.lane L0).env (redElems k (redW f.op f.ty) f.va.toNat)
      let t := k.t.setG f.vd.toNat (BitVec.ofNat 64 (r.1 % 2 ^ redW f.op f.ty))
      .done (s.setTeam k.tid { t with lanes := mapLanes ((1 : LaneMask) <<< L0) (fun _ x => x.raise r.2) 0 t.lanes }))

/-- The elements 0 to n - 1 of one lane of a scan from prefix `p`: written elements, flags, the next prefix. The flags of
P_j are those of the lane that holds x_j, the last prefix's too (R207; for the exclusive form DEDUCED, log 18). -/
def scanLane (op : Nat → Nat → Nat × Nat) (w : Nat) (ex : Bool) (x : Word) (p : Nat) : Nat → Nat × Nat × Nat
  | 0 => (0, 0, p)
  | n + 1 =>
    let a := scanLane op w ex x p n
    let y := op a.2.2 (elem w x n)
    (a.1 + (if ex then a.2.2 else y.1) % 2 ^ w * 2 ^ (w * n),
      a.2.1 ||| y.2, y.1)

/-- The lanes of a scan in ascending order. -/
def scanLanes (k : Ctx) (f : LXS) : List Nat → Nat → List Lane → List Lane
  | [], _, ls => ls
  | L :: r, p, ls =>
    let w := redW f.op f.ty
    let x := k.t.lane L
    let a := scanLane (redOp f.op f.ty x.env) w f.ex (k.src L x f.va.toNat) p (64 / w)
    scanLanes k f r a.2.2
      (mapLanes ((1 : LaneMask) <<< L) (fun _ y => (y.setReg f.vd.toNat (BitVec.ofNat 64 a.1)).raise a.2.1) 0 ls)

/-- XSCAN (R207, R208). -/
def execXscan (f : LXS) (s : State) : Out :=
  issueUnit (.xscan f) { pg := some f.pg.toNat, vw := [f.vd.toNat], vr := [(f.va.toNat, f.ta)] } s (fun k s =>
    if k.ex = 0 then .done (s.setTeam k.tid k.t.setNolane)
    else .done (s.setTeam k.tid { k.t with
      lanes := scanLanes k f (lanesOf k.ex k.t.geom.lanes) (redId f.op f.ty) k.t.lanes }))

end Sys2Proof.Machine
end

