-- ==== Sys2Proof/Machine/Dispatch.lean ====
section
/-! DEFINITION. One arm per constructor of Instr: the direct call of its meaning. -/

namespace Sys2Proof.Machine

def exec (i : Instr) (s : State) : Host.Outcome State Fault Refusal :=
  match i with
  | .add a => Sys2Proof.Machine.execAdd a s
  | .sub a => Sys2Proof.Machine.execSub a s
  | .mul a => Sys2Proof.Machine.execMul a s
  | .mad a => Sys2Proof.Machine.execMad a s
  | .min a => Sys2Proof.Machine.execMin a s
  | .max a => Sys2Proof.Machine.execMax a s
  | .minn a => Sys2Proof.Machine.execMinn a s
  | .maxn a => Sys2Proof.Machine.execMaxn a s
  | .and a => Sys2Proof.Machine.execAnd a s
  | .or a => Sys2Proof.Machine.execOr a s
  | .xor a => Sys2Proof.Machine.execXor a s
  | .andn a => Sys2Proof.Machine.execAndn a s
  | .shl a => Sys2Proof.Machine.execShl a s
  | .shr a => Sys2Proof.Machine.execShr a s
  | .sar a => Sys2Proof.Machine.execSar a s
  | .mulh a => Sys2Proof.Machine.execMulh a s
  | .mulhn a => Sys2Proof.Machine.execMulhn a s
  | .div a => Sys2Proof.Machine.execDiv a s
  | .divn a => Sys2Proof.Machine.execDivn a s
  | .rem a => Sys2Proof.Machine.execRem a s
  | .remn a => Sys2Proof.Machine.execRemn a s
  | .adds a => Sys2Proof.Machine.execAdds a s
  | .subs a => Sys2Proof.Machine.execSubs a s
  | .addsn a => Sys2Proof.Machine.execAddsn a s
  | .subsn a => Sys2Proof.Machine.execSubsn a s
  | .bfx a => Sys2Proof.Machine.execBfx a s
  | .bfxn a => Sys2Proof.Machine.execBfxn a s
  | .bfi a => Sys2Proof.Machine.execBfi a s
  | .prmb a => Sys2Proof.Machine.execPrmb a s
  | .abs a => Sys2Proof.Machine.execAbs a s
  | .neg a => Sys2Proof.Machine.execNeg a s
  | .not a => Sys2Proof.Machine.execNot a s
  | .popc a => Sys2Proof.Machine.execPopc a s
  | .clz a => Sys2Proof.Machine.execClz a s
  | .ctz a => Sys2Proof.Machine.execCtz a s
  | .brev a => Sys2Proof.Machine.execBrev a s
  | .sel a => Sys2Proof.Machine.execSel a s
  | .addi a => Sys2Proof.Machine.execAddi a s
  | .muli a => Sys2Proof.Machine.execMuli a s
  | .andi a => Sys2Proof.Machine.execAndi a s
  | .ori a => Sys2Proof.Machine.execOri a s
  | .xori a => Sys2Proof.Machine.execXori a s
  | .shli a => Sys2Proof.Machine.execShli a s
  | .shri a => Sys2Proof.Machine.execShri a s
  | .sari a => Sys2Proof.Machine.execSari a s
  | .movi a => Sys2Proof.Machine.execMovi a s
  | .cmp a => Sys2Proof.Machine.execCmp a s
  | .fcmp a => Sys2Proof.Machine.execFcmp a s
  | .pand a => Sys2Proof.Machine.execPand a s
  | .por a => Sys2Proof.Machine.execPor a s
  | .pxor a => Sys2Proof.Machine.execPxor a s
  | .pandn a => Sys2Proof.Machine.execPandn a s
  | .pnot a b c => Sys2Proof.Machine.execPnot a b c s
  | .pset a b => Sys2Proof.Machine.execPset a b s
  | .pclr a b => Sys2Proof.Machine.execPclr a b s
  | .fadd a => Sys2Proof.Machine.execFadd a s
  | .fsub a => Sys2Proof.Machine.execFsub a s
  | .fmul a => Sys2Proof.Machine.execFmul a s
  | .ffma a => Sys2Proof.Machine.execFfma a s
  | .fmin a => Sys2Proof.Machine.execFmin a s
  | .fmax a => Sys2Proof.Machine.execFmax a s
  | .fdiv a => Sys2Proof.Machine.execFdiv a s
  | .fdot a => Sys2Proof.Machine.execFdot a s
  | .fscl a => Sys2Proof.Machine.execFscl a s
  | .sqrt a => Sys2Proof.Machine.execSqrt a s
  | .rcp a => Sys2Proof.Machine.execRcp a s
  | .rsq a => Sys2Proof.Machine.execRsq a s
  | .exp2 a => Sys2Proof.Machine.execExp2 a s
  | .log2 a => Sys2Proof.Machine.execLog2 a s
  | .sin a => Sys2Proof.Machine.execSin a s
  | .cos a => Sys2Proof.Machine.execCos a s
  | .tanh a => Sys2Proof.Machine.execTanh a s
  | .fabs a => Sys2Proof.Machine.execFabs a s
  | .fneg a => Sys2Proof.Machine.execFneg a s
  | .fclass a => Sys2Proof.Machine.execFclass a s
  | .fcvt a => Sys2Proof.Machine.execFcvt a s
  | .fcvtn a => Sys2Proof.Machine.execFcvtn a s
  | .fcvtw a => Sys2Proof.Machine.execFcvtw a s
  | .fcvtr a => Sys2Proof.Machine.execFcvtr a s
  | .fcvti a => Sys2Proof.Machine.execFcvti a s
  | .icvtf a => Sys2Proof.Machine.execIcvtf a s
  | .icvt a => Sys2Proof.Machine.execIcvt a s
  | .shfl a => Sys2Proof.Machine.execShfl a s
  | .shup a => Sys2Proof.Machine.execShup a s
  | .shdn a => Sys2Proof.Machine.execShdn a s
  | .shxor a => Sys2Proof.Machine.execShxor a s
  | .xred a => Sys2Proof.Machine.execXred a s
  | .xscan a => Sys2Proof.Machine.execXscan a s
  | .bcast a => Sys2Proof.Machine.execBcast a s
  | .getl a => Sys2Proof.Machine.execGetl a s
  | .voteAny a => Sys2Proof.Machine.execVoteAny a s
  | .voteAll a => Sys2Proof.Machine.execVoteAll a s
  | .voteCnt a => Sys2Proof.Machine.execVoteCnt a s
  | .laneix a b => Sys2Proof.Machine.execLaneix a b s
  | .ld a => Sys2Proof.Machine.execLd a s
  | .lds a => Sys2Proof.Machine.execLds a s
  | .st a => Sys2Proof.Machine.execSt a s
  | .stm a => Sys2Proof.Machine.execStm a s
  | .atom32 a => Sys2Proof.Machine.execAtom32 a s
  | .atom64 a => Sys2Proof.Machine.execAtom64 a s
  | .ord a b c => Sys2Proof.Machine.execOrd a b c s
  | .ext a b => Sys2Proof.Machine.execExt a b s
  | .nop => Sys2Proof.Machine.execNop s
  | .gadd a => Sys2Proof.Machine.execGadd a s
  | .gsub a => Sys2Proof.Machine.execGsub a s
  | .gmul a => Sys2Proof.Machine.execGmul a s
  | .gmin a => Sys2Proof.Machine.execGmin a s
  | .gmax a => Sys2Proof.Machine.execGmax a s
  | .gminn a => Sys2Proof.Machine.execGminn a s
  | .gmaxn a => Sys2Proof.Machine.execGmaxn a s
  | .gand a => Sys2Proof.Machine.execGand a s
  | .gor a => Sys2Proof.Machine.execGor a s
  | .gxor a => Sys2Proof.Machine.execGxor a s
  | .gshl a => Sys2Proof.Machine.execGshl a s
  | .gshr a => Sys2Proof.Machine.execGshr a s
  | .gsar a => Sys2Proof.Machine.execGsar a s
  | .gmulh a => Sys2Proof.Machine.execGmulh a s
  | .gmulhn a => Sys2Proof.Machine.execGmulhn a s
  | .gdiv a => Sys2Proof.Machine.execGdiv a s
  | .gdivn a => Sys2Proof.Machine.execGdivn a s
  | .grem a => Sys2Proof.Machine.execGrem a s
  | .gremn a => Sys2Proof.Machine.execGremn a s
  | .gpopc a => Sys2Proof.Machine.execGpopc a s
  | .gclz a => Sys2Proof.Machine.execGclz a s
  | .gctz a => Sys2Proof.Machine.execGctz a s
  | .gnot a => Sys2Proof.Machine.execGnot a s
  | .gneg a => Sys2Proof.Machine.execGneg a s
  | .gaddi a => Sys2Proof.Machine.execGaddi a s
  | .gandi a => Sys2Proof.Machine.execGandi a s
  | .gori a => Sys2Proof.Machine.execGori a s
  | .gxori a => Sys2Proof.Machine.execGxori a s
  | .gshli a => Sys2Proof.Machine.execGshli a s
  | .gshri a => Sys2Proof.Machine.execGshri a s
  | .gmovi a => Sys2Proof.Machine.execGmovi a s
  | .gmovh a => Sys2Proof.Machine.execGmovh a s
  | .gcmp a => Sys2Proof.Machine.execGcmp a s
  | .qlogPand a => Sys2Proof.Machine.execQlogPand a s
  | .qlogPor a => Sys2Proof.Machine.execQlogPor a s
  | .qlogPxor a => Sys2Proof.Machine.execQlogPxor a s
  | .qlogPandn a => Sys2Proof.Machine.execQlogPandn a s
  | .qlogPnot a b c => Sys2Proof.Machine.execQlogPnot a b c s
  | .qlogPset a b => Sys2Proof.Machine.execQlogPset a b s
  | .qlogPclr a b => Sys2Proof.Machine.execQlogPclr a b s
  | .gsel a => Sys2Proof.Machine.execGsel a s
  | .bra a b c => Sys2Proof.Machine.execBra a b c s
  | .brd a b c d => Sys2Proof.Machine.execBrd a b c d s
  | .jset a b c => Sys2Proof.Machine.execJset a b c s
  | .jsetAdd a b c => Sys2Proof.Machine.execJsetAdd a b c s
  | .join a => Sys2Proof.Machine.execJoin a s
  | .call a b c => Sys2Proof.Machine.execCall a b c s
  | .ret a b => Sys2Proof.Machine.execRet a b s
  | .loop a b => Sys2Proof.Machine.execLoop a b s
  | .lbrk a => Sys2Proof.Machine.execLbrk a s
  | .brw a b c d => Sys2Proof.Machine.execBrw a b c d s
  | .exit a b => Sys2Proof.Machine.execExit a b s
  | .pause a => Sys2Proof.Machine.execPause a s
  | .pauseWatch a b c => Sys2Proof.Machine.execPauseWatch a b c s
  | .brx a b => Sys2Proof.Machine.execBrx a b s
  | .fence a b c d => Sys2Proof.Machine.execFence a b c d s
  | .barArr a => Sys2Proof.Machine.execBarArr a s
  | .barWait a b => Sys2Proof.Machine.execBarWait a b s
  | .barSync a => Sys2Proof.Machine.execBarSync a s
  | .barGang a => Sys2Proof.Machine.execBarGang a s
  | .cachePub a => Sys2Proof.Machine.execCachePub a s
  | .cacheInvl a => Sys2Proof.Machine.execCacheInvl a s
  | .cacheDrop a => Sys2Proof.Machine.execCacheDrop a s
  | .cachePref a => Sys2Proof.Machine.execCachePref a s
  | .btag a b => Sys2Proof.Machine.execBtag a b s
  | .bclose a b c => Sys2Proof.Machine.execBclose a b c s
  | .getc a b c => Sys2Proof.Machine.execGetc a b c s
  | .setc a b c => Sys2Proof.Machine.execSetc a b c s
  | .hnarrow a b => Sys2Proof.Machine.execHnarrow a b s
  | .palq a b => Sys2Proof.Machine.execPalq a b s
  | .trap a b => Sys2Proof.Machine.execTrap a b s
  | .tret => Sys2Proof.Machine.execTret s
  | .tretReplay => Sys2Proof.Machine.execTretReplay s
  | .dlaunch a => Sys2Proof.Machine.execDlaunch a s
  | .shape a => Sys2Proof.Machine.execShape a s
  | .texpect a => Sys2Proof.Machine.execTexpect a s
  | .tfree a => Sys2Proof.Machine.execTfree a s
  | .tstate a => Sys2Proof.Machine.execTstate a s
  | .cpy a => Sys2Proof.Machine.execCpy a s
  | .fill a => Sys2Proof.Machine.execFill a s
  | .cpyv a => Sys2Proof.Machine.execCpyv a s
  | .gath a => Sys2Proof.Machine.execGath a s
  | .scat a => Sys2Proof.Machine.execScat a s
  | .mma a => Sys2Proof.Machine.execMma a s
  | .mmaH a => Sys2Proof.Machine.execMmaH a s
  | .mepi a => Sys2Proof.Machine.execMepi a s
  | .mepiT2 a => Sys2Proof.Machine.execMepiT2 a s
  | .mepiSend a => Sys2Proof.Machine.execMepiSend a s
  | .mepiT2Send a => Sys2Proof.Machine.execMepiT2Send a s
  | .mzero a => Sys2Proof.Machine.execMzero a s
  | .mfence a => Sys2Proof.Machine.execMfence a s
  | .mwait a => Sys2Proof.Machine.execMwait a s
  | .mget a => Sys2Proof.Machine.execMget a s
  | .collAr a => Sys2Proof.Machine.execCollAr a s
  | .collRs a => Sys2Proof.Machine.execCollRs a s
  | .collAg a => Sys2Proof.Machine.execCollAg a s
  | .collBc a => Sys2Proof.Machine.execCollBc a s
  | .easel a => Sys2Proof.Machine.execEasel a s
  | .bind a => Sys2Proof.Machine.execBind a s
  | .unbind a => Sys2Proof.Machine.execUnbind a s
  | .lostReconvergenceRelease a => Sys2Proof.Machine.execLostReconvergenceRelease a s
  | .teamEnd a => Sys2Proof.Machine.execTeamEnd a s
  | .pauseTimeout a => Sys2Proof.Machine.execPauseTimeout a s
  | .scFenceWaitEnd a => Sys2Proof.Machine.execScFenceWaitEnd a s
  | .walkerElementArrival a b c => Sys2Proof.Machine.execWalkerElementArrival a b c s
  | .loadReply a b => Sys2Proof.Machine.execLoadReply a b s
  | .stmCopyDelivery a => Sys2Proof.Machine.execStmCopyDelivery a s
  | .leaseReply a => Sys2Proof.Machine.execLeaseReply a s
  | .wiCopyReply a => Sys2Proof.Machine.execWiCopyReply a s
  | .ownershipGrant a => Sys2Proof.Machine.execOwnershipGrant a s
  | .validityEnd a b => Sys2Proof.Machine.execValidityEnd a b s
  | .invalidation a => Sys2Proof.Machine.execInvalidation a s
  | .recall a => Sys2Proof.Machine.execRecall a s
  | .publishRequest a => Sys2Proof.Machine.execPublishRequest a s
  | .forcedPublish a => Sys2Proof.Machine.execForcedPublish a s
  | .homeAcknowledgement a => Sys2Proof.Machine.execHomeAcknowledgement a s
  | .siRead a => Sys2Proof.Machine.execSiRead a s
  | .wiRead a => Sys2Proof.Machine.execWiRead a s
  | .wtRead a => Sys2Proof.Machine.execWtRead a s
  | .homeWrite a => Sys2Proof.Machine.execHomeWrite a s
  | .homeAtomic a => Sys2Proof.Machine.execHomeAtomic a s
  | .ownRequest a => Sys2Proof.Machine.execOwnRequest a s
  | .invalidationAcknowledgement a => Sys2Proof.Machine.execInvalidationAcknowledgement a s
  | .sharerDropNotice a => Sys2Proof.Machine.execSharerDropNotice a s
  | .ownerDropNotice a => Sys2Proof.Machine.execOwnerDropNotice a s
  | .recallAnswer a => Sys2Proof.Machine.execRecallAnswer a s
  | .publishWriteBack a => Sys2Proof.Machine.execPublishWriteBack a s
  | .publishAnswer a => Sys2Proof.Machine.execPublishAnswer a s
  | .evictionWriteBack a => Sys2Proof.Machine.execEvictionWriteBack a s
  | .narrowReleaseNotice a => Sys2Proof.Machine.execNarrowReleaseNotice a s
  | .forcedPublishAnswer a => Sys2Proof.Machine.execForcedPublishAnswer a s
  | .leaseExpires a => Sys2Proof.Machine.execLeaseExpires a s
  | .directoryEntryReuse a => Sys2Proof.Machine.execDirectoryEntryReuse a s
  | .watchRegistration a b c d => Sys2Proof.Machine.execWatchRegistration a b c d s
  | .wake a b => Sys2Proof.Machine.execWake a b s
  | .streamerRound a => Sys2Proof.Machine.execStreamerRound a s
  | .engineCommandComplete a => Sys2Proof.Machine.execEngineCommandComplete a s
  | .matrixCommandComplete a => Sys2Proof.Machine.execMatrixCommandComplete a s
  | .collectiveComplete a => Sys2Proof.Machine.execCollectiveComplete a s
  | .sgPromotion a => Sys2Proof.Machine.execSgPromotion a s
  | .sectorAccept a b => Sys2Proof.Machine.execSectorAccept a b s
  | .sectorRefuse a b => Sys2Proof.Machine.execSectorRefuse a b s
  | .acceptSignal a b c d => Sys2Proof.Machine.execAcceptSignal a b c d s
  | .groupSector a => Sys2Proof.Machine.execGroupSector a s
  | .resultSector a => Sys2Proof.Machine.execResultSector a s
  | .groupError a b => Sys2Proof.Machine.execGroupError a b s
  | .groupStallTimeout a b c d => Sys2Proof.Machine.execGroupStallTimeout a b c d s
  | .reducingLoadRequest a b c d e f => Sys2Proof.Machine.execReducingLoadRequest a b c d e f s
  | .reducingLoadValue a b c => Sys2Proof.Machine.execReducingLoadValue a b c s
  | .treeTableWrite a b => Sys2Proof.Machine.execTreeTableWrite a b s
  | .flitReceive a b c d => Sys2Proof.Machine.execFlitReceive a b c d s
  | .replayRequest a b => Sys2Proof.Machine.execReplayRequest a b s
  | .idleFlit a => Sys2Proof.Machine.execIdleFlit a s
  | .portDown a => Sys2Proof.Machine.execPortDown a s
  | .linkRekey a => Sys2Proof.Machine.execLinkRekey a s
  | .remoteRequest a => Sys2Proof.Machine.execRemoteRequest a s
  | .receipt a => Sys2Proof.Machine.execReceipt a s
  | .remoteAcknowledgement a b => Sys2Proof.Machine.execRemoteAcknowledgement a b s
  | .resendTimeout a => Sys2Proof.Machine.execResendTimeout a s
  | .duplicateRecordExpiry a b => Sys2Proof.Machine.execDuplicateRecordExpiry a b s
  | .closeRequest a b c d => Sys2Proof.Machine.execCloseRequest a b c d s
  | .summaryReply a b c d e f => Sys2Proof.Machine.execSummaryReply a b c d e f s
  | .endNotice a b => Sys2Proof.Machine.execEndNotice a b s
  | .deadPeerDeclaration a => Sys2Proof.Machine.execDeadPeerDeclaration a s
  | .heartbeatTick => Sys2Proof.Machine.execHeartbeatTick s
  | .timeMessage a b => Sys2Proof.Machine.execTimeMessage a b s
  | .timeBoundLoss => Sys2Proof.Machine.execTimeBoundLoss s
  | .timeBoundTimeout => Sys2Proof.Machine.execTimeBoundTimeout s
  | .gtcLoad => Sys2Proof.Machine.execGtcLoad s
  | .uetWrite a b c => Sys2Proof.Machine.execUetWrite a b c s
  | .uetDelivery a b => Sys2Proof.Machine.execUetDelivery a b s
  | .doorbell a b => Sys2Proof.Machine.execDoorbell a b s
  | .enableClear a => Sys2Proof.Machine.execEnableClear a s
  | .instanceStart a => Sys2Proof.Machine.execInstanceStart a s
  | .launchNode a b => Sys2Proof.Machine.execLaunchNode a b s
  | .condNode a b => Sys2Proof.Machine.execCondNode a b s
  | .whileNode a b => Sys2Proof.Machine.execWhileNode a b s
  | .copyNode a b => Sys2Proof.Machine.execCopyNode a b s
  | .waitNode a b => Sys2Proof.Machine.execWaitNode a b s
  | .signalNode a b => Sys2Proof.Machine.execSignalNode a b s
  | .launchNodeComplete a b => Sys2Proof.Machine.execLaunchNodeComplete a b s
  | .nodeComplete a b => Sys2Proof.Machine.execNodeComplete a b s
  | .dlaunchDescriptor a => Sys2Proof.Machine.execDlaunchDescriptor a s
  | .dlaunchStatus a => Sys2Proof.Machine.execDlaunchStatus a s
  | .launchPlacement => Sys2Proof.Machine.execLaunchPlacement s
  | .preemption => Sys2Proof.Machine.execPreemption s
  | .armStopDeadline a => Sys2Proof.Machine.execArmStopDeadline a s
  | .launchSuspended a => Sys2Proof.Machine.execLaunchSuspended a s
  | .launchResume a => Sys2Proof.Machine.execLaunchResume a s
  | .tableWalk a b => Sys2Proof.Machine.execTableWalk a b s
  | .faultResolve a b => Sys2Proof.Machine.execFaultResolve a b s
  | .faultFatal a b => Sys2Proof.Machine.execFaultFatal a b s
  | .xinvctlGo a => Sys2Proof.Machine.execXinvctlGo a s
  | .xinvComplete => Sys2Proof.Machine.execXinvComplete s
  | .complete a b => Sys2Proof.Machine.execComplete a b s
  | .fault a b c d => Sys2Proof.Machine.execFault a b c d s
  | .stopped a b c d => Sys2Proof.Machine.execStopped a b c d s
  | .invack a b => Sys2Proof.Machine.execInvack a b s
  | .xlreq a b c d => Sys2Proof.Machine.execXlreq a b c d s
  | .rdcurr a b => Sys2Proof.Machine.execRdcurr a b s
  | .rdshared a b => Sys2Proof.Machine.execRdshared a b s
  | .wrcur a b c => Sys2Proof.Machine.execWrcur a b c s
  | .faultReportDeadline a => Sys2Proof.Machine.execFaultReportDeadline a s
  | .invackDeadline a => Sys2Proof.Machine.execInvackDeadline a s
  | .stoppedDeadline a => Sys2Proof.Machine.execStoppedDeadline a s
  | .linkSilent a => Sys2Proof.Machine.execLinkSilent a s
  | .hostWrite a b => Sys2Proof.Machine.execHostWrite a b s
  | .hostRead a b => Sys2Proof.Machine.execHostRead a b s
  | .hostAtomic a b c d e => Sys2Proof.Machine.execHostAtomic a b c d e s
  | .attest a => Sys2Proof.Machine.execAttest a s
  | .keyload a b c d => Sys2Proof.Machine.execKeyload a b c d s
  | .abortRecordRead a => Sys2Proof.Machine.execAbortRecordRead a s
  | .timectlWrite a => Sys2Proof.Machine.execTimectlWrite a s
  | .pwrcapWrite a => Sys2Proof.Machine.execPwrcapWrite a s
  | .fthreshWrite a => Sys2Proof.Machine.execFthreshWrite a s
  | .registerWrite a b => Sys2Proof.Machine.execRegisterWrite a b s
  | .powerWindow a => Sys2Proof.Machine.execPowerWindow a s
  | .coreCurrentTrip => Sys2Proof.Machine.execCoreCurrentTrip s
  | .temperatureTrip a => Sys2Proof.Machine.execTemperatureTrip a s
  | .powerGood => Sys2Proof.Machine.execPowerGood s
  | .stageB a b c => Sys2Proof.Machine.execStageB a b c s
  | .stageC a b c d => Sys2Proof.Machine.execStageC a b c d s
  | .stageD a => Sys2Proof.Machine.execStageD a s
  | .hostReset => Sys2Proof.Machine.execHostReset s
  | .correctedError a => Sys2Proof.Machine.execCorrectedError a s
  | .uncorrectedError a b => Sys2Proof.Machine.execUncorrectedError a b s
  | .errorWindowRoll => Sys2Proof.Machine.execErrorWindowRoll s
  | .summaryExpiry a => Sys2Proof.Machine.execSummaryExpiry a s
  | .splitPoint a => Sys2Proof.Machine.execSplitPoint a s
  | .portRetrain a => Sys2Proof.Machine.execPortRetrain a s
  | .deadPeerClear a => Sys2Proof.Machine.execDeadPeerClear a s
  | .guestSiteReset a b => Sys2Proof.Machine.execGuestSiteReset a b s
  | .unlistedContractKind a b => Sys2Proof.Machine.execUnlistedContractKind a b s

end Sys2Proof.Machine
end

