-- ==== Sys2Proof/Machine/Schedule.lean ====
section
/-! DEFINITION. Which arm issues: the passes of lane-side words, the pipes of a core, ages, and the choice of R247 (R84, R85, R88,
R89); arms that stop for a pre-emption because they cannot issue (R308). -/

namespace Sys2Proof.Machine

/-! ### Pipes (R84, R85) -/

/-- Pipes 0 to 15 of a core are its datapaths, 16 to 19 its uniform pipes. -/
def pipeOf (g : TeamGeom) (lane : Bool) : Nat := g.core * 20 + (if lane then g.datapath else 16 + g.datapath / 4)

/-- Whether the word at `va` of a launch's code is lane-side (R9). -/
def laneSideAt (s : State) (l : Launch) (c va : Nat) : Bool :=
  match fetchWord s l c va with
  | .word w => decide (w < 2 ^ 31)
  | .bounds => false
  | .replay => false
  | .fatal => false
  | .busy => false

/-- Passes of a lane-side word: the words of the active mask that are not zero (R84). -/
def passes (m : LaneMask) : Nat := ((List.range 32).filter (fun w => (m >>> (32 * w)).toNat % 2 ^ 32 ≠ 0)).length

/-- An arm of a launch that is on its cores. -/
structure Seat where
  id : ArmId
  team : Team
  arm : Arm
  launch : Launch

/-- Every arm of the launches that are on their cores (R88). -/
def State.seats (s : State) : List Seat :=
  (slist s.alloc.teams).flatMap (fun kt =>
    match s.launch? kt.2.geom.launch with
    | none => []
    | some l =>
      if l.status = .suspended then []
      else [false, true].filterMap (fun f => (kt.2.arm? f).map (fun a => (⟨⟨kt.1, f⟩, kt.2, a, l⟩ : Seat))))

/-- Whether what an arm issues next is lane-side. -/
def Seat.lane (x : Seat) (s : State) : Bool := x.arm.todo ≠ 0 || laneSideAt s x.launch x.team.geom.core x.arm.pc.toNat

/-- The pipe that serves what an arm issues next. -/
def Seat.pipe (x : Seat) (s : State) : Nat := pipeOf x.team.geom (x.lane s)

/-- Arms resident on a pipe: on its datapath, or on the four datapaths of a uniform pipe (N and M of R88). A resident team counts as
one arm, or as two while it is split, until it ends. -/
def residents (s : State) (pipe : Nat) : Nat :=
  (((slist s.alloc.teams).filter (fun kt => s.awake kt.2.geom.launch
    && (pipeOf kt.2.geom true = pipe || pipeOf kt.2.geom false = pipe))).map (fun kt => if kt.2.split then 2 else 1)).sum

/-! ### The unit of an arm -/

/-- The current arm executes its next unit; where it cannot issue, that is noted and nothing else. -/
def runUnit (s : State) : Out :=
  match s.curArm with
  | none => .next s.blocked
  | some (tid, f, t, a) =>
    match a.wait with
    | .fatal info =>
      if armTakes s t f a then
        .next (takeTrap s tid f a.pc (match s.launch? t.geom.launch with | some l => unitLenAt s l t.geom.core a.pc.toNat | none => 4)
          Code.xlateFatal info)
      else .next s.blocked
    | _ =>
      match s.nextUnit with
      | none => .next s.blocked
      | some (.unit i) => exec i s.fetched
      | some r => .next (fetchStop s.fetched r)

/-- The state in which an arm is the one whose unit is executed. -/
def State.trying (s : State) (a : ArmId) : State := { s with sched := { s.sched with cur := some a, waits := false } }

/-- Whether an arm has something to issue: a pass of its word is left, which waits while the other arm is in its handler (R108), or
its next unit can issue (R42, R85, R251). -/
def Seat.able (x : Seat) (s : State) : Bool :=
  if x.arm.todo ≠ 0 then !x.team.inOther x.id.f
  else match runUnit (s.trying x.id) with
    | .next s' => !s'.sched.waits
    | .fault _ => true
    | .refused _ => true

/-- Whether an arm is ready (R88). It issues at most once in a cycle (log 54). -/
def Seat.ready (x : Seat) (s : State) : Bool := x.arm.last ≠ s.sched.cycle + 1 && x.able s

/-! ### The choice (R247) -/

/-- Lexicographic order. -/
def lexLt : List Int → List Int → Bool
  | a :: x, b :: y => decide (a < b) || (a = b && lexLt x y)
  | _, _ => false

/-- What orders the arms of a pipe: the forced ones by age, the others by class and least recent issue; ties by team slot, the arms
of one team by least recent issue (R89), arm T before F. Teams of the same slot on two datapaths of a uniform pipe go by datapath
(log 54). -/
def Seat.rank (x : Seat) (forced : Bool) : List Int :=
  [if forced then -(x.arm.age : Int) else -(x.launch.prio : Int), if forced then 0 else x.arm.last, x.team.geom.slot,
   x.team.geom.datapath, x.arm.last, if x.id.f then 1 else 0]

def pickSeat (forced : Bool) : List Seat → Option Seat
  | [] => none
  | x :: r =>
    match pickSeat forced r with
    | none => some x
    | some y => if lexLt (y.rank forced) (x.rank forced) then some y else some x

/-- The arms that a pipe could issue for in this cycle. -/
def candidates (s : State) (seats : List Seat) (pipe : Nat) : List Seat :=
  if s.sched.issued.contains pipe then [] else seats.filter (fun x => x.pipe s = pipe && x.ready s)

/-- The arm a pipe issues for in this cycle: the oldest of those that have waited for 7 N cycles, else the first by class. Such an arm
goes before the other arm of its team even where that one issued less recently, of which R89 speaks (DESIGN CHOICE, log 54). -/
def State.choice (s : State) (pipe : Nat) : Option Seat :=
  let cs := candidates s s.seats pipe
  let old := cs.filter (fun x => decide (7 * residents s pipe ≤ x.arm.age))
  if old.isEmpty then pickSeat false cs else pickSeat true old

/-- Whether the next unit of an arm traps now: its arm enters its handler, or its launch is aborted. -/
def Seat.traps (x : Seat) (s : State) : Bool :=
  x.arm.todo = 0 && (match runUnit (s.trying x.id) with
    | .next s' =>
      (((s'.armOf x.id).map (fun y => y.2.inHandler && !x.arm.inHandler)).getD false)
        || (((s'.launch? x.team.geom.launch).map Launch.isAborting).getD true && !x.launch.isAborting)
    | .fault _ => false
    | .refused _ => false)

/-- When both arms of a team raise traps in the same cycle, arm T's is taken first (R108): arm F does not issue in it before arm T. -/
def Seat.yields (x : Seat) (s : State) : Bool :=
  x.id.f && x.traps s && (match s.seats.find? (fun y => y.id = ⟨x.id.team, false⟩) with
    | some y => (s.choice (y.pipe s)).map (·.id) = some y.id && y.traps s
    | none => false)

/-- The choice of the first pipe that has one in this cycle. -/
def State.anyChoice (s : State) : Option Seat :=
  s.seats.findSome? (fun x => (s.choice (x.pipe s)).filter (fun y => !y.yields s))

/-! ### Issue -/

/-- A pipe issues for an arm in this cycle. -/
def State.noteIssue (s : State) (a : ArmId) (pipe : Nat) : State :=
  { s with sched := { s.sched with cur := some a, waits := false, issued := pipe :: s.sched.issued } }.modArm a.team a.f (fun x =>
    { x with age := 0, last := s.sched.cycle + 1 })

/-- The passes of a lane-side word that are left after its first, when the word has completed. -/
def startPasses (n : Nat) (handler : Bool) (o : Out) : Out :=
  match o with
  | .next s =>
    (match s.sched.cur with
     | some a => .next (s.modArm a.team a.f (fun x => if x.wait = .ready ∧ x.inHandler = handler then { x with todo := n } else x))
     | none => .next s)
  | .fault e => .fault e
  | .refused r => .refused r

/-- A pipe issues for an arm: one pass more of its word, or its next unit, whose effect stands whole from its first pass on
(R8, R84; log 54). -/
def issueSeat (s : State) (x : Seat) : Out :=
  let s1 := s.noteIssue x.id (x.pipe s)
  if x.arm.todo ≠ 0 then .next (s1.modArm x.id.team x.id.f (fun a => { a with todo := a.todo - 1 }))
  else if x.lane s then startPasses (passes x.arm.active - 1) x.arm.inHandler (runUnit s1)
  else runUnit s1

/-! ### Cycles -/

/-- An arm whose park under PAUSE has lasted its 64 or 4,096 cycles is woken (R90). -/
def Arm.overdue (a : Arm) (cycle : Nat) : Bool :=
  match a.wait with
  | .paused since watch => decide (since + pauseLimit watch ≤ cycle)
  | _ => false

/-- An arm when a cycle ends: its age, and the end of a park that has reached its limit. -/
def ageArm (s : State) (l : Launch) (t : Team) (id : ArmId) (a : Arm) : Arm :=
  if a.overdue s.sched.cycle then { a.wake with age := 0 }
  else { a with age := if (⟨id, t, a, l⟩ : Seat).ready s then a.age + 1 else 0 }

/-- The present cycle ends (R247): arms that were ready and have not issued grow older, and no park outlasts its limit (R90). -/
def nextCycle (s : State) : State :=
  { s with
    alloc := { s.alloc with teams := smap s.alloc.teams (fun tid t =>
      match s.launch? t.geom.launch with
      | none => t
      | some l => { t with
          armT := t.armT.map (ageArm s l t ⟨tid, false⟩)
          armF := t.armF.map (ageArm s l t ⟨tid, true⟩) }) }
    sched := { s.sched with cycle := s.sched.cycle + 1, issued := [] } }

/-- Arms of a launch that is being pre-empted stop as soon as they cannot issue (R308). -/
def stopIdle (s : State) : State :=
  (s.seats.filter (fun x => x.launch.isStopping && !x.arm.stopped && !x.able s)).foldl (fun s x =>
    s.modArm x.id.team x.id.f Arm.stop) s

end Sys2Proof.Machine
end

