-- ==== Sys2Proof/Machine/Step.lean ====
section
/-! DEFINITION. One step: the next turn of the outside schedule, or the next issue of the cores. -/

namespace Sys2Proof.Machine

/-- A turn of the schedule. Only events of other agents stand in it: a unit is reached by fetching it. -/
def doTurn (t : Turn) (s : State) : Out :=
  match t with
  | .issue a =>
    (match s.seats.find? (fun x => x.id = a) with
     | some x =>
       if (s.choice (x.pipe s)).map (·.id) = some a ∧ x.yields s = false then issueSeat s x else .refused (.notEnabled "ISSUE")
     | none => .refused (.notEnabled "ISSUE"))
  | .elapse ticks => .next (elapse s ticks)
  | .cycle => if s.anyChoice.isSome then .refused (.notEnabled "CYCLE") else .next (nextCycle s)
  | .event i => if i.isUnit then .refused (.notEnabled "UNIT") else exec i s

/-- What follows every turn: arms that are to stop for a pre-emption and cannot issue stop (R308). -/
def afterTurn (o : Out) : Out :=
  match o with
  | .next s => .next (stopIdle s)
  | .fault e => .fault e
  | .refused r => .refused r

/-- One step. With nothing on the agenda, a pipe that has not issued in this cycle issues for its choice; when there is none left,
the cycle ends (R84, R85, R247). -/
def step (s : State) : Host.Outcome State Fault Refusal :=
  match s.sched.agenda with
  | t :: r => afterTurn (doTurn t { s with sched := { s.sched with agenda := r } })
  | [] =>
    match s.anyChoice with
    | some x => afterTurn (issueSeat s x)
    | none => afterTurn (.next (nextCycle s))

/-- `s` with an instruction whose bits are `w` (numbered as the opcode table numbers them) where the next step fetches. -/
def State.withFetchWord (s : State) (nbits w : Nat) : State := placeWord s nbits w

end Sys2Proof.Machine
end

