-- ==== Sys2Proof/Safety.lean ====
section
/-! DEFINITION. The terms in which statements about the machine are made: a safe step, the arm that issues, a unit whose
registers are ready, what a completed unit leaves, what stays as it was. -/

namespace Sys2Proof.Machine

/-- A step is safe when the machine goes on. -/
def Safe (s : State) : Prop := ∃ s', step s = .next s'

/-- Memory is in its canonical form: the invariant every step keeps. -/
def State.MemCanonical (s : State) : Prop := Memory.wf s.mem = true

/-- An arm at the issue of a unit: the state, its team, arm and launch, and what reading the walkers among the unit's sources
leaves and gives (R92): the team after it and each walker register's elements by lane. -/
structure Issue where
  s : State
  tid : Nat
  f : Bool
  t : Team
  a : Arm
  l : Launch
  t' : Team
  els : List (Nat × List (Nat × Word))

/-- The arm is the one to issue (R88, R101, R108, R308). -/
structure Issue.Current (k : Issue) : Prop where
  cur : k.s.sched.cur = some ⟨k.tid, k.f⟩
  team : k.s.team? k.tid = some k.t
  arm : k.t.arm? k.f = some k.a
  launch : k.s.launch? k.t.geom.launch = some k.l
  may : armMayIssue k.s k.t k.f k.a = true

/-- The lanes that execute a unit with these registers (R41). -/
def Issue.ex (k : Issue) (u : Use) : LaneMask :=
  match u.pg with
  | some p => execMask k.t k.a p
  | none => k.a.active

/-- The unit can complete as far as its registers go: every one it names exists (R13), none is empty (R16, R42), no source holds
lost or poisoned data for the executing lanes (R75, R318), its uniform guard is true (R15), and its walkers have their elements
(R92). -/
structure Issue.Ready (k : Issue) (u : Use) : Prop extends Issue.Current k where
  legal : u.illReg k.t = false
  full : u.waits k.t = false
  marks : markTrap k.t (k.ex u) u.vr = none
  guard : k.t.qpred u.qg = true
  walk : readWalkers k.s k.l (k.ex u) k.t u.vr [] = .ok k.t' k.els

/-- Lane L's value of source register r. -/
def Issue.src (k : Issue) (L r : Nat) : Word :=
  match k.els.find? (fun e => e.1 = r) with
  | none => (k.t'.lane L).reg r
  | some e => ((e.2.find? (fun q => q.1 = L)).map (·.2)).getD 0

/-- The team once the unit's registers have been read: walkers stepped, marks of v registers written cleared (R42, R92). -/
def Issue.team' (k : Issue) (u : Use) : Team := if k.ex u = 0 then k.t' else u.clearMarks k.t'

/-- The state in which the unit acts: the fetches of the walkers it has read have ended (R92). -/
def Issue.read (k : Issue) : State := k.els.foldl (fun s e => s.dropFetch k.tid (e.1 - 60)) k.s

/-- The state after a unit of `len` bytes that has left the arm's team as `t`: nothing else changes, and the arm passes to the
word after the unit, or to the start of a loop body whose last word it was (R65, R96). -/
def Issue.done (k : Issue) (len : Nat) (t : Team) : State := k.read.setTeam k.tid (t.modArm k.f (fun a => a.advance len))

/-- The state after a unit that writes `val L` to register vd of every executing lane L. -/
def Issue.laneDone (k : Issue) (u : Use) (vd len : Nat) (val : Nat → Word) : State :=
  k.done len { k.team' u with lanes := mapLanes (k.ex u) (fun L x => x.setReg vd (val L)) 0 (k.team' u).lanes }

/-- The state after a unit that writes predicate pd of every executing lane. -/
def Issue.predDone (k : Issue) (u : Use) (pd len : Nat) (val : Nat → Bool) : State :=
  k.done len { k.team' u with lanes := mapLanes (k.ex u) (fun L x => x.setPred pd (val L)) 0 (k.team' u).lanes }

/-! ### Results of a unit -/

/-- Sub-element e of width w of a lane register (R45). -/
def part (w : Nat) (x : Word) (e : Nat) : BitVec w := x.extractLsb' (w * e) w

/-- A unit of `len` bytes completes, writes register vd of every executing lane and changes nothing else; `r L e` is
sub-element e of lane L's result, whatever the result's width w. -/
def LaneWrites (k : Issue) (u : Use) (i : Instr) (vd len w : Nat) (r : Nat → Nat → BitVec w) : Prop :=
  ∃ val : Nat → Word, exec i k.s = .next (k.laneDone u vd len val) ∧
    ∀ L, (k.ex u).getLsbD L = true → ∀ e, e < 64 / w → part w (val L) e = r L e

/-- A unit completes and writes predicate pd of every executing lane. -/
def PredWrites (k : Issue) (u : Use) (i : Instr) (pd : Nat) (r : Nat → Bool) : Prop :=
  ∃ val : Nat → Bool, exec i k.s = .next (k.predDone u pd 4 val) ∧ ∀ L, (k.ex u).getLsbD L = true → val L = r L

/-- Lane L's predicate p as the unit finds it. -/
def Issue.pred (k : Issue) (L p : Nat) : Bool := (k.t'.lane L).pred p

/-- A value saturated to the signed range of w bits. -/
def clampS (w : Nat) (x : Int) : BitVec w := BitVec.ofInt w (max (-2 ^ (w - 1)) (min (2 ^ (w - 1) - 1) x))

/-- A value saturated to the unsigned range of w bits. -/
def clampU (w : Nat) (x : Int) : BitVec w := BitVec.ofInt w (max 0 (min (2 ^ w - 1) x))

/-- Registers of the lane forms. -/
def use2 (pg : BitVec 3) (vd va vb : BitVec 6) (ta tb : Bool) : Use :=
  { pg := some pg.toNat, vw := [vd.toNat], vr := [(va.toNat, ta), (vb.toNat, tb)] }
def use3 (pg : BitVec 3) (vd va vb : BitVec 6) (ta tb : Bool) : Use :=
  { pg := some pg.toNat, vw := [vd.toNat], vr := [(va.toNat, ta), (vb.toNat, tb), (vd.toNat, false)] }
def use1 (pg : BitVec 3) (vd va : BitVec 6) (ta : Bool) : Use :=
  { pg := some pg.toNat, vw := [vd.toNat], vr := [(va.toNat, ta)] }
def use0 (pg : BitVec 3) (vd : BitVec 6) : Use := { pg := some pg.toNat, vw := [vd.toNat] }

/-- The state after a lane floating-point unit: in every executing lane L, elements 0 to n - 1 of width w of vd are computed in
ascending order under the lane's environment (its FPCTL, `o` overriding the mode), each that rounds drawing once under RSR (R184),
and their flags are ORed into the lane's FPFLAGS (R187). `g L v e X` is element e, X the output a draw would give. -/
def Issue.floatDone (k : Issue) (u : Use) (vd w n : Nat) (o : Option Rm) (g : Nat → FEnv → Nat → Nat → FRes) : State :=
  k.done 4 { k.team' u with lanes := mapLanes (k.ex u) (fun L x =>
    x.float vd w n (decide ((x.env.over o).rm = .rsr)) (g L (x.env.over o))) 0 (k.team' u).lanes }

/-- The lanes of the team that execute, ascending. -/
def Issue.lanes (k : Issue) (u : Use) : List Nat := (List.range k.t.geom.lanes).filter (fun L => (k.ex u).getLsbD L)

/-- The lane a cross-lane read of lane S takes: S itself, else the highest source lane below it (R204). -/
def Issue.sourceLane (k : Issue) (u : Use) (S : Nat) : Option Nat := ((k.lanes u).filter (fun L => L ≤ S)).getLast?

/-- Registers of a uniform form of two sources and of one. -/
def useU2 (qg : BitVec 3) (gd ga gb : BitVec 6) : Use :=
  { qg := qg.toNat, gw := [gd.toNat], gr := [(ga.toNat, false), (gb.toNat, false)] }
def useU1 (qg : BitVec 3) (gd ga : BitVec 6) : Use := { qg := qg.toNat, gw := [gd.toNat], gr := [(ga.toNat, false)] }

/-! ### Where an arm goes -/

/-- The state after a unit that has left the arm's team as `t` and continues its arm at `pc`. -/
def Issue.goto (k : Issue) (t : Team) (pc : Word) : State := k.s.setTeam k.tid (t.modArm k.f (fun a => { a with pc := pc }))

/-- The trap registers after a trap (R304). -/
def Issue.trapRegs (k : Issue) (len code : Nat) (info : Word) : TrapRegs := ⟨k.t.trap.vec, k.a.pc, BitVec.ofNat 8 code, info, len⟩

/-- The state after a trap whose handler the arm enters (R304): the arm keeps everything but its pc, and a park of the other arm
ends (R90; log 120); one that is to stop stops before the handler's first word (R315). -/
def Issue.trapped (k : Issue) (len code : Nat) (info : Word) : State :=
  k.s.setTeam k.tid (({ k.t with trap := k.trapRegs len code info }.modArm (!k.f) Arm.unpark).setArm k.f
    (some { k.a with
      pc := k.t.trap.vec, inHandler := true, wait := .ready, stopped := k.a.stopped || k.s.isStopping k.t.geom.launch }))

/-- The state after a trap that nothing handles: the arm stops and its launch aborts (R304, R306). -/
def Issue.aborted (k : Issue) (len code : Nat) (info : Word) : State :=
  (k.s.setTeam k.tid ({ k.t with trap := k.trapRegs len code info }.setArm k.f (some { k.a with stopped := true }))).abortLaunch
    k.a.inHandler code k.a.pc info k.t.geom k.f

/-- A handler is there to enter: TRAPVEC is set and the arm is in no handler (R304). -/
def Issue.Handled (k : Issue) : Prop := k.t.trap.vec ≠ 0 ∧ k.a.inHandler = false

/-- The state after a trap: the handler is entered, or the launch aborts with a record of it (R304, R306). -/
def Issue.afterTrap (k : Issue) (len code : Nat) (info : Word) : State :=
  if k.t.trap.vec ≠ 0 ∧ k.a.inHandler = false then k.trapped len code info
  else k.aborted len code info

/-- The branch target of an offset in words (R10). -/
def Issue.target (k : Issue) (off : Word) : Word := k.a.pc + 4 * off

/-! ### Accesses -/

/-- What a unit's effect is given. -/
def Issue.ctx (k : Issue) (u : Use) (len : Nat) : Ctx := ⟨k.tid, k.f, k.team' u, k.a, k.ex u, len, k.els, k.s⟩

/-- The state in which an access starts: its registers read, the holds of fences and ordered accesses that have ended passed
(R117, R123). -/
def Issue.before (k : Issue) (u : Use) (load : Bool) : State := (k.read.setTeam k.tid (k.team' u)).passHolds k.tid k.f load

/-- The state after a unit of `len` bytes that has the effect `g` and passes on. -/
def Issue.passes (k : Issue) (u : Use) (len : Nat) (g : State → State) : State := finish (g (k.before u false)) k.tid k.f len

/-- Byte offset that lane L's register vo gives. -/
def Issue.off (k : Issue) (vo L : Nat) : Nat := (k.src L vo).toNat

/-- The executing lanes with the key of the first byte each accesses: memory key of a bank, physical address, or export offset. -/
def Issue.keys (k : Issue) (u : Use) (e : PalEntry) (vo : Nat) : List (Nat × Nat) :=
  (k.lanes u).map (fun L => (L, keyOf k.s k.l k.t.geom e L (k.off vo L)))

/-- The handle in `gh` names the entry `e`, and every executing lane's access of n bytes at its offset passes the checks of R73:
aligned, inside the entry, outside the ranges that commands lock, its page in the TLB. -/
structure Issue.Reaches (k : Issue) (u : Use) (gh vo n : Nat) (acc : Acc) (e : PalEntry) : Prop where
  entry : k.t'.handle k.s (k.t.greg gh) = some e
  aligned : ∀ L ∈ k.lanes u, k.off vo L % n = 0 ∧ crosses k.l e (k.off vo L) n = false
  inside : ∀ L ∈ k.lanes u, k.off vo L + n ≤ e.limit
  unlocked : ∀ L ∈ k.lanes u, lockedAt k.s k.t.geom.core k.l.ctx (placeOf k.l k.t.geom e L (k.off vo L)) n = false
  mapped : ∀ L ∈ k.lanes u, ∀ va, placeOf k.l k.t.geom e L (k.off vo L) = .va va →
    ∃ pa, tlbLook k.s (coreUnit k.t.geom.core) k.l.ctx va acc = .pa pa

/-- The bytes that each executing lane's access of n bytes reaches, as a later access of the team compares with them (R74; log 60). -/
def Issue.spans (k : Issue) (u : Use) (e : PalEntry) (vo n : Nat) (load : Bool) : List (List Span) :=
  (k.lanes u).map (fun L => laneSpans (k.before u load) k.l k.t.geom e n (L, k.off vo L))

/-- Those of the lanes whose first byte lies in sector b. -/
def Issue.sectorSpans (k : Issue) (u : Use) (e : PalEntry) (vo n b : Nat) : List Span :=
  ((k.lanes u).filter (fun L => keyOf k.s k.l k.t.geom e L (k.off vo L) / 64 = b)).flatMap (fun L =>
    laneSpans (k.before u false) k.l k.t.geom e n (L, k.off vo L))

/-- No access of the team that is under way keeps one to these bytes back (R74, R151). -/
def Issue.Follows (k : Issue) (u : Use) (e : PalEntry) (vo n : Nat) (before : Bool) : Prop :=
  mustFollow (k.before u before) k.tid (k.spans u e vo n before).flatten = false

/-- No lane's load could return an older value than an earlier load of the lane that still waits (R172, R181). -/
def Issue.InOrder (k : Issue) (u : Use) (e : PalEntry) (vo n pol : Nat) : Prop :=
  overtakes (k.before u true) k.tid k.t.geom.core pol n ((k.keys u e vo).map (fun x => (x.1, sectorOf e x.2, x.2 % 64))) = false

/-- The entry admits loads of n bytes under a policy (R72, R73, R153). -/
structure PalEntry.AdmitsLoad (s : State) (e : PalEntry) (sx : Bool) (n pol : Nat) : Prop where
  space : e.space ≠ 9 ∧ e.space ≠ 10
  group : e.space = 7 → sx = false ∧ n = rtypeBytes e.rtype ∧ s.groupValid e.target = true ∧ e.isSealed = false
  read : e.perm.testBit 0 = true
  policy : e.polmask.testBit pol = true

/-- The entry admits stores under a policy. -/
structure PalEntry.AdmitsStore (s : State) (e : PalEntry) (pol : Nat) : Prop where
  space : e.space ≠ 9 ∧ e.space ≠ 10
  group : e.space = 7 → s.groupValid e.target = true
  write : e.perm.testBit 1 = true
  policy : e.polmask.testBit pol = true

/-- The entry admits an atomic (R112). -/
structure PalEntry.AdmitsAtomic (e : PalEntry) (a : AOp) : Prop where
  space : e.space ≠ 7 ∧ e.space ≠ 9 ∧ e.space ≠ 10
  perm : e.perm % 8 = 7
  host : e.space = 8 → a = .add ∨ a = .xchg ∨ a = .cas
  policy : e.polmask.testBit e.defpol = true

/-- The bytes a store writes: executing lanes in ascending order, each with its n little-endian bytes. -/
def Issue.stored (k : Issue) (u : Use) (e : PalEntry) (vd vo n : Nat) : List (Nat × Byte) :=
  (k.keys u e vo).flatMap (fun x => cellsOf x.2 (leBytes n (k.src x.1 vd).toNat))

end Sys2Proof.Machine
end

