-- ==== Sys2Proof/Certificates/Slice0/Obligations.lean ====
section
/-! DEFINITION. The statements for the provers. A result is said through `BitVec` operations on elements, not through the
functions the meanings are built from; a state after a unit is said whole, so that it is also the unit's frame. -/

/-! ### Lane integer instructions -/

namespace Sys2Proof.Machine

/-- R47, the forms without a third source: what each writes to an element of width w. -/
def laneTwoSource : List ((LR → Instr) × ((w : Nat) → BitVec w → BitVec w → BitVec w)) :=
  [(.add, fun _ a b => a + b), (.sub, fun _ a b => a - b), (.mul, fun _ a b => a * b),
   (.min, fun _ a b => if a.toInt ≤ b.toInt then a else b), (.max, fun _ a b => if a.toInt ≤ b.toInt then b else a),
   (.minn, fun _ a b => if a.toNat ≤ b.toNat then a else b), (.maxn, fun _ a b => if a.toNat ≤ b.toNat then b else a),
   (.and, fun _ a b => a &&& b), (.or, fun _ a b => a ||| b), (.xor, fun _ a b => a ^^^ b),
   (.andn, fun _ a b => a &&& ~~~b), (.shl, fun w a b => a <<< (b.toNat % w)), (.shr, fun w a b => a >>> (b.toNat % w)),
   (.sar, fun w a b => a.sshiftRight (b.toNat % w))]

/-- R48. -/
def laneFixed : List ((LF → Instr) × ((w : Nat) → BitVec w → BitVec w → BitVec w)) :=
  [(.mulh, fun w a b => BitVec.ofInt w (a.toInt * b.toInt / 2 ^ w)), (.mulhn, fun w a b => BitVec.ofNat w (a.toNat * b.toNat / 2 ^ w)),
   (.div, fun w a b => if b = 0 then BitVec.allOnes w else a.sdiv b), (.divn, fun w a b => if b = 0 then BitVec.allOnes w else a / b),
   (.rem, fun _ a b => if b = 0 then a else a.srem b), (.remn, fun _ a b => if b = 0 then a else a % b),
   (.adds, fun w a b => clampS w (a.toInt + b.toInt)), (.subs, fun w a b => clampS w (a.toInt - b.toInt)),
   (.addsn, fun w a b => clampU w (a.toNat + b.toNat)), (.subsn, fun w a b => clampU w ((a.toNat : Int) - b.toNat))]

/-- Position of the bit field that element b of vb names (R49). -/
def fieldPos (w : Nat) (b : BitVec w) : Nat := b.toNat % w
/-- Its length: n = 0 means w, and the field ends at bit w - 1 (R49). -/
def fieldLen (w : Nat) (b : BitVec w) : Nat :=
  min (if b.toNat / w % w = 0 then w else b.toNat / w % w) (w - fieldPos w b)

/-- The bits that a field covers. -/
def fieldMask (w : Nat) (b : BitVec w) : BitVec w := BitVec.ofNat w (2 ^ fieldLen w b - 1) <<< fieldPos w b

/-- R50, the forms on elements. -/
def laneUnary : List ((LU → Instr) × ((w : Nat) → BitVec w → BitVec w)) :=
  [(.abs, fun _ a => if a.toInt < 0 then -a else a), (.neg, fun _ a => -a), (.not, fun _ a => ~~~a),
   (.popc, fun w a => BitVec.ofNat w ((List.range w).filter (fun i => a.getLsbD i)).length),
   (.clz, fun w a => BitVec.ofNat w (((List.range w).find? (fun i => a.getMsbD i)).getD w)),
   (.ctz, fun w a => BitVec.ofNat w (((List.range w).find? (fun i => a.getLsbD i)).getD w))]

/-- R51: the immediate forms, on whole lanes; `x` is the immediate. -/
def laneImmediate : List ((LI → Instr) × (LI → ExtTarget) × (Word → Word → Word)) :=
  [(.addi, .addi, fun a x => a + x), (.muli, .muli, fun a x => a * x), (.andi, .andi, fun a x => a &&& x),
   (.ori, .ori, fun a x => a ||| x), (.xori, .xori, fun a x => a ^^^ x)]

/-- R51: the shifts by a constant. -/
def laneShift : List ((LSh → Instr) × (Word → Nat → Word)) :=
  [(.shli, fun a n => a <<< n), (.shri, fun a n => a >>> n), (.sari, fun a n => a.sshiftRight n)]

/-- The conditions of CMP and GCMP (R52). -/
def ccSays (c : CC) (w : Nat) (a b : BitVec w) : Bool :=
  match c with
  | .eq => a = b
  | .ne => a ≠ b
  | .lt => a.toInt < b.toInt
  | .ge => a.toInt ≥ b.toInt
  | .ltn => a.toNat < b.toNat
  | .gen => a.toNat ≥ b.toNat
  | .tst => a &&& b ≠ 0

/-- How a condition joins what the predicate held (R30). -/
def cmbSays (m : Cmb) (d c : Bool) : Bool :=
  match m with
  | .set => c
  | .and => d && c
  | .or => d || c
  | .xor => d != c

/-- R53: the two-source forms. -/
def predLogic : List ((LQ → Instr) × (Bool → Bool → Bool)) :=
  [(.pand, fun a b => a && b), (.por, fun a b => a || b), (.pxor, fun a b => a != b), (.pandn, fun a b => a && !b)]

/-- Registers of a unit that reads two lane registers and writes a lane predicate. -/
def useCmp (pg pd : BitVec 3) (va vb : BitVec 6) : Use :=
  { pg := some pg.toNat, badPred := pd = 0, vr := [(va.toNat, false), (vb.toNat, false)] }

/-- Registers of a unit that writes a lane predicate. -/
def usePred (pg pd : BitVec 3) : Use := { pg := some pg.toNat, badPred := pd = 0 }

end Sys2Proof.Machine

section
open Sys2Proof Sys2Proof.Machine

/-- R47: the fifteen LR forms write their result, reduced modulo 2^w, to every element of every executing lane and change nothing
else; MAD adds the prior vd, and waits while vd is empty and no other source traps. -/
def Obligations.LaneArithmeticWritesEveryElement : Prop :=
  ∀ (k : Issue) (o : LR),
    (∀ p ∈ laneTwoSource, k.Ready (use2 o.pg o.vd o.va o.vb o.ta o.tb) →
      LaneWrites k (use2 o.pg o.vd o.va o.vb o.ta o.tb) (p.1 o) o.vd.toNat 4 o.ty.bits (fun L e =>
        p.2 o.ty.bits (part o.ty.bits (k.src L o.va.toNat) e) (part o.ty.bits (k.src L o.vb.toNat) e))) ∧
    (k.Ready (use3 o.pg o.vd o.va o.vb o.ta o.tb) →
      LaneWrites k (use3 o.pg o.vd o.va o.vb o.ta o.tb) (.mad o) o.vd.toNat 4 o.ty.bits (fun L e =>
        part o.ty.bits (k.src L o.va.toNat) e * part o.ty.bits (k.src L o.vb.toNat) e
          + part o.ty.bits (k.src L o.vd.toNat) e)) ∧
    (k.Current → (use3 o.pg o.vd o.va o.vb o.ta o.tb).illReg k.t = false → k.t.vMark o.vd.toNat = .empty →
      (use3 o.pg o.vd o.va o.vb o.ta o.tb).emptyTrap k.t = none → exec (.mad o) k.s = .next (k.s.blocked))

/-- R48: high products, quotients, remainders and saturated sums, every corner included. -/
def Obligations.LaneDivisionAndSaturationWriteEveryElement : Prop :=
  ∀ (k : Issue) (o : LF), ∀ p ∈ laneFixed, k.Ready (use2 o.pg o.vd o.va o.vb false false) →
    LaneWrites k (use2 o.pg o.vd o.va o.vb false false) (p.1 o) o.vd.toNat 4 o.ty.bits (fun L e =>
      p.2 o.ty.bits (part o.ty.bits (k.src L o.va.toNat) e) (part o.ty.bits (k.src L o.vb.toNat) e))

/-- R49: bit fields taken out and put in, and PRMB's choice of bytes. -/
def Obligations.BitFieldsAndByteChoice : Prop :=
  ∀ (k : Issue) (o : LF),
    (k.Ready (use2 o.pg o.vd o.va o.vb false false) →
      LaneWrites k (use2 o.pg o.vd o.va o.vb false false) (.bfxn o) o.vd.toNat 4 o.ty.bits (fun L e =>
        let a := part o.ty.bits (k.src L o.va.toNat) e
        let b := part o.ty.bits (k.src L o.vb.toNat) e
        (a &&& fieldMask o.ty.bits b) >>> fieldPos o.ty.bits b) ∧
      LaneWrites k (use2 o.pg o.vd o.va o.vb false false) (.bfx o) o.vd.toNat 4 o.ty.bits (fun L e =>
        let a := part o.ty.bits (k.src L o.va.toNat) e
        let b := part o.ty.bits (k.src L o.vb.toNat) e
        let m := fieldMask o.ty.bits b
        if a.getLsbD (fieldPos o.ty.bits b + fieldLen o.ty.bits b - 1) then
          ((a &&& m) >>> fieldPos o.ty.bits b) ||| ~~~(m >>> fieldPos o.ty.bits b)
        else (a &&& m) >>> fieldPos o.ty.bits b)) ∧
    (k.Ready (use3 o.pg o.vd o.va o.vb false false) →
      LaneWrites k (use3 o.pg o.vd o.va o.vb false false) (.bfi o) o.vd.toNat 4 o.ty.bits (fun L e =>
        let a := part o.ty.bits (k.src L o.va.toNat) e
        let b := part o.ty.bits (k.src L o.vb.toNat) e
        let d := part o.ty.bits (k.src L o.vd.toNat) e
        (d &&& ~~~(fieldMask o.ty.bits b)) ||| ((a <<< fieldPos o.ty.bits b) &&& fieldMask o.ty.bits b)) ∧
      LaneWrites k (use3 o.pg o.vd o.va o.vb false false) (.prmb o) o.vd.toNat 4 8 (fun L e =>
        let c := ((k.src L o.vb.toNat).extractLsb' (4 * e) 4).toNat
        if c < 8 then part 8 (k.src L o.va.toNat) c else part 8 (k.src L o.vd.toNat) (c - 8)))

/-- R50, R51 and R25: the unary forms on elements, BREV on the whole lane; the immediate forms on whole lanes, with a sign-extended
ten-bit immediate or, under an EXT prefix, one of 35 bits (a unit of two words); MOVI; the shifts by a constant. -/
def Obligations.LaneUnaryAndImmediateForms : Prop :=
  (∀ (k : Issue) (o : LU), k.Ready (use1 o.pg o.vd o.va o.ta) →
    (∀ p ∈ laneUnary, LaneWrites k (use1 o.pg o.vd o.va o.ta) (p.1 o) o.vd.toNat 4 o.ty.bits (fun L e =>
      p.2 o.ty.bits (part o.ty.bits (k.src L o.va.toNat) e))) ∧
    LaneWrites k (use1 o.pg o.vd o.va o.ta) (.brev o) o.vd.toNat 4 64 (fun L _ => part 64 (k.src L o.va.toNat).reverse 0)) ∧
  (∀ (k : Issue) (hi : BitVec 25),
    (∀ o : LI, ∀ p ∈ laneImmediate, k.Ready (use1 o.pg o.vd o.va false) →
      LaneWrites k (use1 o.pg o.vd o.va false) (p.1 o) o.vd.toNat 4 64 (fun L _ =>
        part 64 (p.2.2 (k.src L o.va.toNat) (o.imm.signExtend 64)) 0) ∧
      LaneWrites k (use1 o.pg o.vd o.va false) (.ext hi (p.2.1 o)) o.vd.toNat 8 64 (fun L _ =>
        part 64 (p.2.2 (k.src L o.va.toNat) ((hi ++ o.imm).signExtend 64)) 0)) ∧
    (∀ o : LSh, ∀ p ∈ laneShift, k.Ready (use1 o.pg o.vd o.va false) →
      LaneWrites k (use1 o.pg o.vd o.va false) (p.1 o) o.vd.toNat 4 64 (fun L _ =>
        part 64 (p.2 (k.src L o.va.toNat) o.c.toNat) 0)) ∧
    (∀ o : LMov, k.Ready (use0 o.pg o.vd) →
      LaneWrites k (use0 o.pg o.vd) (.movi o) o.vd.toNat 4 64 (fun _ _ => part 64 (o.imm.signExtend 64) 0) ∧
      LaneWrites k (use0 o.pg o.vd) (.ext hi (.movi o)) o.vd.toNat 8 64 (fun _ _ => part 64 ((hi ++ o.imm).signExtend 64) 0)))

/-- R52 to R54: CMP compares sub-element 0 and combines the outcome with pd as it stood; predicate logic per executing lane; SEL's choice
between whole lanes. -/
def Obligations.LanePredicatesAndSelection : Prop :=
  (∀ (k : Issue) (o : LC), k.Ready (useCmp o.pg o.pd o.va o.vb) →
    PredWrites k (useCmp o.pg o.pd o.va o.vb) (.cmp o) o.pd.toNat (fun L =>
      cmbSays o.cmb (k.pred L o.pd.toNat)
        (ccSays o.cc o.ty.bits (part o.ty.bits (k.src L o.va.toNat) 0) (part o.ty.bits (k.src L o.vb.toNat) 0)))) ∧
  (∀ (k : Issue),
    (∀ o : LQ, ∀ p ∈ predLogic, k.Ready (usePred o.pg o.pd) →
      PredWrites k (usePred o.pg o.pd) (p.1 o) o.pd.toNat (fun L => p.2 (k.pred L o.pa.toNat) (k.pred L o.pb.toNat))) ∧
    (∀ pg pd pa : BitVec 3, k.Ready (usePred pg pd) →
      PredWrites k (usePred pg pd) (.pnot pg pd pa) pd.toNat (fun L => !k.pred L pa.toNat) ∧
      PredWrites k (usePred pg pd) (.pset pg pd) pd.toNat (fun _ => true) ∧
      PredWrites k (usePred pg pd) (.pclr pg pd) pd.toNat (fun _ => false)) ∧
    (∀ o : LSel, k.Ready (use2 o.pg o.vd o.va o.vb false false) →
      LaneWrites k (use2 o.pg o.vd o.va o.vb false false) (.sel o) o.vd.toNat 4 64 (fun L _ =>
        part 64 (if k.pred L o.ps.toNat != o.inv then k.src L o.va.toNat else k.src L o.vb.toNat) 0)))

end

/-! ### Floating point, conversions, moves between lanes -/

namespace Sys2Proof.Machine

/-- R188, R189, R191: the forms of two sources on elements of a format. -/
def floatTwoSource : List ((FR → Instr) × (Fmt → FEnv → Nat → Nat → Nat → FRes)) :=
  [(.fadd, fAdd), (.fsub, fSub), (.fmul, fMul), (.fdiv, fDiv), (.fscl, fScl),
   (.fmin, fun f v _ a b => fMinMax false f v.daz a b), (.fmax, fun f v _ a b => fMinMax true f v.daz a b)]

/-- R192: the computed forms. -/
def floatOneSource : List ((FU → Instr) × (FF → FEnv → Nat → Nat → FRes)) :=
  [(.sqrt, fun c => fSqrt c.fmt), (.rcp, fun c => fRcp c.fmt), (.rsq, fun c v _ => fRsq c v), (.exp2, fun c v _ => fExp2 c v),
   (.log2, fun c v _ => fLog2 c v), (.sin, fun c v _ => fSin c v), (.cos, fun c v _ => fCos c v), (.tanh, fun c v _ => fTanh c v)]

/-- The conditions of FCMP (R194): on ordered operands from less-than and greater-than, on unordered ones. -/
def fccSays (c : FCC) (nan lt gt : Bool) : Bool :=
  match c with
  | .eq => !nan && !lt && !gt
  | .ne => nan || lt || gt
  | .lt => !nan && lt
  | .le => !nan && !gt
  | .gt => !nan && gt
  | .ge => !nan && !lt
  | .un => nan
  | .od => !nan

/-- The element index that an XLANE form reads for its element j from the number n (R205). -/
def crossIndex : List ((LF → Instr) × (Nat → Nat → Option Nat)) :=
  [(.shfl, fun _ n => some n), (.shup, fun j n => if n ≤ j then some (j - n) else none), (.shdn, fun j n => some (j + n)),
   (.shxor, fun j n => some (j ^^^ n))]

/-- Registers of a unit that reads one lane register and writes a uniform one. -/
def useVG (pg : BitVec 3) (gd va : BitVec 6) (ta : Bool) : Use :=
  { pg := some pg.toNat, gw := [gd.toNat], vr := [(va.toNat, ta)] }

/-- The executing lanes in which predicate p is true. -/
def Issue.voters (k : Issue) (u : Use) (p : Nat) : List Nat := (k.lanes u).filter (fun L => k.pred L p)

/-- TSTAT.NOLANE is set when no lane executes (R59). -/
def Issue.noLane (k : Issue) (u : Use) (t : Team) : Team := if k.ex u = 0 then { t with nolane := true } else t

/-- The exact value of a finite element. -/
def FV.rat : FV → ℚ
  | .fin s m e => (if s then -1 else 1) * m * 2 ^ e
  | .nan _ => 0
  | .inf _ => 0

/-- The magnitude that bits m of a format stand for, the exponents going on past the largest. -/
def magRat (f : Fmt) (m : Nat) : ℚ :=
  ((if m < 2 ^ f.mb then m else m % 2 ^ f.mb + 2 ^ f.mb : Nat) : ℚ) * 2 ^ (f.emin + ((m / 2 ^ f.mb - 1 : Nat) : Int))

/-- R184: which of the neighbours lo and lo + 1, of values a and b with a ≤ x < b, the rounding of x in a mode is; `neg` is the sign
of what is rounded, X the draw under RSR. -/
def picks (rm : Rm) (X : Nat) (neg : Bool) (lo : Nat) (a x b : ℚ) : Nat :=
  if x = a then lo
  else match rm with
    | .rne => if x - a < b - x ∨ (x - a = b - x ∧ lo % 2 = 0) then lo else lo + 1
    | .rtz => lo
    | .rup => if neg then lo else lo + 1
    | .rdn => if neg then lo + 1 else lo
    | .rna => if x - a < b - x then lo else lo + 1
    | .rsr => if (x - a) / (b - a) + X / 2 ^ 64 < 1 then lo else lo + 1

/-- R185: x > 0 is tiny: rounded with the exponents unbounded below, it lies under the least normal number. Below that number such a
rounding has one more place than the format. -/
def tinyRat (f : Fmt) (rm : Rm) (X : Nat) (neg : Bool) (x : ℚ) : Bool :=
  let least := magRat f (2 ^ f.mb)
  let below := least - 2 ^ (f.emin - 1)
  decide (x < below) || (decide (x < least) && picks rm X neg (2 ^ (f.mb + 1) - 1) below x least = 2 ^ (f.mb + 1) - 1)

/-- R184 and R185: r is the rounding of the exact value ±x, x > 0, into a format. -/
def Rounded (f : Fmt) (v : FEnv) (X : Nat) (neg : Bool) (x : ℚ) (r : FRes) : Prop :=
  ∃ lo, magRat f lo ≤ x ∧ x < magRat f (lo + 1) ∧
    let m := picks v.rm X neg lo (magRat f lo) x (magRat f (lo + 1))
    r = if f.inf ≤ m then
          ⟨f.sign neg + overflowMag f v.rm neg, Fl.of + Fl.nx + (if overflowMag f v.rm neg = f.inf then Fl.nf else 0), true⟩
        else if v.ftz ∧ 0 < m ∧ m < 2 ^ f.mb then ⟨f.sign neg, Fl.uf + Fl.nx, true⟩
        else ⟨f.sign neg + m, if x = magRat f lo then 0 else Fl.nx + (if tinyRat f v.rm X neg x then Fl.uf else 0), true⟩

/-- The same of any exact value, zero with the sign z. -/
def RoundedTo (f : Fmt) (v : FEnv) (X : Nat) (z : Bool) (x : ℚ) (r : FRes) : Prop :=
  if x = 0 then r = ⟨f.sign z, 0, true⟩ else Rounded f v X (decide (x < 0)) |x| r

/-- R188: the sign of an exact zero sum of terms: theirs where all are zeros of one sign, else that of +0, or of -0 under RDN. -/
def sumSign (rm : Rm) (ts : List (ℚ × Bool)) : Bool :=
  if (∀ t ∈ ts, t = (0, true)) then true else if (∀ t ∈ ts, t = (0, false)) then false else rm = .rdn

/-- A finite factor product with its sign. -/
def FV.prod (a b : FV) : ℚ × Bool := (a.rat * b.rat, a.neg? != b.neg?)

/-- What code c of a narrow format stands for relative to its scale, the codes going on past the largest. -/
def codeRat (n : NF) (c : Nat) : ℚ := (magVal n c).1 * 2 ^ (magVal n c).2

/-- R201: the code and flags of one element of FCVTN, `x` being its bits, under the bound B and the scale 2^s. -/
def NarrowElement (n : NF) (v : FEnv) (X mu : Nat) (B : ℚ) (s : Int) (x code fl : Nat) (poison : Bool) : Prop :=
  let sg := if 2 ^ 31 ≤ x then 2 ^ (n.width - 1) else 0
  let clamped := fun (c : Nat) => c ≤ n.maxCode ∧ codeRat n c / 2 ^ mu ≤ B ∧
    ∀ c' ≤ n.maxCode, codeRat n c' / 2 ^ mu ≤ B → c' ≤ c
  match unpack F32 v.daz x with
  | .nan sn => fl = Fl.nf + (if sn then Fl.iv else 0) ∧
      (if n = .e4m3 then code = sg + 0x7F ∧ poison = false else if n = .e5m2 then code = sg + 0x7E ∧ poison = false
       else code = 0 ∧ poison = true)
  | .inf _ => poison = false ∧
      (if n = .e5m2 then code = sg + 0x7C ∧ fl = Fl.nf else ∃ c, clamped c ∧ code = sg + c ∧ fl = Fl.nf + Fl.cl)
  | .fin _ m e => poison = false ∧
      let y : ℚ := m * 2 ^ e * 2 ^ s * 2 ^ mu
      ∃ lo, codeRat n lo ≤ y ∧ y < codeRat n (lo + 1) ∧
        let r := picks v.rm X false lo (codeRat n lo) y (codeRat n (lo + 1))
        let big := n.maxCode < r ∨ B < codeRat n r / 2 ^ mu
        (∃ c, (if big then clamped c else c = r) ∧ code = sg + c) ∧
        fl = (if y = codeRat n lo then 0 else Fl.nx) + (if y ≠ 0 ∧ r = 0 then Fl.uf else 0) + (if big then Fl.cl else 0)

/-- The elements of the executing lanes in ascending index. -/
def Issue.elements (k : Issue) (u : Use) (w va : Nat) : List Nat :=
  (k.lanes u).flatMap (fun L => (List.range (64 / w)).map (fun e => (part w (k.src L va) e).toNat))

/-- R207: the prefix P_(j - 1) of a scan's elements and the flags of the combination that gave it, which is made under the
environment of the lane that holds its last element; P 0 is the identity. -/
def Issue.prefixes (k : Issue) (u : Use) (op : RedOp) (ty : BitVec 2) (va : Nat) : Nat → Nat × Nat
  | 0 => (redId op ty, 0)
  | j + 1 => redOp op ty (k.t'.lane (((k.lanes u)[j / (64 / redW op ty)]?).getD 0)).env (k.prefixes u op ty va j).1
      (((k.elements u (redW op ty) va)[j]?).getD 0)

end Sys2Proof.Machine

section
open Sys2Proof Sys2Proof.Machine

/-- R183, R184, R187 to R192: each element of each executing lane is the named operation of its operands' elements in the lane's
environment, with one draw for each rounding; FFMA and FDOT read the prior vd. What FADD to FDOT give is said by
RoundingKeepsRepresentableValues; where R192 bounds a result by ulps alone its bits are free (the model's choice, log 4). -/
def Obligations.LaneFloatArithmetic : Prop :=
  ∀ (k : Issue),
    (∀ o : FR, ∀ p ∈ floatTwoSource, k.Ready (use2 o.pg o.vd o.va o.vb o.ta o.tb) →
      exec (p.1 o) k.s = .next (k.floatDone (use2 o.pg o.vd o.va o.vb o.ta o.tb) o.vd.toNat o.ty.bits (64 / o.ty.bits) none
        (fun L v e X => p.2 o.ty.fmt v X (part o.ty.bits (k.src L o.va.toNat) e).toNat
          (part o.ty.bits (k.src L o.vb.toNat) e).toNat))) ∧
    (∀ o : FR, k.Ready (use3 o.pg o.vd o.va o.vb o.ta o.tb) →
      exec (.ffma o) k.s = .next (k.floatDone (use3 o.pg o.vd o.va o.vb o.ta o.tb) o.vd.toNat o.ty.bits (64 / o.ty.bits) none
        (fun L v e X => fFma o.ty.fmt v X (part o.ty.bits (k.src L o.va.toNat) e).toNat
          (part o.ty.bits (k.src L o.vb.toNat) e).toNat (part o.ty.bits (k.src L o.vd.toNat) e).toNat))) ∧
    (∀ o : HR, k.Ready (use3 o.pg o.vd o.va o.vb o.ta o.tb) →
      exec (.fdot o) k.s = .next (k.floatDone (use3 o.pg o.vd o.va o.vb o.ta o.tb) o.vd.toNat 32 2 none
        (fun L v e X => fDot (if o.bf then BF16 else F16) v X
          (part 16 (k.src L o.va.toNat) (2 * e)).toNat (part 16 (k.src L o.vb.toNat) (2 * e)).toNat
          (part 16 (k.src L o.va.toNat) (2 * e + 1)).toNat (part 16 (k.src L o.vb.toNat) (2 * e + 1)).toNat
          (part 32 (k.src L o.vd.toNat) e).toNat))) ∧
    (∀ o : FU, ∀ p ∈ floatOneSource, k.Ready (use1 o.pg o.vd o.va o.ta) →
      exec (p.1 o) k.s = .next (k.floatDone (use1 o.pg o.vd o.va o.ta) o.vd.toNat o.ty.bits (64 / o.ty.bits) none
        (fun L v e X => p.2 o.ty v X (part o.ty.bits (k.src L o.va.toNat) e).toNat)))

/-- R193: FABS and FNEG change the sign bit alone and raise nothing; FCLASS writes one bit of ten.
R194: FCMP compares element 0, raises IV for a signalling NaN, or for any NaN in the ordered conditions, and NF for a special
operand, and combines the outcome with pd. -/
def Obligations.SignsClassesAndFloatCompares : Prop :=
  (∀ (k : Issue) (o : FU), k.Ready (use1 o.pg o.vd o.va o.ta) →
    LaneWrites k (use1 o.pg o.vd o.va o.ta) (.fabs o) o.vd.toNat 4 o.ty.bits (fun L e =>
      part o.ty.bits (k.src L o.va.toNat) e &&& ~~~(BitVec.ofNat o.ty.bits 1 <<< (o.ty.bits - 1))) ∧
    LaneWrites k (use1 o.pg o.vd o.va o.ta) (.fneg o) o.vd.toNat 4 o.ty.bits (fun L e =>
      part o.ty.bits (k.src L o.va.toNat) e ^^^ (1 <<< (o.ty.bits - 1))) ∧
    (∃ c : Nat → Nat → Nat, (∀ L e, c L e < 10) ∧
      LaneWrites k (use1 o.pg o.vd o.va o.ta) (.fclass o) o.vd.toNat 4 o.ty.bits (fun L e => 1 <<< c L e) ∧
      ∀ L e, e < 64 / o.ty.bits → let x := part o.ty.bits (k.src L o.va.toNat) e
        let neg := x.getLsbD (o.ty.bits - 1)
        match unpack o.ty.fmt false x.toNat with
        | .nan s => c L e = if s then 8 else 9
        | .inf _ => c L e = if neg then 0 else 7
        | .fin _ m _ =>
          if m = 0 then c L e = if neg then 3 else 4
          else if m < 2 ^ o.ty.fmt.mb then c L e = if neg then 2 else 5
          else c L e = if neg then 1 else 6)) ∧
  (∀ (k : Issue) (o : FC), k.Ready (useCmp o.pg o.pd o.va o.vb) →
    exec (.fcmp o) k.s = .next (k.done 4 { k.team' (useCmp o.pg o.pd o.va o.vb) with
      lanes := mapLanes (k.ex (useCmp o.pg o.pd o.va o.vb)) (fun L x =>
        let a := unpack o.ty.fmt x.env.daz (part o.ty.bits (k.src L o.va.toNat) 0).toNat
        let b := unpack o.ty.fmt x.env.daz (part o.ty.bits (k.src L o.vb.toNat) 0).toNat
        let nan := a.isNan || b.isNan
        let iv := a.isSnan || b.isSnan || (nan && (o.cc = .lt || o.cc = .le || o.cc = .gt || o.cc = .ge))
        (x.setPred o.pd.toNat (cmbSays o.cmb (x.pred o.pd.toNat) (fccSays o.cc nan (ltV false a b) (ltV false b a)))).raise
          ((if iv then 1 else 0) + (if a.special || b.special then 32 else 0))) 0
        (k.team' (useCmp o.pg o.pd o.va o.vb)).lanes }))

/-- R195 to R203: conversions. The elements of a lane are as many as the wider of the two formats has; results above the last
element are zero. -/
def Obligations.Conversions : Prop :=
  ∀ (k : Issue),
    (∀ o : LCvt, k.Ready (use1 o.pg o.vd o.va o.ta) →
      exec (.fcvt o) k.s = .next (k.floatDone (use1 o.pg o.vd o.va o.ta) o.vd.toNat o.dst.bits (64 / max o.src.bits o.dst.bits) o.rm
        (fun L v e X => fCvt o.src.fmt o.dst.fmt v X (part o.src.bits (k.src L o.va.toNat) e).toNat))) ∧
    (∀ o : LCvtI, k.Ready (use1 o.pg o.vd o.va o.ta) →
      exec (.fcvti o) k.s = .next (k.floatDone (use1 o.pg o.vd o.va o.ta) o.vd.toNat o.iw.bits (64 / max o.ff.bits o.iw.bits) o.rm
        (fun L v e X => fCvtI o.ff.fmt v X o.uns o.iw.bits (part o.ff.bits (k.src L o.va.toNat) e).toNat)) ∧
      exec (.icvtf o) k.s = .next (k.floatDone (use1 o.pg o.vd o.va o.ta) o.vd.toNat o.ff.bits (64 / max o.iw.bits o.ff.bits) o.rm
        (fun L v e X => iCvtF o.ff.fmt v X o.uns o.iw.bits (part o.iw.bits (k.src L o.va.toNat) e).toNat))) ∧
    (∀ o : LW, k.Ready (use1 o.pg o.vd o.va o.ta) →
      exec (.fcvtw o) k.s = .next (k.floatDone (use1 o.pg o.vd o.va o.ta) o.vd.toNat o.ty.bits (if o.ty = .f64 then 1 else 2) none
        (fun L v e X => fCvtW o.nf o.ty.fmt v X ((k.src L o.va.toNat).extractLsb' 16 1).toNat
          (part 8 (k.src L o.va.toNat) e).toNat))) ∧
    (∀ o : HR, k.Ready (use2 o.pg o.vd o.va o.vb o.ta o.tb) →
      exec (.fcvtr o) k.s = .next (k.floatDone (use2 o.pg o.vd o.va o.vb o.ta o.tb) o.vd.toNat 16 2 none
        (fun L v e _ =>
          let n := min 28 ((k.src L o.vb.toNat).extractLsb' 56 8).toNat
          fCvtR (if o.bf then BF16 else F16) v n (((k.src L o.vb.toNat).extractLsb' (28 * e) n).toNat)
            (part 32 (k.src L o.va.toNat) e).toNat))) ∧
    (∀ o : LN, k.Ready (use2 o.pg o.vd o.va o.vb false false) →
      exec (.fcvtn o) k.s = .next (k.done 4 { k.team' (use2 o.pg o.vd o.va o.vb false false) with
        lanes := mapLanes (k.ex (use2 o.pg o.vd o.va o.vb false false)) (fun L x =>
          let r := fcvtnLane o.nf x.env x.gen (k.src L o.va.toNat) (k.src L o.vb.toNat)
          { (x.setReg o.vd.toNat r.1).raise r.2.1 with gen := r.2.2 }) 0
          (k.team' (use2 o.pg o.vd o.va o.vb false false)).lanes })) ∧
    (∀ o : LICvt, k.Ready (use1 o.pg o.vd o.va o.ta) →
      LaneWrites k (use1 o.pg o.vd o.va o.ta) (.icvt o) o.vd.toNat 4 o.dst.bits (fun L e =>
        if e < 64 / max o.src.bits o.dst.bits then
          let a := part o.src.bits (k.src L o.va.toNat) e
          let x : Int := if o.sgn then a.toInt else a.toNat
          if o.sat then (if o.sgn then clampS o.dst.bits x else clampU o.dst.bits x) else BitVec.ofInt o.dst.bits x
        else 0))

/-- Rounding leaves a representable value as it is and raises nothing: FCVT of a format to itself keeps every finite number
(but a subnormal under DAZ or FTZ), in every mode, whatever the draw.
R184, R185 and R188 to R190: the results of FADD, FSUB, FMUL, FDIV, FFMA and FDOT on finite elements are the exact result rounded
once: one of its two neighbours, the one that the mode or the draw says, with overflow, tininess and FTZ as the rules have it. That UF is
set under FTZ too where nothing is flushed is the model's choice (log 133).
R186 and R188: the operands that give NaN, infinities and zero without a rounding.
R201: the codes, flags, scale bit and poison of FCVTN. That DAZ is not applied to the bound is the model's reading (log 134), and so is
that RUP and RDN round the magnitude (log 68). -/
def Obligations.RoundingKeepsRepresentableValues : Prop :=
  (∀ (c : FF) (v : FEnv) (X a : Nat), a < 2 ^ c.bits → X < 2 ^ 64 →
    bitsOf a c.fmt.mb c.fmt.eb ≠ 2 ^ c.fmt.eb - 1 →
    (bitsOf a c.fmt.mb c.fmt.eb = 0 → a % 2 ^ c.fmt.mb ≠ 0 → v.daz = false ∧ v.ftz = false) →
    fCvt c.fmt c.fmt v X a = ⟨a, 0, true⟩) ∧
  (∀ (c : FF) (v : FEnv) (X a b d : Nat), X < 2 ^ 64 →
    let x := unpack c.fmt v.daz a
    let y := unpack c.fmt v.daz b
    let z := unpack c.fmt v.daz d
    x.special = false → y.special = false →
    RoundedTo c.fmt v X (sumSign v.rm [(x.rat, x.neg?), (y.rat, y.neg?)]) (x.rat + y.rat) (fAdd c.fmt v X a b) ∧
    RoundedTo c.fmt v X (sumSign v.rm [(x.rat, x.neg?), (y.rat, !y.neg?)]) (x.rat - y.rat) (fSub c.fmt v X a b) ∧
    RoundedTo c.fmt v X (x.neg? != y.neg?) (x.rat * y.rat) (fMul c.fmt v X a b) ∧
    (y.rat ≠ 0 → RoundedTo c.fmt v X (x.neg? != y.neg?) (x.rat / y.rat) (fDiv c.fmt v X a b)) ∧
    (z.special = false → RoundedTo c.fmt v X (sumSign v.rm [x.prod y, (z.rat, z.neg?)]) (x.rat * y.rat + z.rat)
      (fFma c.fmt v X a b d))) ∧
  (∀ (bf : Bool) (v : FEnv) (X a0 b0 a1 b1 d : Nat), X < 2 ^ 64 →
    let g := unpack (if bf then BF16 else F16) v.daz
    let z := unpack F32 v.daz d
    (g a0).special = false → (g b0).special = false → (g a1).special = false → (g b1).special = false → z.special = false →
    RoundedTo F32 v X (sumSign v.rm [(g a0).prod (g b0), (g a1).prod (g b1), (z.rat, z.neg?)])
      ((g a0).rat * (g b0).rat + (g a1).rat * (g b1).rat + z.rat) (fDot (if bf then BF16 else F16) v X a0 b0 a1 b1 d)) ∧
  (∀ (c : FF) (v : FEnv) (X a b : Nat),
    let x := unpack c.fmt v.daz a
    let y := unpack c.fmt v.daz b
    let iv := if x.isSnan || y.isSnan then Fl.iv else 0
    (x.isNan || y.isNan → ∀ r ∈ [fAdd c.fmt v X a b, fSub c.fmt v X a b, fMul c.fmt v X a b, fDiv c.fmt v X a b],
      r = ⟨c.fmt.qnan, Fl.nf + iv, false⟩) ∧
    (∀ s, x = .inf s →
      (y = .inf (!s) → fAdd c.fmt v X a b = ⟨c.fmt.qnan, Fl.nf + Fl.iv, false⟩) ∧
      (y = .inf s → fSub c.fmt v X a b = ⟨c.fmt.qnan, Fl.nf + Fl.iv, false⟩ ∧
        fAdd c.fmt v X a b = ⟨c.fmt.sign s + c.fmt.inf, Fl.nf, false⟩) ∧
      (y.isInf → fDiv c.fmt v X a b = ⟨c.fmt.qnan, Fl.nf + Fl.iv, false⟩) ∧
      (y.special = false →
        fAdd c.fmt v X a b = ⟨c.fmt.sign s + c.fmt.inf, Fl.nf, false⟩ ∧
        fDiv c.fmt v X a b = ⟨c.fmt.sign (s != y.neg?) + c.fmt.inf, Fl.nf, false⟩ ∧
        fMul c.fmt v X a b = if y.isZero then ⟨c.fmt.qnan, Fl.nf + Fl.iv, false⟩
          else ⟨c.fmt.sign (s != y.neg?) + c.fmt.inf, Fl.nf, false⟩)) ∧
    (x.special = false → y.isInf → fDiv c.fmt v X a b = ⟨c.fmt.sign (x.neg? != y.neg?), Fl.nf, false⟩) ∧
    (x.special = false → y.isZero → fDiv c.fmt v X a b = if x.isZero then ⟨c.fmt.qnan, Fl.nf + Fl.iv, false⟩
      else ⟨c.fmt.sign (x.neg? != y.neg?) + c.fmt.inf, Fl.dz + Fl.nf, false⟩)) ∧
  (∀ (n : NF) (v : FEnv) (gen va vb : Word), n ≠ .e8m0 →
    let E := (vb.extractLsb' 32 8).toNat
    let most := codeRat n n.maxCode
    let b := unpack F32 false (vb.extractLsb' 0 32).toNat
    let B := if b.special = false ∧ 0 < b.rat ∧ b.rat ≤ most then b.rat else most
    let s : Int := 127 - (E : Int)
    let el := fun (e : Nat) => (part 32 va e).toNat
    let fin := fun (e : Nat) => (unpack F32 v.daz (el e)).special = false
    let small := fun (e : Nat) => fin e ∧ |(unpack F32 v.daz (el e)).rat * 2 ^ s| < most / 2
    let mu := if n.sm ∧ small 0 ∧ small 1 then 1 else 0
    let next := fun (e : Nat) (g : Word) => if v.rm = .rsr ∧ fin e then draw g else g
    (E = 255 → fcvtnLane n v gen va vb = (BitVec.ofNat 64 (2 ^ 17), 0, gen)) ∧
    (E ≠ 255 → ∃ c0 c1 f0 f1 p0 p1,
      NarrowElement n v (draw gen).toNat mu B s (el 0) c0 f0 p0 ∧
      NarrowElement n v (draw (next 0 gen)).toNat mu B s (el 1) c1 f1 p1 ∧
      fcvtnLane n v gen va vb = (BitVec.ofNat 64 (c0 + c1 * 2 ^ 8 + mu * 2 ^ 16 + (if p0 || p1 then 2 ^ 17 else 0)), f0 ||| f1,
        next 1 (next 0 gen))))

/-- R58 and R59: the moves between lanes and the uniform side, with and without an executing lane.
R204, R205 and R209: a cross-lane read takes its element from the lane named, else from the highest source lane below it, and
keeps the prior value where there is none or the index names no lane; only the arm's executing lanes are read. -/
def Obligations.LaneMovesVotesAndCrossLaneReads : Prop :=
  (∀ (k : Issue),
    (∀ o : LMv, k.Ready { pg := some o.pg.toNat, vw := [o.rd.toNat], gr := [(o.ra.toNat, o.ta)] } →
      LaneWrites k { pg := some o.pg.toNat, vw := [o.rd.toNat], gr := [(o.ra.toNat, o.ta)] } (.bcast o) o.rd.toNat 4 64
        (fun _ _ => part 64 (k.t.greg o.ra.toNat) 0)) ∧
    (∀ o : LMv, k.Ready (useVG o.pg o.rd o.ra o.ta) →
      exec (.getl o) k.s = .next (k.done 4 (match (k.lanes (useVG o.pg o.rd o.ra o.ta)).head? with
        | none => { k.t' with nolane := true }
        | some L => k.t'.setG o.rd.toNat (k.src L o.ra.toNat)))) ∧
    (∀ o : LVote, k.Ready { pg := some o.pg.toNat, badPred := o.qd = 0 } →
      let u : Use := { pg := some o.pg.toNat, badPred := o.qd = 0 }
      exec (.voteAny o) k.s = .next (k.done 4 (k.noLane u (k.t'.setQ o.qd.toNat (decide (k.voters u o.pa.toNat ≠ []))))) ∧
      exec (.voteAll o) k.s = .next (k.done 4 (k.noLane u (k.t'.setQ o.qd.toNat
        (decide (k.voters u o.pa.toNat = k.lanes u)))))) ∧
    (∀ o : LVoteC, k.Ready { pg := some o.pg.toNat, gw := [o.gd.toNat] } →
      let u : Use := { pg := some o.pg.toNat, gw := [o.gd.toNat] }
      exec (.voteCnt o) k.s = .next (k.done 4 (k.noLane u (k.t'.setG o.gd.toNat
        (BitVec.ofNat 64 (k.voters u o.pa.toNat).length))))) ∧
    (∀ pg vd, k.Ready (use0 pg vd) →
      LaneWrites k (use0 pg vd) (.laneix pg vd) vd.toNat 4 64 (fun L _ => part 64 (BitVec.ofNat 64 L) 0))) ∧
  (∀ (k : Issue) (o : LF), ∀ p ∈ crossIndex, k.Ready (use2 o.pg o.vd o.va o.vb false false) →
    LaneWrites k (use2 o.pg o.vd o.va o.vb false false) (p.1 o) o.vd.toNat 4 o.ty.bits (fun L e =>
      let n := 64 / o.ty.bits
      let old := part o.ty.bits ((k.t'.lane L).reg o.vd.toNat) e
      match p.2 (L * n + e) (part o.ty.bits (k.src L o.vb.toNat) e).toNat with
      | none => old
      | some i =>
        if k.t.geom.lanes ≤ i / n then old
        else match k.sourceLane (use2 o.pg o.vd o.va o.vb false false) (i / n) with
          | none => old
          | some S => part o.ty.bits (k.src S o.va.toNat) (i % n)))

/-- R206 and R208: XRED combines every source element in the fixed tree, with the flags in the lowest source lane, or writes the
identity and sets NOLANE; a lone element is read as the op reads it.
R206: over integers the tree is the sum of the elements, or their AND, OR or XOR, in any order.
R206: MIN, MAX, MINN and MAXN of one element or more give one of them that is least, or greatest, as signed or unsigned numbers.
R207 and R208: each executing lane's elements of vd become the prefixes of the scan, inclusive or exclusive, each combined under the
environment of the lane that holds its element, which gets its flags; without a source lane nothing is written and NOLANE is set.
That a lone element is read as the op reads it is the model's reading (log 115), and so are the flags of the exclusive scan (log 18). -/
def Obligations.ReductionsAndScans : Prop :=
  (∀ (k : Issue) (o : LX), k.Ready (useVG o.pg o.vd o.va o.ta) →
    let u := useVG o.pg o.vd o.va o.ta
    exec (.xred o) k.s = .next (k.done 4 (match (k.lanes u).head? with
      | none => { k.t'.setG o.vd.toNat (BitVec.ofNat 64 (redId o.op o.ty)) with nolane := true }
      | some L0 =>
        let r := reduceAll o.op o.ty (k.t'.lane L0).env (k.elements u (redW o.op o.ty) o.va.toNat)
        { k.t'.setG o.vd.toNat (BitVec.ofNat 64 (r.1 % 2 ^ redW o.op o.ty)) with
          lanes := mapLanes (1 <<< L0) (fun _ x => x.raise r.2) 0 k.t'.lanes }))) ∧
  (∀ (ty : BitVec 2) (v : FEnv) (xs : List Nat), xs.length ≤ 65536 →
    (∀ x ∈ xs, x < 2 ^ (redIW ty).bits) →
    (treeRed (redOp .add ty v) 16 xs).1 % 2 ^ (redIW ty).bits = xs.sum % 2 ^ (redIW ty).bits ∧
    (treeRed (redOp .or ty v) 16 xs).1 = xs.foldr (· ||| ·) 0 ∧
    (treeRed (redOp .xor ty v) 16 xs).1 = xs.foldr (· ^^^ ·) 0 ∧
    (xs ≠ [] → (treeRed (redOp .and ty v) 16 xs).1 = xs.foldr (· &&& ·) (2 ^ (redIW ty).bits - 1)) ∧
    (treeRed (redOp .maxn ty v) 16 xs).1 = xs.foldr max 0 ∧
    (xs ≠ [] →
      ((treeRed (redOp .maxn ty v) 16 xs).1 ∈ xs ∧ ∀ x ∈ xs, x ≤ (treeRed (redOp .maxn ty v) 16 xs).1) ∧
      ((treeRed (redOp .minn ty v) 16 xs).1 ∈ xs ∧ ∀ x ∈ xs, (treeRed (redOp .minn ty v) 16 xs).1 ≤ x) ∧
      ((treeRed (redOp .max ty v) 16 xs).1 ∈ xs ∧ ∀ x ∈ xs,
        (BitVec.ofNat (redIW ty).bits x).toInt ≤ (BitVec.ofNat (redIW ty).bits (treeRed (redOp .max ty v) 16 xs).1).toInt) ∧
      ((treeRed (redOp .min ty v) 16 xs).1 ∈ xs ∧ ∀ x ∈ xs,
        (BitVec.ofNat (redIW ty).bits (treeRed (redOp .min ty v) 16 xs).1).toInt ≤ (BitVec.ofNat (redIW ty).bits x).toInt)) ∧
    (∀ op : RedOp, op ≠ .fadd → op ≠ .fmin → op ≠ .fmax → reduceAll op ty v xs = treeRed (redOp op ty v) 16 xs)) ∧
  (∀ (k : Issue) (o : LXS),
    let u : Use := { pg := some o.pg.toNat, vw := [o.vd.toNat], vr := [(o.va.toNat, o.ta)] }
    k.Ready u →
      (k.ex u = 0 → exec (.xscan o) k.s = .next (k.done 4 { k.t' with nolane := true })) ∧
      (k.ex u ≠ 0 →
        let w := redW o.op o.ty
        let n := 64 / w
        let P := k.prefixes u o.op o.ty o.va.toNat
        ∃ (val : Nat → Word) (fl : Nat → Nat),
          exec (.xscan o) k.s = .next (k.done 4 { k.team' u with
            lanes := mapLanes (k.ex u) (fun L x => (x.setReg o.vd.toNat (val L)).raise (fl L)) 0 (k.team' u).lanes }) ∧
          ∀ i L, (k.lanes u)[i]? = some L →
            (∀ e < n, part w (val L) e = BitVec.ofNat w (P (i * n + e + (if o.ex then 0 else 1))).1) ∧
            fl L = (List.range n).foldl (fun m e => m ||| (P (i * n + e + 1)).2) 0))

end

/-! ### Uniform instructions and control flow -/

namespace Sys2Proof.Machine

/-- R55: the two-source forms on 64-bit registers. -/
def uniTwoSource : List ((UR → Instr) × (Word → Word → Word)) :=
  [(.gadd, fun a b => a + b), (.gsub, fun a b => a - b), (.gmul, fun a b => a * b),
   (.gmin, fun a b => if a.toInt ≤ b.toInt then a else b), (.gmax, fun a b => if a.toInt ≤ b.toInt then b else a),
   (.gminn, fun a b => if a.toNat ≤ b.toNat then a else b), (.gmaxn, fun a b => if a.toNat ≤ b.toNat then b else a),
   (.gand, fun a b => a &&& b), (.gor, fun a b => a ||| b), (.gxor, fun a b => a ^^^ b),
   (.gshl, fun a b => a <<< (b.toNat % 64)), (.gshr, fun a b => a >>> (b.toNat % 64)),
   (.gsar, fun a b => a.sshiftRight (b.toNat % 64)), (.gmulh, fun a b => BitVec.ofInt 64 (a.toInt * b.toInt / 2 ^ 64)),
   (.gmulhn, fun a b => BitVec.ofNat 64 (a.toNat * b.toNat / 2 ^ 64)),
   (.gdiv, fun a b => if b = 0 then BitVec.allOnes 64 else a.sdiv b), (.gdivn, fun a b => if b = 0 then BitVec.allOnes 64 else a / b),
   (.grem, fun a b => if b = 0 then a else a.srem b), (.gremn, fun a b => if b = 0 then a else a % b)]

/-- R55: the unary forms. -/
def uniUnary : List ((UU → Instr) × (Word → Word)) :=
  [(.gpopc, fun a => BitVec.ofNat 64 ((List.range 64).filter (fun i => a.getLsbD i)).length),
   (.gclz, fun a => BitVec.ofNat 64 (((List.range 64).find? (fun i => a.getMsbD i)).getD 64)),
   (.gctz, fun a => BitVec.ofNat 64 (((List.range 64).find? (fun i => a.getLsbD i)).getD 64)),
   (.gnot, fun a => ~~~a), (.gneg, fun a => -a)]

/-- R56: the immediate forms, plain and as the target of an EXT prefix. -/
def uniImmediate : List ((UI → Instr) × (UI → ExtTarget) × (Word → Word → Word)) :=
  [(.gaddi, .gaddi, fun a x => a + x), (.gandi, .gandi, fun a x => a &&& x), (.gori, .gori, fun a x => a ||| x),
   (.gxori, .gxori, fun a x => a ^^^ x)]

/-- R57: the two-source forms of QLOG. -/
def uniLogic : List ((UQ → Instr) × (Bool → Bool → Bool)) :=
  [(.qlogPand, fun a b => a && b), (.qlogPor, fun a b => a || b), (.qlogPxor, fun a b => a != b), (.qlogPandn, fun a b => a && !b)]

/-- Registers of GMOVH, which keeps half of gd. -/
def useMovh (qg : BitVec 3) (gd : BitVec 6) : Use := { qg := qg.toNat, gw := [gd.toNat], gr := [(gd.toNat, false)] }

/-- The registers of a unit that a false guard qg ends, where its guard decides all of it: the unary, immediate, comparing and
selecting forms, CALL, GETC and the chapter 6 forms (R43, R110). -/
def guardedUse : Instr → Option Use
  | .gpopc o | .gclz o | .gctz o | .gnot o | .gneg o => some (useU1 o.qg o.gd o.ga)
  | .gaddi o | .gandi o | .gori o | .gxori o => some (useU1 o.qg o.gd o.ga)
  | .gshli o | .gshri o => some (useU1 o.qg o.gd o.ga)
  | .ext _ (.gaddi o) | .ext _ (.gandi o) | .ext _ (.gori o) | .ext _ (.gxori o) => some (useU1 o.qg o.gd o.ga)
  | .gmovi o | .ext _ (.gmovi o) => some { qg := o.qg.toNat, gw := [o.gd.toNat] }
  | .gmovh o | .ext _ (.gmovh o) => some (useMovh o.qg o.gd)
  | .gcmp o => some { qg := o.qg.toNat, badPred := o.qd = 0, gr := [(o.ga.toNat, false), (o.gb.toNat, false)] }
  | .qlogPand o | .qlogPor o | .qlogPxor o | .qlogPandn o => some { qg := o.qg.toNat, badPred := o.qd = 0 }
  | .qlogPnot qg qd _ | .qlogPset qg qd | .qlogPclr qg qd => some { qg := qg.toNat, badPred := qd = 0 }
  | .gsel o => some (useU2 o.qg o.gd o.ga o.gb)
  | .call qg gd _ | .getc qg gd _ | .bclose qg gd _ => some { qg := qg.toNat, gw := [gd.toNat] }
  | .fence qg .. | .barGang qg | .pause qg | .btag qg _ => some { qg := qg.toNat }
  | .barArr o | .barSync o => some (barUse o)
  | .barWait qg b => some { qg := qg.toNat, bars := [b.toNat] }
  | .cachePub o | .cacheInvl o | .cacheDrop o | .cachePref o => some (cacheUse o)
  | .pauseWatch qg gh go => some { qg := qg.toNat, gr := [(gh.toNat, false), (go.toNat, false)] }
  | .hnarrow o perm => some (if perm.getLsbD 3
      then { qg := o.qg.toNat, gr := [(o.ga.toNat, false)], gn := [o.gb.toNat], gw := [o.gd.toNat] }
      else { qg := o.qg.toNat, gr := [(o.ga.toNat, false), (o.gb.toNat, false), (o.gb.toNat + 1, false)], gw := [o.gd.toNat] })
  | .palq o _ => some (useU1 o.qg o.gd o.ga)
  | _ => none

/-- What GMOVH leaves in gd (R25). -/
def movh (x old : Word) : Word := x.extractLsb' 0 32 ++ old.extractLsb' 0 32

end Sys2Proof.Machine

section
open Sys2Proof Sys2Proof.Machine

/-- R55, R56 and R25: the uniform forms write gd once for the arm and change nothing else; the immediates, plain and under EXT; GMOVH
replaces the upper half alone. -/
def Obligations.UniformArithmeticAndImmediates : Prop :=
  (∀ (k : Issue),
    (∀ o : UR, ∀ p ∈ uniTwoSource, k.Ready (useU2 o.qg o.gd o.ga o.gb) →
      exec (p.1 o) k.s = .next (k.done 4 (k.t.setG o.gd.toNat (p.2 (k.t.greg o.ga.toNat) (k.t.greg o.gb.toNat))))) ∧
    (∀ o : UU, ∀ p ∈ uniUnary, k.Ready (useU1 o.qg o.gd o.ga) →
      exec (p.1 o) k.s = .next (k.done 4 (k.t.setG o.gd.toNat (p.2 (k.t.greg o.ga.toNat)))))) ∧
  (∀ (k : Issue) (hi : BitVec 25),
    (∀ o : UI, ∀ p ∈ uniImmediate, k.Ready (useU1 o.qg o.gd o.ga) →
      exec (p.1 o) k.s = .next (k.done 4 (k.t.setG o.gd.toNat (p.2.2 (k.t.greg o.ga.toNat) (o.imm.signExtend 64)))) ∧
      exec (.ext hi (p.2.1 o)) k.s =
        .next (k.done 8 (k.t.setG o.gd.toNat (p.2.2 (k.t.greg o.ga.toNat) ((hi ++ o.imm).signExtend 64))))) ∧
    (∀ o : USh, k.Ready (useU1 o.qg o.gd o.ga) →
      exec (.gshli o) k.s = .next (k.done 4 (k.t.setG o.gd.toNat (k.t.greg o.ga.toNat <<< o.c.toNat))) ∧
      exec (.gshri o) k.s = .next (k.done 4 (k.t.setG o.gd.toNat (k.t.greg o.ga.toNat >>> o.c.toNat)))) ∧
    (∀ o : UMov, k.Ready { qg := o.qg.toNat, gw := [o.gd.toNat] } →
      exec (.gmovi o) k.s = .next (k.done 4 (k.t.setG o.gd.toNat (o.imm.signExtend 64))) ∧
      exec (.ext hi (.gmovi o)) k.s = .next (k.done 8 (k.t.setG o.gd.toNat ((hi ++ o.imm).signExtend 64)))) ∧
    (∀ o : UMov, k.Ready (useMovh o.qg o.gd) →
      exec (.gmovh o) k.s = .next (k.done 4 (k.t.setG o.gd.toNat (movh (o.imm.signExtend 64) (k.t.greg o.gd.toNat)))) ∧
      exec (.ext hi (.gmovh o)) k.s =
        .next (k.done 8 (k.t.setG o.gd.toNat (movh ((hi ++ o.imm).signExtend 64) (k.t.greg o.gd.toNat))))))

/-- R57: GCMP, the forms of QLOG, GSEL. -/
def Obligations.UniformPredicatesAndSelection : Prop :=
  ∀ (k : Issue),
    (∀ o : UC, k.Ready { qg := o.qg.toNat, badPred := o.qd = 0, gr := [(o.ga.toNat, false), (o.gb.toNat, false)] } →
      exec (.gcmp o) k.s = .next (k.done 4 (k.t.setQ o.qd.toNat (cmbSays o.cmb (k.t.qpred o.qd.toNat)
        (ccSays o.cc 64 (k.t.greg o.ga.toNat) (k.t.greg o.gb.toNat)))))) ∧
    (∀ o : UQ, ∀ p ∈ uniLogic, k.Ready { qg := o.qg.toNat, badPred := o.qd = 0 } →
      exec (p.1 o) k.s = .next (k.done 4 (k.t.setQ o.qd.toNat (p.2 (k.t.qpred o.qa.toNat) (k.t.qpred o.qb.toNat))))) ∧
    (∀ qg qd qa : BitVec 3, k.Ready { qg := qg.toNat, badPred := qd = 0 } →
      exec (.qlogPnot qg qd qa) k.s = .next (k.done 4 (k.t.setQ qd.toNat (!k.t.qpred qa.toNat))) ∧
      exec (.qlogPset qg qd) k.s = .next (k.done 4 (k.t.setQ qd.toNat true)) ∧
      exec (.qlogPclr qg qd) k.s = .next (k.done 4 (k.t.setQ qd.toNat false))) ∧
    (∀ o : USel, k.Ready (useU2 o.qg o.gd o.ga o.gb) →
      exec (.gsel o) k.s = .next (k.done 4 (k.t.setG o.gd.toNat
        (if k.t.qpred o.qs.toNat != o.inv then k.t.greg o.ga.toNat else k.t.greg o.gb.toNat))))

/-- R15, R19, R43 and R110: a uniform unit whose guard is false has no effect on the arm but to pass to the word after it. A fault on
the uniform operand of RET, BRX or SETC is raised all the same; that these are such faults, and that LBRK has none, is the model's
reading (log 14, DEDUCED). -/
def Obligations.FalseUniformGuardHasNoEffect : Prop :=
  ∀ (k : Issue), k.Current →
    (∀ o : UR, ∀ p ∈ uniTwoSource, (useU2 o.qg o.gd o.ga o.gb).illReg k.t = false →
      (useU2 o.qg o.gd o.ga o.gb).waits k.t = false → k.t.qpred o.qg.toNat = false →
      exec (p.1 o) k.s = .next (finish k.s k.tid k.f 4)) ∧
    (∀ qg imm, k.t.qpred qg.toNat = false → exec (.trap qg imm) k.s = .next (finish k.s k.tid k.f 4)) ∧
    (∀ qg (ga : BitVec 6), ga.toNat < k.t.geom.gregs → k.t.gMark ga.toNat ≠ .empty → k.t.qpred qg.toNat = false →
      let s' := if (k.t.greg ga.toNat).toNat % 4 = 0 then finish k.s k.tid k.f 4 else k.afterTrap 4 0x01 (k.t.greg ga.toNat)
      exec (.ret qg ga) k.s = .next s' ∧ exec (.brx qg ga) k.s = .next s') ∧
    (∀ qg, k.t.qpred qg.toNat = false → exec (.lbrk qg) k.s = .next (finish k.s k.tid k.f 4)) ∧
    (∀ i u, guardedUse i = some u → u.illReg k.t = false → u.waits k.t = false → k.t.qpred u.qg = false →
      exec i k.s = .next (finish k.s k.tid k.f (unitBytes i))) ∧
    (∀ qg (ga : BitVec 6) (c : CReg), ga.toNat < k.t.geom.gregs → k.t.gMark ga.toNat ≠ .empty → k.t.qpred qg.toNat = false →
      let x := k.t.greg ga.toNat
      let bad := c = .fpctl ∧ 6 ≤ x.toNat % 8 ∨ c = .trapvec ∧ x.toNat % 4 ≠ 0
      exec (.setc qg ga c) k.s = .next (if bad then k.afterTrap 4 0x01 x else finish k.s k.tid k.f 4))

/-- R60, R67 and R22: direct branches, walker branches, calls and returns. A register target that is not a multiple of four traps
ILLOP with the target in TRAPINFO; that it does so whatever the guard is the model's reading (log 14, DEDUCED). A CALL whose guard is
false stands in FalseUniformGuardHasNoEffect. -/
def Obligations.BranchesCallsAndReturns : Prop :=
  ∀ (k : Issue),
    (k.Ready { } → ∀ (qg : BitVec 3) (inv : Bool) (off : BitVec 18),
      exec (.bra qg inv off) k.s = .next
        (if k.t.qpred qg.toNat != inv then k.goto k.t (k.target (off.signExtend 64)) else k.done 4 k.t)) ∧
    (∀ (qg : BitVec 3) (gd : BitVec 6) (off : BitVec 16), k.Ready { qg := qg.toNat, gw := [gd.toNat] } →
      exec (.call qg gd off) k.s = .next
        (k.goto (k.t.setG gd.toNat (k.a.pc + 4)) (k.target (off.signExtend 64)))) ∧
    (∀ (qg : BitVec 3) (ga : BitVec 6), k.Ready { gr := [(ga.toNat, false)] } →
      let s' := if (k.t.greg ga.toNat).toNat % 4 ≠ 0 then k.afterTrap 4 0x01 (k.t.greg ga.toNat)
        else if k.t.qpred qg.toNat then k.goto k.t (k.t.greg ga.toNat) else k.done 4 k.t
      exec (.ret qg ga) k.s = .next s' ∧ exec (.brx qg ga) k.s = .next s') ∧
    (k.Ready { } → ∀ (w f : BitVec 2) (inv : Bool) (off : BitVec 18),
      exec (.brw w f inv off) k.s = .next
        (if walkerFlag k.t w.toNat f.toNat != inv then k.goto k.t (k.target (off.signExtend 64)) else k.done 4 k.t))

/-- R61: BRD stamps its record and divides the arm's lanes: no lane taken, all taken, a serialised division, a split; its two
traps leave no effect.
R62: JSET builds a record, JSET.ADD adds lanes to one that carries the same join PC; their traps leave no effect.
That the F arm of a split makes the end-of-body check at its passing on is the model's choice (log 53, DESIGN CHOICE). -/
def Obligations.DivergingBranchesAndJoinRecords : Prop :=
  (∀ (k : Issue) (p j : BitVec 3) (inv : Bool) (off : BitVec 18), k.Ready { } →
    let A := k.a.active
    let T := if inv then A &&& ~~~(k.t.predMask p.toNat) else A &&& k.t.predMask p.toNat
    let F := A &&& ~~~T
    let jr := k.t.join j.toNat
    let ser := T ≠ 0 ∧ F ≠ 0 ∧ (k.t.armF.isSome = true ∨ k.a.inHandler = true)
    let t := ({ k.t with nextInst := k.t.nextInst + 1 } : Team).setJoin j.toNat ⟨none, A, 0, 0, jr.last, k.t.nextInst⟩
    let i : Instr := .brd p j inv off
    (jr.parkedT ||| jr.parkedF ≠ 0 → exec i k.s = .next (k.afterTrap 4 0x11 (BitVec.ofNat 64 (j.toNat + 256)))) ∧
    (jr.parkedT ||| jr.parkedF = 0 →
      (ser → 16 ≤ k.a.stack.length → exec i k.s = .next (k.afterTrap 4 0x11 (BitVec.ofNat 64 (j.toNat + 4 * 256)))) ∧
      (T = 0 → exec i k.s = .next (k.done 4 t)) ∧
      (T ≠ 0 → F = 0 → exec i k.s = .next (k.goto t (k.target (off.signExtend 64)))) ∧
      (ser → k.a.stack.length < 16 → exec i k.s = .next (k.s.setTeam k.tid (t.setArm k.f (some { k.a with
        pc := k.target (off.signExtend 64), active := T, stack := ⟨k.a.pc + 4, F⟩ :: k.a.stack })))) ∧
      (T ≠ 0 → F ≠ 0 → k.t.armF = none → k.a.inHandler = false → ∃ s', exec i k.s = .next s' ∧
        ∃ t', s'.team? k.tid = some t' ∧
          t'.armT = some { k.a with pc := k.target (off.signExtend 64), active := T, stack := [] } ∧
          t'.armF = some (({ k.a with active := F, age := 0, last := 0 } : Arm).advance 4) ∧
          (t'.join j.toNat).pending = A ∧ (t'.join j.toNat).pc = none ∧ (t'.join j.toNat).inst = k.t.nextInst ∧
          t'.nextInst = k.t.nextInst + 1 ∧ t'.lanes = k.t.lanes ∧ t'.g = k.t.g ∧ s'.mem = k.s.mem))) ∧
  (∀ (k : Issue) (j p : BitVec 3) (off : BitVec 18), k.Ready { } →
    let jr := k.t.join j.toNat
    let S := k.a.active &&& k.t.predMask p.toNat
    (jr.parkedT ||| jr.parkedF ≠ 0 →
      exec (.jset j p off) k.s = .next (k.afterTrap 4 0x11 (BitVec.ofNat 64 (j.toNat + 256)))) ∧
    (jr.parkedT ||| jr.parkedF = 0 →
      exec (.jset j p off) k.s = .next (k.done 4 (({ k.t with nextInst := k.t.nextInst + 1 } : Team).setJoin j.toNat
        ⟨some (k.target (off.signExtend 64)), S, 0, 0, jr.last, k.t.nextInst⟩))) ∧
    (jr.pc ≠ some (k.target (off.signExtend 64)) →
      exec (.jsetAdd j p off) k.s = .next (k.afterTrap 4 0x11 (BitVec.ofNat 64 (j.toNat + 3 * 256)))) ∧
    (jr.pc = some (k.target (off.signExtend 64)) →
      exec (.jsetAdd j p off) k.s = .next (k.done 4 (k.t.setJoin j.toNat { jr with pending := jr.pending ||| S }))))

/-- R63, R103, R104: a JOIN with no pending lane of the arm passes; one at another place than the record's traps; one that leaves
lanes pending parks its own; the last one releases every parked lane into its arm at the word after. That the loop stacks are compared
before the arm's own end-of-body check, and that an arm which parks all its lanes pops without one, is the model's choice (log 53). -/
def Obligations.JoinParksAndReleases : Prop :=
  ∀ (k : Issue) (j : BitVec 3), k.Ready { } →
    let A := k.a.active
    let jr := k.t.join j.toNat
    let P := A &&& jr.pending
    let theirs := if k.f then jr.parkedT else jr.parkedF
    let here := jr.pc = none ∨ jr.pc = some k.a.pc
    let other := k.t.arm? (!k.f)
    (P = 0 → exec (.join j) k.s = .next (k.done 4 k.t)) ∧
    (P ≠ 0 → ¬ here → exec (.join j) k.s = .next (k.afterTrap 4 0x11 (BitVec.ofNat 64 (j.toNat + 2 * 256)))) ∧
    (P ≠ 0 → here → P ≠ jr.pending →
      exec (.join j) k.s = .next (k.s.commitArms k.tid k.t.armF.isSome
        ((k.t.setJoin j.toNat { jr with
            pc := some k.a.pc, pending := jr.pending &&& ~~~P, last := k.f
            parkedT := if k.f then jr.parkedT else jr.parkedT ||| P
            parkedF := if k.f then jr.parkedF ||| P else jr.parkedF }).setArm k.f
          (some (if A &&& ~~~P = 0 then ({ k.a with active := A &&& ~~~P } : Arm).pop
            else ({ k.a with active := A &&& ~~~P } : Arm).advance 4))).settle)) ∧
    (P ≠ 0 → here → P = jr.pending → theirs = 0 →
      exec (.join j) k.s = .next (k.s.commitArms k.tid k.t.armF.isSome
        ((k.t.setJoin j.toNat { jr with pc := some k.a.pc, pending := 0, parkedT := 0, parkedF := 0, last := k.f }).setArm k.f
          (some (({ k.a with active := A ||| (jr.parkedT ||| jr.parkedF) } : Arm).advance 4))).settle)) ∧
    (P ≠ 0 → here → P = jr.pending → theirs ≠ 0 → ∀ b, other = some b →
      (b.loops ≠ k.a.loops → exec (.join j) k.s = .next (k.afterTrap 4 0x15 (BitVec.ofNat 64 (4 * 256)))) ∧
      (b.loops = k.a.loops →
        exec (.join j) k.s = .next (k.s.commitArms k.tid k.t.armF.isSome
          ((k.t.setJoin j.toNat { jr with pc := some k.a.pc, pending := 0, parkedT := 0, parkedF := 0, last := k.f }).setArm k.f
            (some ((({ k.a with active := A ||| (jr.parkedT ||| jr.parkedF) } : Arm).takeBoard b).advance 4))).settle)))

/-- R64, R103: EXIT takes its lanes out of the team and of every record; without one it passes. Where a record completes by it, the
parked lanes go to the arm that arrived last, and an arm whose stack is full traps JOIN instead. That completed records are released in
number order, and that an emptied arm first pops without an end-of-body check, is the model's choice (log 53). -/
def Obligations.ExitRemovesItsLanes : Prop :=
  ∀ (k : Issue) (p : BitVec 3) (inv : Bool), k.Ready { } →
    let A := k.a.active
    let X := if inv then A &&& ~~~(k.t.predMask p.toNat) else A &&& k.t.predMask p.toNat
    let rest := A &&& ~~~X
    let closing := (List.range 8).filter (fun j => (k.t.join j).parked ≠ 0 && (k.t.join j).pending ≠ 0 &&
      ((k.t.join j).pending &&& ~~~X) = 0)
    let a := ({ k.a with active := rest } : Arm)
    let t := (k.t.dropLanes X).setArm k.f (some (if rest = 0 then a.pop else a.advance 4))
    (X = 0 → exec (.exit p inv) k.s = .next (k.done 4 k.t)) ∧
    (X ≠ 0 → closing = [] → exec (.exit p inv) k.s = .next ((k.s.commitArms k.tid k.t.armF.isSome t.popArms).arriveDead k.tid)) ∧
    (X ≠ 0 → ∀ j, (releaseAll closing t).1 = some j →
      exec (.exit p inv) k.s = .next (k.afterTrap 4 0x11 (BitVec.ofNat 64 (j + 4 * 256)))) ∧
    (X ≠ 0 → (releaseAll closing t).1 = none →
      exec (.exit p inv) k.s = .next ((k.s.commitArms k.tid k.t.armF.isSome (releaseAll closing t).2.popArms).arriveDead k.tid)) ∧
    ((k.t.dropLanes X).live = k.t.live &&& ~~~X) ∧
    (∀ j, j < 8 → ((k.t.dropLanes X).join j).pending = (k.t.join j).pending &&& ~~~X)

/-- R65, R66, R19 and R96: LOOP enters or skips its body, LBRK leaves the innermost loop, and the word that ends a body goes back while
the count lasts; where it leaves a loop, the next enclosing one is checked in turn, whether or not it ends at the same word. That
BOUNDS comes before the causes of LOOP, and an empty count before a fifth loop, is the model's reading (log 23, DEDUCED). -/
def Obligations.LoopsCountTheirPasses : Prop :=
  ∀ (k : Issue),
    (∀ (ga : BitVec 6) (len : BitVec 16), k.Ready { gr := [(ga.toNat, false)] } →
      let last := k.a.pc + 4 * (len.setWidth 64)
      let g := k.t.greg ga.toNat
      let inCode := k.l.lr.code ≤ last.toNat ∧ last.toNat + 4 ≤ k.l.lr.code + k.l.lr.codeLen
      (¬ inCode → exec (.loop ga len) k.s = .next (k.afterTrap 4 0x07 last)) ∧
      (inCode →
        (g.extractLsb' 32 32 ≠ 0 → exec (.loop ga len) k.s = .next (k.afterTrap 4 0x15 (BitVec.ofNat 64 (1 * 256)))) ∧
      (g = 0 → exec (.loop ga len) k.s = .next (k.goto k.t (last + 4))) ∧
      (g.extractLsb' 32 32 = 0 → g ≠ 0 → 4 ≤ k.a.loops.length →
        exec (.loop ga len) k.s = .next (k.afterTrap 4 0x15 (BitVec.ofNat 64 (2 * 256)))) ∧
      (g.extractLsb' 32 32 = 0 → g ≠ 0 → k.a.loops.length < 4 →
        exec (.loop ga len) k.s = .next (k.s.setTeam k.tid (k.t.modArm k.f (fun a => { a with
          pc := k.a.pc + 4, loops := ⟨k.a.pc + 4, last, g.setWidth 32⟩ :: a.loops })))))) ∧
    (∀ qg : BitVec 3, k.Ready { qg := qg.toNat } →
      (k.a.loops = [] → exec (.lbrk qg) k.s = .next (k.afterTrap 4 0x15 (BitVec.ofNat 64 (3 * 256)))) ∧
      (∀ l r, k.a.loops = l :: r → exec (.lbrk qg) k.s = .next (k.s.setTeam k.tid (k.t.modArm k.f (fun a => { a with
        pc := l.last + 4, loops := r }))))) ∧
    (∀ (a : Arm) (l : LoopEntry) (r : List LoopEntry), a.loops = l :: r → a.pc = l.last →
      (l.count ≠ 1 → a.advance 4 = { a with pc := l.start, loops := { l with count := l.count - 1 } :: r }) ∧
      (l.count = 1 → (∀ x ∈ r, x.last ≠ l.last) → a.advance 4 = { a with pc := l.last + 4, loops := r })) ∧
    (∀ (a : Arm) (l : LoopEntry) (r : List LoopEntry) (len : Nat), a.loops = l :: r →
      a.pc + BitVec.ofNat 64 len - 4 = l.last → l.count = 1 →
      a.advance len = ({ a with loops := r } : Arm).advance len) ∧
    (∀ (a : Arm) (l : LoopEntry) (r : List LoopEntry) (len : Nat), a.loops = l :: r →
      a.pc + BitVec.ofNat 64 len - 4 = l.last → l.count ≠ 1 →
      a.advance len = { a with pc := l.start, loops := { l with count := l.count - 1 } :: r }) ∧
    (∀ (a : Arm), (∀ l ∈ a.loops, l.last ≠ a.pc) → a.advance 4 = { a with pc := a.pc + 4 })

end

/-! ### Loads, stores, atomics -/

namespace Sys2Proof.Machine

/-- R73: the TRAPINFO of a check that lanes fail: the number of the lowest mask word with a failing lane in [36:32], that word's lanes
in [31:0]. -/
def FailingLanes (bad : Nat → Prop) (info : Word) : Prop :=
  ∃ w m : Nat, w < 32 ∧ 0 < m ∧ m < 2 ^ 32 ∧ info = BitVec.ofNat 64 (w * 2 ^ 32 + m) ∧
    (∀ i < 32, m.testBit i = true ↔ bad (32 * w + i)) ∧ ∀ L < 32 * w, ¬ bad L

/-- The plain accesses of R73: the instruction, its registers, the permission bit it needs, whether it loads, and whether it is LDS. -/
def plainAccesses : List ((LM → Instr) × (LM → Use) × Nat × Bool × Bool) :=
  [(.ld, loadUse, 0, true, false), (.lds, loadUse, 0, true, true), (.st, storeUse, 1, false, false)]

/-- Registers of STM. -/
def stmUse (o : LM) : Use := { storeUse o with gr := [(o.gh.toNat, false), (o.gh.toNat + 1, false)] }

/-- The memory key of the first byte that lane L's STM writes on core c of the gang. -/
def Issue.stmKey (k : Issue) (e : PalEntry) (vo c L : Nat) : Nat :=
  k.l.allocKey (k.l.gangCore k.t.geom.core c) k.t.geom.block (e.base + k.off vo L)

end Sys2Proof.Machine

section
open Sys2Proof Sys2Proof.Machine

/-- R72 to R74: a load whose accesses pass every check starts: each sector is asked for once, under the word's policy. Without an
executing lane it passes; it waits behind an access of the team whose bytes it could overtake.
R16, R74, R86: a load that has started leaves its destination empty, its arm past the unit, every lane register, predicate and
byte of memory as it was. -/
def Obligations.LoadsStart : Prop :=
  (∀ (k : Issue) (o : LM) (e : PalEntry) (sx : Bool),
    let i : Instr := if sx then .lds o else .ld o
    let n := o.sz.bits / 8
    k.Ready (loadUse o) → k.s.held k.a true = false → k.Reaches (loadUse o) o.gh.toNat o.vo.toNat n .read e →
    e.AdmitsLoad k.s sx n o.pol.code →
    (k.lanes (loadUse o) ≠ [] → k.Follows (loadUse o) e o.vo.toNat n true → k.InOrder (loadUse o) e o.vo.toNat n o.pol.code →
      exec i k.s = .next (finish (startLoad (k.ctx (loadUse o) 4) e (k.before (loadUse o) true) o.vd.toNat n o.pol.code sx .plain
        (k.keys (loadUse o) e o.vo.toNat) (k.spans (loadUse o) e o.vo.toNat n true).flatten) k.tid k.f 4)) ∧
    (k.lanes (loadUse o) ≠ [] → ¬ k.Follows (loadUse o) e o.vo.toNat n true → exec i k.s = .next k.s.blocked) ∧
    (k.lanes (loadUse o) = [] → exec i k.s = .next (finish (k.before (loadUse o) true) k.tid k.f 4))) ∧
  (∀ (k : Issue) (o : LM) (e : PalEntry) (sx : Bool) (s' : State),
    let i : Instr := if sx then .lds o else .ld o
    let n := o.sz.bits / 8
    k.Ready (loadUse o) → k.s.held k.a true = false → k.Reaches (loadUse o) o.gh.toNat o.vo.toNat n .read e →
    e.AdmitsLoad k.s sx n o.pol.code → k.lanes (loadUse o) ≠ [] → k.Follows (loadUse o) e o.vo.toNat n true →
    k.InOrder (loadUse o) e o.vo.toNat n o.pol.code → exec i k.s = .next s' →
    (∀ j, Memory.get s'.mem j = Memory.get k.s.mem j) ∧
    ∃ t a, s'.team? k.tid = some t ∧ t.arm? k.f = some a ∧ t.vMark o.vd.toNat = .empty ∧ a.pc = (k.a.advance 4).pc ∧
      a.loops = (k.a.advance 4).loops ∧ t.lanes = k.t'.lanes ∧ t.g = k.t.g ∧ t.q = k.t.q ∧ t.trap = k.t.trap ∧ t.joins = k.t.joins)

/-- R73, R153: LD, LDS and ST are checked in order, and the first check that fails is the trap taken, without another effect: no such
handle; NET, GANGCAST, or a group whose entry is not valid or that the form does not fit; no permission; a policy the entry does not
permit; a load from a sealed group; a misaligned lane, one outside the entry, one in a locked range, each with the lanes that fail;
a page whose translation refuses the access. -/
def Obligations.AccessChecksTrapInOrder : Prop :=
  ∀ (k : Issue) (o : LM), ∀ p ∈ plainAccesses,
    let n := o.sz.bits / 8
    let h := k.t.greg o.gh.toNat
    let u := p.2.1 o
    let load := p.2.2.2.1
    k.Ready u → k.s.held k.a load = false →
    (k.t'.handle k.s h = none → exec (p.1 o) k.s = .next (k.afterTrap 4 0x08 h)) ∧
    (∀ e, k.t'.handle k.s h = some e →
      let unfit := e.space = 9 ∨ e.space = 10 ∨
        (e.space = 7 ∧ (p.2.2.2.2 = true ∨ (load = true ∧ n ≠ rtypeBytes e.rtype) ∨ k.s.groupValid e.target = false)) ∨
        e.perm.testBit p.2.2.1 = false
      let sealedLoad := load = true ∧ e.space = 7 ∧ e.isSealed = true
      (unfit → exec (p.1 o) k.s = .next (k.afterTrap 4 0x08 h)) ∧
      (¬ unfit → e.polmask.testBit o.pol.code = false →
        exec (p.1 o) k.s = .next (k.afterTrap 4 0x09 (BitVec.ofNat 64 (o.pol.code + e.polmask * 256)))) ∧
      (¬ unfit → e.polmask.testBit o.pol.code = true → sealedLoad → exec (p.1 o) k.s = .next (k.afterTrap 4 0x0D h)) ∧
      (¬ unfit → e.polmask.testBit o.pol.code = true → ¬ sealedLoad →
        let crooked := fun L => L ∈ k.lanes u ∧ (k.off o.vo.toNat L % n ≠ 0 ∨ crosses k.l e (k.off o.vo.toNat L) n = true)
        let outside := fun L => L ∈ k.lanes u ∧ e.limit < k.off o.vo.toNat L + n
        let locked := fun L => L ∈ k.lanes u ∧
          lockedAt k.s k.t.geom.core k.l.ctx (placeOf k.l k.t.geom e L (k.off o.vo.toNat L)) n = true
        let refused := fun va => ∃ L ∈ k.lanes u, placeOf k.l k.t.geom e L (k.off o.vo.toNat L) = .va va ∧
          tlbLook k.s (coreUnit k.t.geom.core) k.l.ctx va (if load then .read else .write) = .fatal va
        ((∃ L, crooked L) → ∃ info, FailingLanes crooked info ∧ exec (p.1 o) k.s = .next (k.afterTrap 4 0x06 info)) ∧
        ((∀ L, ¬ crooked L) → (∃ L, outside L) →
          ∃ info, FailingLanes outside info ∧ exec (p.1 o) k.s = .next (k.afterTrap 4 0x07 info)) ∧
        ((∀ L, ¬ crooked L) → (∀ L, ¬ outside L) → (∃ L, locked L) →
          ∃ info, FailingLanes locked info ∧ exec (p.1 o) k.s = .next (k.afterTrap 4 0x0C info)) ∧
        ((∀ L, ¬ crooked L) → (∀ L, ¬ outside L) → (∀ L, ¬ locked L) → (∃ va, refused va) →
          ∃ va, refused va ∧
            exec (p.1 o) k.s = .next (k.afterTrap 4 0x0B (BitVec.ofNat 64 (va + if load then 0 else 2 ^ 63))))))

/-- R73 and R74: a plain store whose accesses pass every check sends off, sector by sector, the bytes of its lanes, the highest
lane's byte standing where they overlap; issue itself changes no byte of memory. That a store waits for an earlier access of its
team to the same bytes that goes another way is the model's choice (log 60, DESIGN CHOICE).
R74, R142, R146, R148, R173: a store's bytes in one sector of a scratchpad or of the Gallery are changed by its bank, all at once,
when they arrive there: exactly those bytes, and the store is acknowledged to its core. -/
def Obligations.StoresPerform : Prop :=
  (∀ (k : Issue) (o : LM) (e : PalEntry),
    let n := o.sz.bits / 8
    k.Ready (storeUse o) → k.s.held k.a false = false → k.Reaches (storeUse o) o.gh.toNat o.vo.toNat n .write e →
    e.AdmitsStore k.s o.pol.code →
    (k.lanes (storeUse o) ≠ [] → k.Follows (storeUse o) e o.vo.toNat n false →
      exec (.st o) k.s = .next (finish (storeAll (k.ctx (storeUse o) 4) e ((k.ctx (storeUse o) 4).req false []) o.pol.code
        (k.before (storeUse o) false) (lastCells (k.stored (storeUse o) e o.vd.toNat o.vo.toNat n))
        (k.sectorSpans (storeUse o) e o.vo.toNat n)) k.tid k.f 4)) ∧
    (k.lanes (storeUse o) ≠ [] → ¬ k.Follows (storeUse o) e o.vo.toNat n false → exec (.st o) k.s = .next k.s.blocked) ∧
    (k.lanes (storeUse o) = [] → exec (.st o) k.s = .next (finish (k.before (storeUse o) false) k.tid k.f 4))) ∧
  (∀ (k : Issue) (o : LM) (e : PalEntry) (s' : State),
    let n := o.sz.bits / 8
    k.Ready (storeUse o) → k.s.held k.a false = false → k.Reaches (storeUse o) o.gh.toNat o.vo.toNat n .write e →
    e.AdmitsStore k.s o.pol.code → k.Follows (storeUse o) e o.vo.toNat n false → exec (.st o) k.s = .next s' →
    (∀ j, Memory.get s'.mem j = Memory.get k.s.mem j) ∧
    (e.space ≤ 4 → ∀ x ∈ k.keys (storeUse o) e o.vo.toNat, ∃ m ∈ s'.coh.net, m.toHome = true ∧ m.core = k.t.geom.core ∧
      m.sector = x.2 / 64 ∧ ∃ cells op, m.body = .req (.write cells op) ∧
        ∀ j, x.2 ≤ j → j < x.2 + n → ∃ y ∈ k.keys (storeUse o) e o.vo.toNat, x.1 ≤ y.1 ∧ y.2 ≤ j ∧ j < y.2 + n ∧
          (j, part 8 (k.src y.1 o.vd.toNat) (j - y.2)) ∈ cells)) ∧
  (∀ (s : State) (a : Nat) (m : Msg) (cells : List (Nat × Byte)) (op : Nat),
    s.deliverable a = some m → m.toHome = true → m.body = .req (.write cells op) → bankSector m.sector = true →
    (s.dirEnt m.sector).held = false → ∃ s', exec (.homeWrite a) s = .next s' ∧
      (∀ j, Memory.get s'.mem j = (match cells.reverse.find? (fun c => c.1 = j) with
        | some c => c.2
        | none => Memory.get s.mem j)) ∧
      ∃ r ∈ s'.coh.net, r.toHome = false ∧ r.core = m.core ∧ r.sector = m.sector ∧ r.body = .ack op)

/-- R120: STM, checked in its order, sends each core of its mask a copy of its bytes, all of them, the highest lane's byte standing
where lanes overlap, and no core outside the mask anything; nothing is written before a copy is delivered. -/
def Obligations.MulticastStoresSendTheirCopies : Prop :=
  ∀ (k : Issue) (o : LM) (e : PalEntry),
    let n := o.sz.bits / 8
    let u := stmUse o
    let h := k.t.greg o.gh.toNat
    let cores := 2 ^ k.l.lr.gw * 2 ^ k.l.lr.gh
    let mask := k.t.greg (o.gh.toNat + 1)
    k.Ready u → k.s.held k.a false = false → k.t'.handle k.s h = some e →
    (e.space ≠ 10 ∨ e.perm.testBit 1 = false → exec (.stm o) k.s = .next (k.afterTrap 4 0x08 h)) ∧
    (e.space = 10 → e.perm.testBit 1 = true → e.polmask.testBit o.pol.code = false →
      exec (.stm o) k.s = .next (k.afterTrap 4 0x09 (BitVec.ofNat 64 (o.pol.code + e.polmask * 256)))) ∧
    (e.space = 10 → e.perm.testBit 1 = true → e.polmask.testBit o.pol.code = true →
      (2 ^ cores ≤ mask.toNat → exec (.stm o) k.s = .next (k.afterTrap 4 0x0E mask)) ∧
      (mask.toNat < 2 ^ cores → k.lanes u = [] → exec (.stm o) k.s = .next (finish (k.before u false) k.tid k.f 4)) ∧
      (mask.toNat < 2 ^ cores → (∀ L ∈ k.lanes u, k.off o.vo.toNat L % n = 0 ∧ k.off o.vo.toNat L + n ≤ e.limit) →
        (∀ c < cores, mask.getLsbD c = true → ∀ L ∈ k.lanes u,
          lockedAt k.s k.t.geom.core k.l.ctx (.bank (k.stmKey e o.vo.toNat c L)) n = false) →
        ∃ s' ms, exec (.stm o) k.s = .next s' ∧ (∀ j, Memory.get s'.mem j = Memory.get k.s.mem j) ∧
          s'.coh.net = k.s.coh.net ++ ms ∧ (mask = 0 → ms = []) ∧
          (∀ m ∈ ms, m.toHome = true ∧ m.core = k.t.geom.core ∧ ∃ cells op, m.body = .stmCopy cells op ∧
            ∀ x ∈ cells, x.1 / 64 = m.sector ∧ ∃ c < cores, mask.getLsbD c = true ∧ ∃ L ∈ k.lanes u, ∃ i < n,
              x = (k.stmKey e o.vo.toNat c L + i, part 8 (k.src L o.vd.toNat) i) ∧
              ∀ L' ∈ k.lanes u, ∀ i' < n, k.stmKey e o.vo.toNat c L' + i' = x.1 → L' ≤ L) ∧
          ∀ c < cores, mask.getLsbD c = true → ∀ L ∈ k.lanes u, ∀ i < n, ∃ m ∈ ms,
            m.sector = (k.stmKey e o.vo.toNat c L + i) / 64 ∧ ∃ cells op, m.body = .stmCopy cells op ∧
              ∃ L' ∈ k.lanes u, L ≤ L' ∧ ∃ i' < n, k.stmKey e o.vo.toNat c L' + i' = k.stmKey e o.vo.toNat c L + i ∧
                (k.stmKey e o.vo.toNat c L + i, part 8 (k.src L' o.vd.toNat) i') ∈ cells))

/-- R111 to R116: an atomic whose accesses pass every check is sent off lane by lane in ascending order, to another chip sector by
sector, and leaves its destination empty until the old values arrive. The order of the lanes is the model's choice (log 22), and so is
that it waits for an earlier access of its team to the same bytes that goes another way (log 60).
R113 to R115: what the atomic of one lane does when it arrives at a bank: the operation's value of the old bytes and the operand, in
little-endian order, every other byte as it was; the old value goes back to the lane. FADD gives the sum rounded to nearest even, with
subnormals kept and the canonical NaN; FMIN and FMAX give the numeric operand, else the lesser or greater with -0 below +0. -/
def Obligations.AtomicsPerform : Prop :=
  (∀ (k : Issue) (o : LA) (e : PalEntry) (wide : Bool),
    let i : Instr := if wide then .atom64 o else .atom32 o
    let n := if wide then 8 else 4
    k.Ready (atomicUse o) → k.s.held k.a false = false → k.Reaches (atomicUse o) o.gh.toNat o.vo.toNat n .atomic e →
    e.AdmitsAtomic o.aop →
    (k.lanes (atomicUse o) ≠ [] → k.Follows (atomicUse o) e o.vo.toNat n false →
      exec i k.s = .next (finish (startAtomic (k.ctx (atomicUse o) 4) o wide e .plain [] (k.before (atomicUse o) false)
        (k.keys (atomicUse o) e o.vo.toNat) (k.spans (atomicUse o) e o.vo.toNat n false)) k.tid k.f 4)) ∧
    (k.lanes (atomicUse o) ≠ [] → ¬ k.Follows (atomicUse o) e o.vo.toNat n false → exec i k.s = .next k.s.blocked) ∧
    (k.lanes (atomicUse o) = [] → exec i k.s = .next (finish (k.before (atomicUse o) false) k.tid k.f 4))) ∧
  (∀ (s : State) (a : Nat) (m : Msg) (aop : AOp) (wide acq : Bool) (off op ld p : Nat) (x y : Word),
    s.deliverable a = some m → m.toHome = true → m.body = .req (.atomic aop wide off x y acq op ld p) →
    bankSector m.sector = true → (s.dirEnt m.sector).held = false →
    let n := if wide then 8 else 4
    let key := m.sector * 64 + off
    let old := leNat (Memory.bytes s.mem key n)
    let b := x.toNat % 2 ^ (8 * n)
    ∃ s', exec (.homeAtomic a) s = .next s' ∧
    let new := leNat (Memory.bytes s'.mem key n)
    (∀ j, (j < key ∨ key + n ≤ j) → Memory.get s'.mem j = Memory.get s.mem j) ∧
    (∃ r ∈ s'.coh.net, r.toHome = false ∧ r.core = m.core ∧ r.body = .old old (s.poisoned m.sector) ld p) ∧
    (aop = .add → new = (old + b) % 2 ^ (8 * n)) ∧ (aop = .and → new = old &&& b) ∧ (aop = .or → new = old ||| b) ∧
    (aop = .xor → new = old ^^^ b) ∧ (aop = .minn → new = min old b) ∧ (aop = .maxn → new = max old b) ∧
    (aop = .min → new = if (BitVec.ofNat (8 * n) old).toInt ≤ (BitVec.ofNat (8 * n) b).toInt then old else b) ∧
    (aop = .max → new = if (BitVec.ofNat (8 * n) old).toInt ≤ (BitVec.ofNat (8 * n) b).toInt then b else old) ∧
    (let f := if wide then F64 else F32;
      let v := unpack f false old;
      let w := unpack f false b;
      (v.isNan → w.isNan → aop = .fadd ∨ aop = .fmin ∨ aop = .fmax → new = f.qnan) ∧
      (v.isNan ∨ w.isNan → aop = .fadd → new = f.qnan) ∧
      (v.special = false → w.special = false → aop = .fadd →
        ∃ r, RoundedTo f ⟨.rne, false, false⟩ 0 (sumSign .rne [(v.rat, v.neg?), (w.rat, w.neg?)]) (v.rat + w.rat) r ∧ new = r.bits) ∧
      (∀ sg, aop = .fadd → (v = .inf sg ∧ (w = .inf sg ∨ w.special = false)) ∨ (w = .inf sg ∧ v.special = false) →
        new = f.sign sg + f.inf) ∧
      (∀ sg, aop = .fadd → v = .inf sg → w = .inf (!sg) → new = f.qnan) ∧
      (aop = .fmin ∨ aop = .fmax → (v.isNan → w.isNan = false → new = b) ∧ (v.isNan = false → w.isNan → new = old)) ∧
      (v.isNan = false → w.isNan = false →
        (aop = .fmin → new = if ltV true w v then b else old) ∧ (aop = .fmax → new = if ltV true v w then b else old))) ∧
    (aop = .xchg → new = b) ∧ (aop = .cas → new = if old = b then y.toNat % 2 ^ (8 * n) else old) ∧
    (aop = .incn → new = if b ≤ old then 0 else old + 1) ∧
    (aop = .decn → new = if old = 0 ∨ b < old then b else old - 1))

/-- R23, R117, R118: an access under an ORD prefix is the plain access with its order: an acquire adds a hold on later accesses
until its values arrive; a release performs once what its arm issued before is done, or, where its bytes travel, after it: at once
where the arm has nothing under way and nothing to write back. Without an executing lane an ordered access passes. -/
def Obligations.OrderedAccessesPerform : Prop :=
  ∀ (k : Issue) (e : PalEntry) (ok : OrdKind) (sc : Scope),
    (∀ (o : LM) (sx : Bool), ok = .acquire →
      let c : Access := if sx then .lds o else .ld o
      let n := o.sz.bits / 8
      k.Ready (loadUse o) → k.s.held k.a true = false → k.Reaches (loadUse o) o.gh.toNat o.vo.toNat n .read e →
      e.AdmitsLoad k.s sx n o.pol.code →
      (k.lanes (loadUse o) ≠ [] → k.Follows (loadUse o) e o.vo.toNat n true → k.InOrder (loadUse o) e o.vo.toNat n o.pol.code →
        exec (.ord ok sc c) k.s = .next (finish (startLoad (k.ctx (loadUse o) 8) e (k.before (loadUse o) true)
          o.vd.toNat n o.pol.code sx (Order.of ok sc) (k.keys (loadUse o) e o.vo.toNat)
          (k.spans (loadUse o) e o.vo.toNat n true).flatten) k.tid k.f 8)) ∧
      (k.lanes (loadUse o) = [] → exec (.ord ok sc c) k.s = .next (finish (k.before (loadUse o) true) k.tid k.f 8))) ∧
    (∀ o : LM, ok = .release →
      let n := o.sz.bits / 8
      let c := k.ctx (storeUse o) 8
      let s := k.before (storeUse o) false
      let cells := lastCells (k.stored (storeUse o) e o.vd.toNat o.vo.toNat n)
      let secs := (sectorsOf cells).map (fun b => sectorOf e (b * 64))
      k.Ready (storeUse o) → k.s.held k.a false = false → k.Reaches (storeUse o) o.gh.toNat o.vo.toNat n .write e →
      e.AdmitsStore k.s o.pol.code →
      (k.lanes (storeUse o) ≠ [] → k.Follows (storeUse o) e o.vo.toNat n false →
        ∀ after s1, releaseStep c s (Order.of ok sc) (nearAccess s k.t.geom.core secs) = .go after s1 →
          exec (.ord ok sc (.st o)) k.s = .next (finish (storeAll c e (c.req false after) o.pol.code
            (narrowNotices c s1 e (Order.of ok sc) secs after) cells (k.sectorSpans (storeUse o) e o.vo.toNat n)) k.tid k.f 8)) ∧
      (k.lanes (storeUse o) ≠ [] → k.Follows (storeUse o) e o.vo.toNat n false → k.s.liveOps k.a.ops = [] →
        k.s.wroteM k.t.geom.core k.tid k.f = false → k.s.awaitsOwn k.t.geom.core k.tid k.f = false →
        ∃ s' t a, exec (.ord ok sc (.st o)) k.s = .next s' ∧ s'.team? k.tid = some t ∧ t.arm? k.f = some a ∧
          a.pc = (k.a.advance 8).pc ∧ s'.mem = k.s.mem) ∧
      (k.lanes (storeUse o) = [] → exec (.ord ok sc (.st o)) k.s = .next (finish s k.tid k.f 8))) ∧
    (∀ (o : LA) (wide : Bool),
      let a : Access := if wide then .atom64 o else .atom32 o
      let n := if wide then 8 else 4
      let c := k.ctx (atomicUse o) 8
      let s := k.before (atomicUse o) false
      let keys := k.keys (atomicUse o) e o.vo.toNat
      let secs := (keys.map (fun x => sectorOf e x.2)).dedup
      k.Ready (atomicUse o) → k.s.held k.a false = false → k.Reaches (atomicUse o) o.gh.toNat o.vo.toNat n .atomic e →
      e.AdmitsAtomic o.aop →
      (k.lanes (atomicUse o) ≠ [] → k.Follows (atomicUse o) e o.vo.toNat n false →
        ∀ after s1, releaseStep c s (Order.of ok sc) (nearAccess s k.t.geom.core secs) = .go after s1 →
          exec (.ord ok sc a) k.s = .next (finish (startAtomic c o wide e (Order.of ok sc) after
            (narrowNotices c s1 e (Order.of ok sc) secs after) keys (k.spans (atomicUse o) e o.vo.toNat n false)) k.tid k.f 8)) ∧
      (k.lanes (atomicUse o) ≠ [] → k.Follows (atomicUse o) e o.vo.toNat n false → k.s.liveOps k.a.ops = [] →
        k.s.wroteM k.t.geom.core k.tid k.f = false → k.s.awaitsOwn k.t.geom.core k.tid k.f = false →
        ∃ s' t b, exec (.ord ok sc a) k.s = .next s' ∧ s'.team? k.tid = some t ∧ t.arm? k.f = some b ∧
          b.pc = (k.a.advance 8).pc ∧ s'.mem = k.s.mem) ∧
      (k.lanes (atomicUse o) = [] → exec (.ord ok sc a) k.s = .next (finish s k.tid k.f 8)))

end

/-! ### Traps, control registers, pauses, ordering, batches, handles -/

namespace Sys2Proof.Machine

/-- What R68 to R70 say GETC reads, for an arm with an active lane. -/
def cregSays (k : Issue) (c : CReg) (x : Word) : Prop :=
  let g := k.t.geom
  let lanes := (List.range g.lanes).filter (fun L => k.a.active.getLsbD L)
  match c with
  | .fpctl => ∀ L r, lanes = L :: r → x = (k.t.lane L).fpctl
  | .fpflags => ∀ i, x.getLsbD i = lanes.any (fun L => (k.t.lane L).fpflags.getLsbD i)
  | .teamsz => x.extractLsb' 0 11 = BitVec.ofNat 11 g.lanes ∧ x.extractLsb' 16 7 = BitVec.ofNat 7 g.vcount ∧
      x.extractLsb' 24 7 = BitVec.ofNat 7 g.gregs ∧ x.extractLsb' 32 6 = BitVec.ofNat 6 g.barriers
  | .teamid => x.extractLsb' 0 4 = BitVec.ofNat 4 g.index ∧ x.extractLsb' 16 4 = BitVec.ofNat 4 g.datapath
  | .blockid => x = BitVec.ofNat 64 g.block
  | .gangxy =>
      x.extractLsb' 16 4 = BitVec.ofNat 4 (k.l.inGang g.core).1 ∧ x.extractLsb' 20 4 = BitVec.ofNat 4 (k.l.inGang g.core).2 ∧
      x.extractLsb' 0 8 = BitVec.ofNat 8 ((g.core % 16 - k.l.x0) / 2 ^ k.l.lr.gw) ∧
      x.extractLsb' 8 8 = BitVec.ofNat 8 ((g.core / 16 - k.l.y0) / 2 ^ k.l.lr.gh)
  | .corexy => x = BitVec.ofNat 64 (g.core % 16 + g.core / 16 * 2 ^ 8 + (if g.core % 16 < 8 then 0 else 1) * 2 ^ 16)
  | .chipid => x = k.s.pod.chipId.setWidth 64
  | .gtc => x = BitVec.ofNat 64 k.s.sched.gtc
  | .hbeat => x = BitVec.ofNat 64 (k.s.sched.hbeat % 2 ^ 57)
  | .batch => x = k.a.tag.setWidth 64
  | .trapvec => x = k.t.trap.vec
  | .trappc => x = k.t.trap.pc
  | .trapcode => x = k.t.trap.code.setWidth 64
  | .trapinfo => x = k.t.trap.info
  | .arminfo => x.extractLsb' 32 11 = BitVec.ofNat 11 lanes.length ∧ x.extractLsb' 7 3 = BitVec.ofNat 3 k.a.loops.length ∧
      x.extractLsb' 2 5 = BitVec.ofNat 5 k.a.stack.length ∧ x.getLsbD 1 = k.t.armF.isSome ∧ x.getLsbD 0 = k.f
  | .srseed => x = k.t.srseed
  | .tstat => x.getLsbD 3 = k.t.engfail ∧ x.getLsbD 2 = k.t.armF.isSome ∧ x.getLsbD 1 = k.t.nolane ∧ x.getLsbD 0 = k.t.lostjoin ∧
      x.toNat < 16

/-- The two-source lane forms and MAD, which reads its vd too, with their registers. -/
def markedForms : List ((LR → Instr) × (LR → Use)) :=
  laneTwoSource.map (fun p => (p.1, fun o => use2 o.pg o.vd o.va o.vb o.ta o.tb)) ++
    [(.mad, fun o => use3 o.pg o.vd o.va o.vb o.ta o.tb)]

/-- A register's mark does not stop a reader with these executing lanes (R75, R318). -/
def Issue.Clean (k : Issue) (ex : LaneMask) (r : Nat) : Prop :=
  (∀ c, k.t.vMark r ≠ .lost c) ∧ ∀ m, k.t.vMark r = .poison m → m &&& ex = 0

/-- The fields of a team lie within what the packed registers hold. -/
structure TeamGeom.Fits (g : TeamGeom) : Prop where
  lanes : g.lanes ≤ 1024
  vcount : g.vcount ≤ 64
  gregs : g.gregs ≤ 64
  barriers : g.barriers ≤ 32
  index : g.index < 16
  block : g.block < 16
  datapath : g.datapath < 16
  core : g.core < 192

end Sys2Proof.Machine

section
open Sys2Proof Sys2Proof.Machine

/-- R304, R305, R96: TRAP raises USER with its immediate; TRET continues after the trapping unit, TRET.REPLAY at it; outside a
handler both trap ILLOP. NOP passes (R31). -/
def Obligations.TrapsAreTakenAndReturnedFrom : Prop :=
  ∀ (k : Issue),
    (∀ (qg : BitVec 3) (imm : BitVec 16), k.Ready { qg := qg.toNat } →
      exec (.trap qg imm) k.s = .next (k.afterTrap 4 0x20 (imm.setWidth 64))) ∧
    (k.Ready { } → k.a.inHandler = true →
      exec .tret k.s = .next (k.s.setTeam k.tid (k.t.setArm k.f
        (some (({ k.a with pc := k.t.trap.pc, inHandler := false } : Arm).advance k.t.trap.len)))) ∧
      exec .tretReplay k.s = .next (k.s.setTeam k.tid (k.t.setArm k.f
        (some { k.a with pc := k.t.trap.pc, inHandler := false })))) ∧
    (k.Ready { } → k.a.inHandler = false →
      exec .tret k.s = .next (k.afterTrap 4 0x01 0xE0000000) ∧ exec .tretReplay k.s = .next (k.afterTrap 4 0x01 0xE1000000)) ∧
    (k.Ready { } → exec .nop k.s = .next (k.done 4 k.t))

/-- R306: a trap that no handler takes aborts the launch: its arm stops, its queued commands go, it is to stop and complete its node
with code 3, memory stays, and the core's die holds the record of it, word for word. -/
def Obligations.AbortLeavesItsRecord : Prop :=
  ∀ (k : Issue) (len code : Nat) (info : Word), k.Current → ¬ k.Handled → k.t.geom.Fits → code < 2 ^ 8 → k.l.node < 2 ^ 16 →
    k.l.isAborting = false →
    let s' := k.afterTrap len code info
    (∀ j, Memory.get s'.mem j = Memory.get k.s.mem j) ∧
    (∃ t', s'.team? k.tid = some t' ∧ t'.arm? k.f = some { k.a with stopped := true } ∧ t'.lanes = k.t.lanes ∧ t'.g = k.t.g ∧
      t'.trap.pc = k.a.pc ∧ t'.trap.code = BitVec.ofNat 8 code ∧ t'.trap.info = info) ∧
    ((s'.launch? k.t.geom.launch).map (·.status) = some (.aborting 3 k.s.sched.gtc)) ∧
    (∀ x ∈ slist s'.eng.cmds, x.2.launch = k.t.geom.launch → x.2.started = true) ∧
    ∃ w0 w3 w4, oget s'.alloc.aborts (coreDie k.t.geom.core) = some [w0, k.a.pc, info, w3, w4, 0, 0, 0] ∧
      w0.getLsbD 63 = true ∧ w0.getLsbD 62 = k.a.inHandler ∧ w0.extractLsb' 48 8 = BitVec.ofNat 8 code ∧
      w0.extractLsb' 32 16 = BitVec.ofNat 16 k.l.node ∧
      w0.extractLsb' 0 32 = ((oget k.s.alloc.insts k.l.inst).map (·.seq)).getD 0 ∧
      w3.extractLsb' 0 4 = BitVec.ofNat 4 (k.t.geom.core % 16) ∧ w3.extractLsb' 8 4 = BitVec.ofNat 4 (k.t.geom.core / 16) ∧
      w3.extractLsb' 16 1 = BitVec.ofNat 1 (coreDie k.t.geom.core) ∧ w3.extractLsb' 24 4 = BitVec.ofNat 4 k.t.geom.index ∧
      w3.extractLsb' 28 4 = BitVec.ofNat 4 k.t.geom.block ∧ w3.getLsbD 32 = k.f ∧ w4 = BitVec.ofNat 64 k.s.sched.gtc

/-- R13, R16, R42, R92: a register the team does not have, or a destination with a walker bound, traps ILLREG before anything else;
an empty source marked for it traps EMPTY with the register's number; any other empty register makes the unit wait, whatever its
guard. That EMPTY comes although another register of the unit is empty too, and names va where both sources are empty, is the model's
choice (log 51, DESIGN CHOICE).
R75 and R318: the first source that is marked decides: one that a lost load marks traps REMOTE_LOST with the chip and the register; one
that poison marks in executing lanes traps SOFT with those lanes. vd is a source of MAD. -/
def Obligations.RegistersAreCheckedFirst : Prop :=
  (∀ (k : Issue) (o : LR), ∀ p ∈ markedForms, k.Current →
    let absent := fun (r : BitVec 6) => k.t.geom.vcount ≤ r.toNat
    let bound := 60 ≤ o.vd.toNat ∧ (k.t.walker? (o.vd.toNat - 60)).isSome = true
    let empty := fun (r : BitVec 6) => k.t.vMark r.toNat = .empty
    (absent o.vd ∨ absent o.va ∨ absent o.vb ∨ bound →
      exec (p.1 o) k.s = .next (k.afterTrap 4 0x02 (unitWords (p.1 o)))) ∧
    (¬ (absent o.vd ∨ absent o.va ∨ absent o.vb ∨ bound) →
      (o.ta = true ∧ empty o.va → exec (p.1 o) k.s = .next (k.afterTrap 4 0x03 (o.va.setWidth 64))) ∧
      (¬ (o.ta = true ∧ empty o.va) → o.tb = true ∧ empty o.vb →
        exec (p.1 o) k.s = .next (k.afterTrap 4 0x03 (o.vb.setWidth 64))) ∧
      (¬ (o.ta = true ∧ empty o.va) → ¬ (o.tb = true ∧ empty o.vb) → empty o.va ∨ empty o.vb ∨ empty o.vd →
        exec (p.1 o) k.s = .next (k.s.blocked)))) ∧
  (∀ (k : Issue) (o : LR), ∀ p ∈ markedForms, k.Current →
    let u := p.2 o
    u.illReg k.t = false → u.waits k.t = false →
    ∀ pre r post, u.vr = pre ++ r :: post → (∀ x ∈ pre, k.Clean (k.ex u) x.1) →
      (∀ c, k.t.vMark r.1 = .lost c → exec (p.1 o) k.s = .next (k.afterTrap 4 0x0F (BitVec.ofNat 64 (c + r.1 * 2 ^ 16)))) ∧
      (∀ m, k.t.vMark r.1 = .poison m → m &&& k.ex u ≠ 0 → ∃ info,
        FailingLanes (fun L => m.getLsbD L = true ∧ (k.ex u).getLsbD L = true) info ∧
        exec (p.1 o) k.s = .next (k.afterTrap 4 0x14 info)))

/-- R68 to R70: GETC writes its register's fields.
R68 to R71, R43 and R132: what SETC writes, and the values of FPCTL and TRAPVEC that trap; SETC BATCH acts as BTAG. That these
values trap whatever the guard is the model's reading (log 14, DEDUCED). -/
def Obligations.ControlRegistersReadAndWrite : Prop :=
  (∀ (k : Issue) (qg : BitVec 3) (gd : BitVec 6) (c : CReg),
    k.Ready { qg := qg.toNat, gw := [gd.toNat] } → k.t.geom.Fits → k.a.stack.length ≤ 16 → k.a.loops.length ≤ 4 →
    (∃ L < k.t.geom.lanes, k.a.active.getLsbD L = true) →
    ∃ x, exec (.getc qg gd c) k.s = .next (k.done 4 (k.t.setG gd.toNat x)) ∧ cregSays k c x) ∧
  (∀ (k : Issue) (qg : BitVec 3) (ga : BitVec 6), k.Ready { gr := [(ga.toNat, false)] } →
    let x := k.t.greg ga.toNat
    let lanes := fun (h : Lane → Lane) => k.done 4 { k.t with lanes := mapLanes k.a.active (fun _ y => h y) 0 k.t.lanes }
    (6 ≤ x.toNat % 8 → exec (.setc qg ga .fpctl) k.s = .next (k.afterTrap 4 0x01 x)) ∧
    (x.toNat % 4 ≠ 0 → exec (.setc qg ga .trapvec) k.s = .next (k.afterTrap 4 0x01 x)) ∧
    (k.t.qpred qg.toNat = false → ∀ c : CReg, (c = .fpctl → x.toNat % 8 < 6) → (c = .trapvec → x.toNat % 4 = 0) →
      exec (.setc qg ga c) k.s = .next (k.done 4 k.t)) ∧
    (k.t.qpred qg.toNat = true →
    (x.toNat % 8 < 6 → exec (.setc qg ga .fpctl) k.s = .next (lanes (fun y => { y with fpctl := x &&& 31 }))) ∧
    exec (.setc qg ga .fpflags) k.s = .next (lanes (fun y => { y with fpflags := x.setWidth 8 })) ∧
    (∀ n : BitVec 2, n = x.setWidth 2 → exec (.setc qg ga .batch) k.s =
      .next (k.done 4 (k.t.setArm k.f (some { k.a with tag := n })))) ∧
    (x.toNat % 4 = 0 → exec (.setc qg ga .trapvec) k.s =
      .next (k.done 4 { k.t with trap := { k.t.trap with vec := x } })) ∧
    exec (.setc qg ga .tstat) k.s = .next (k.done 4 { k.t with
      engfail := x.getLsbD 3, nolane := x.getLsbD 1, lostjoin := x.getLsbD 0, engcode := none }) ∧
    (∃ t, exec (.setc qg ga .srseed) k.s = .next (k.done 4 t) ∧ t.srseed = x ∧
      ∀ L < k.t.lanes.length, L < k.t.geom.lanes → L < 1024 →
        (t.lane L).gen = seedGen x (globalLane k.s.pod.chipId.toNat k.t.geom L) ∧ (t.lane L).v = (k.t.lane L).v)) ∧
    (k.Ready { qg := qg.toNat } → ∀ n, exec (.btag qg n) k.s = .next (k.done 4 (k.t.setArm k.f (some { k.a with tag := n })))))

/-- R90, R131: PAUSE parks its arm at the unit with the cycle and the sector watched, or traps for its handle, its offset or its
page; its timeout, a wake of the watched chip, or a write in the watched sector of the Gallery or of memory lets it go on after the
PAUSE. TRAPINFO of its BOUNDS is the model's reading (log 27, DEDUCED). -/
def Obligations.PausesParkAndWake : Prop :=
  (∀ (k : Issue) (qg : BitVec 3),
    let parked := fun (watch : Option Nat) =>
      k.s.setTeam k.tid (k.t.modArm k.f (fun a => { a with wait := .paused k.s.sched.cycle watch }))
    (k.Ready { qg := qg.toNat } → exec (.pause qg) k.s = .next (parked none)) ∧
    (∀ (gh go : BitVec 6), k.Ready { qg := qg.toNat, gr := [(gh.toNat, false), (go.toNat, false)] } →
      let i : Instr := .pauseWatch qg gh go
      let h := k.t.greg gh.toNat
      let off := (k.t.greg go.toNat).toNat
      (k.t.handle k.s h = none → exec i k.s = .next (k.afterTrap 4 0x08 h)) ∧
      (∀ e, k.t.handle k.s h = some e →
        let legal := e.perm.testBit 0 = true ∧ (e.space = 4 ∨ e.space = 5 ∨ e.space = 6)
        (¬ legal → exec i k.s = .next (k.afterTrap 4 0x08 h)) ∧
        (legal → e.limit < off + 1 → exec i k.s = .next (k.afterTrap 4 0x07 (k.t.greg go.toNat))) ∧
        (legal → off < e.limit →
          (e.space = 4 → exec i k.s = .next (parked (some (galleryKey (e.base + off) / 64)))) ∧
          (e.space = 5 → ∀ pa, tlbLook k.s (coreUnit k.t.geom.core) k.l.ctx (e.base + off) .read = .pa pa →
            exec i k.s = .next (parked (some (pa / 64)))) ∧
          (e.space = 5 → ∀ va, tlbLook k.s (coreUnit k.t.geom.core) k.l.ctx (e.base + off) .read = .fatal va →
            exec i k.s = .next (k.afterTrap 4 0x0B (BitVec.ofNat 64 va))) ∧
          (e.space = 6 →
            let sec := podSector e.target e.aux (e.base + off)
            let m : OutMsg := .watch e.target e.aux (e.base + off) (2 * k.tid + if k.f then 1 else 0)
            (k.s.pod.dead.contains e.target = true → exec i k.s = .next (parked (some sec))) ∧
            (k.s.pod.dead.contains e.target = false → exec i k.s = .next ((parked (some sec)).sendOut e.target sec m)))))) ) ∧
  (∀ (s : State) (id : ArmId) (t : Team) (a : Arm) (since : Nat) (watch : Option Nat),
    s.team? id.team = some t → t.arm? id.f = some a → a.wait = .paused since watch →
    let on := ({ a with wait := .ready } : Arm).advance 4
    let s' := s.setTeam id.team (t.setArm id.f (some on))
    (since + (if watch = none then 64 else 4096) ≤ s.sched.cycle → exec (.pauseTimeout id) s = .next s') ∧
    (∀ chip sec, watch = some sec → 2 ^ 60 ≤ sec → (sec - 2 ^ 60) / 2 ^ 68 = chip →
      (s.pod.dead.contains chip = false → exec (.wake chip id) s = .next s') ∧
      (s.pod.dead.contains chip = true → exec (.wake chip id) s = .next s)) ∧
    (∀ n m cells op, s.deliverable n = some m → m.toHome = true → m.body = .req (.write cells op) → cells ≠ [] →
      (∀ c ∈ cells, c.1 / 64 = m.sector) → watch = some m.sector →
      (bankSector m.sector = true ∧ (s.dirEnt m.sector).held = false ∨
        bankSector m.sector = false ∧ (s.dirEnt m.sector).busy = false ∧ (s.dirEnt m.sector).owner = none ∧
          (s.dirEnt m.sector).blocked s.sched.gtc (.core m.core) = false) →
      ∃ s' t', exec (.homeWrite n) s = .next s' ∧ s'.team? id.team = some t' ∧ t'.arm? id.f = some on))

/-- R122 to R124, R257, R355: what a FENCE leaves with its arm. A release holds back stores, an acquire every access, until what the arm
issued before has completed; one that writes back waits for the ownership its arm's stores await; FENCE.SC drains its arm; one
with eng waits for the arm's commands and answers for their failures.
R124 and R330: a FENCE.SC that has drained takes the first heartbeat tick after it as H, and its arm goes on, its core's leases
dropped, once the GTC reaches 128 H + 80, in Stage D, with the chip's time locked and bounded.
That a fence waits for the ownership its arm's stores await is the model's reading (log 13, DEDUCED), and so is that a FENCE with eng
takes a recorded failure and clears it (log 24, DEDUCED). -/
def Obligations.FencesHoldLaterAccesses : Prop :=
  (∀ (k : Issue) (qg : BitVec 3) (sc : Scope) (eng : Bool), k.Ready { qg := qg.toNat } →
    let cmds := k.a.cmds.filter k.s.cmdLive
    (eng = true → cmds ≠ [] → ∀ c, exec (.fence qg sc c eng) k.s = .next (k.s.blocked)) ∧
    (eng = true → cmds = [] → ∀ code info, k.t.engcode = some (code, info) → ∀ c,
      exec (.fence qg sc c eng) k.s =
        .next (takeTrap (k.s.setTeam k.tid { k.t with engcode := none }) k.tid k.f k.a.pc 4 code (info.setWidth 57 |>.setWidth 64))) ∧
    ((eng = false ∨ (cmds = [] ∧ k.t.engcode = none)) →
      (∃ h, exec (.fence qg sc .acquire eng) k.s = .next (k.done 4 (k.t.modArm k.f (fun a => { a with holds := a.holds ++ [h] }))) ∧
        h.acquire = true ∧ h.cmds = [] ∧ (h.drop = true ↔ (2 ≤ sc.code ∨ eng = true)) ∧
        ∀ o ∈ k.a.ops, ∀ x, oget k.s.coh.ops o = some x → x.kind = .load → o ∈ h.ops) ∧
      (sc.code < 2 → ∃ h, exec (.fence qg sc .release eng) k.s =
          .next (k.done 4 (k.t.modArm k.f (fun a => { a with holds := a.holds ++ [h] }))) ∧
        h.acquire = false ∧ h.cmds = [] ∧ ∀ o ∈ k.a.ops, k.s.opLive o = true → o ∈ h.ops) ∧
      (sc.code < 2 → ∃ h h', exec (.fence qg sc .acqRel eng) k.s =
          .next (k.done 4 (k.t.modArm k.f (fun a => { a with holds := a.holds ++ [h, h'] }))) ∧
        h.acquire = false ∧ h'.acquire = true) ∧
      (∀ c, c = .sc ∨ ((c = .release ∨ c = .acqRel) ∧ 2 ≤ sc.code) → k.s.awaitsOwn k.t.geom.core k.tid k.f = true →
        exec (.fence qg sc c eng) k.s = .next k.s.blocked) ∧
      (k.s.awaitsOwn k.t.geom.core k.tid k.f = false → (∀ c, c = .release ∨ c = .acqRel → ∃ s', exec (.fence qg sc c eng) k.s = .next s' ∧ s'.mem = k.s.mem ∧
        ∃ t a h, s'.team? k.tid = some t ∧ t.arm? k.f = some a ∧ a.pc = (k.a.advance 4).pc ∧ a.wait = .ready ∧
          h ∈ a.holds ∧ h.acquire = false ∧ (∀ o ∈ k.a.ops, k.s.opLive o = true → o ∈ h.ops)) ∧
      (∃ s', exec (.fence qg sc .sc eng) k.s = .next s' ∧ s'.mem = k.s.mem ∧
        ∃ t a ops, s'.team? k.tid = some t ∧ t.arm? k.f = some a ∧ a.pc = k.a.pc ∧ a.wait = .scDrain ops [] ∧
          (∀ o ∈ k.a.ops, k.s.opLive o = true → o ∈ ops))))) ∧
  (∀ (s : State) (id : ArmId) (t : Team) (a : Arm) (h : Nat), s.team? id.team = some t → t.arm? id.f = some a →
    a.wait = .scWait h →
    (128 * h + 80 ≤ s.sched.gtc → s.pod.locked = true → s.pod.bounded = true → s.mgmt.stage = 4 →
      exec (.scFenceWaitEnd id) s = .next ((s.setTeam id.team (t.setArm id.f
        (some (({ a with wait := .ready } : Arm).advance 4)))).dropLeases t.geom.core)) ∧
    (s.sched.gtc < 128 * h + 80 ∨ s.pod.locked = false ∨ s.pod.bounded = false ∨ s.mgmt.stage ≠ 4 →
      exec (.scFenceWaitEnd id) s = .refused (.notEnabled "SC_FENCE_WAIT_END")))

/-- R125 to R128: an arrival whose causes are all absent and whose earlier accesses are done counts; it completes the phase when it
is the last, and a SYNC that is not waits; WAIT passes a phase that has completed. That the causes of BARRIER are checked before the
wait for earlier accesses is the model's reading (log 74, DEDUCED). -/
def Obligations.BarriersCountArrivals : Prop :=
  ∀ (k : Issue),
    (∀ (o : UBar), k.Ready (barUse o) →
      let key := barKey k.t.geom.launch k.t.geom.core k.t.geom.block o.b.toNat
      let b := k.s.barrier key
      let cnt := o.cnt.map (fun r => k.t.greg r.toNat)
      let teams := (k.s.setTeam k.tid k.t).blockLive k.t.geom.launch k.t.geom.core k.t.geom.block
      let s1 := (k.s.setBarrier key ⟨b.phase, true, b.arrived ++ [k.tid], if b.counting then b.expected else cnt.map (·.toNat)⟩).setTeam
        k.tid { k.t with barPhase := oset k.t.barPhase o.b.toNat (some b.phase) }
      let cause := fun (c : Nat) => k.afterTrap 4 0x10 (BitVec.ofNat 64 (o.b.toNat + c * 256))
      (k.t.armF.isSome = true → exec (.barArr o) k.s = .next (cause 1) ∧ exec (.barSync o) k.s = .next (cause 1)) ∧
      (k.t.armF = none → (∃ x, cnt = some x ∧ (x = 0 ∨ 16 < x.toNat)) →
        exec (.barArr o) k.s = .next (cause 2) ∧ exec (.barSync o) k.s = .next (cause 2)) ∧
      (k.t.armF = none → (∀ x, cnt = some x → x ≠ 0 ∧ x.toNat ≤ 16) → b.counting = true → b.expected ≠ cnt.map (·.toNat) →
        exec (.barArr o) k.s = .next (cause 3) ∧ exec (.barSync o) k.s = .next (cause 3)) ∧
      (k.t.armF = none → (∀ x, cnt = some x → x ≠ 0 ∧ x.toNat ≤ 16) → b.counting = true → b.expected = cnt.map (·.toNat) →
        k.tid ∈ b.arrived → exec (.barArr o) k.s = .next (cause 4) ∧ exec (.barSync o) k.s = .next (cause 4)) ∧
      (k.t.armF = none → (∀ x, cnt = some x → x ≠ 0 ∧ x.toNat ≤ 16) →
        (b.counting = true → b.expected = cnt.map (·.toNat) ∧ k.tid ∉ b.arrived) →
        (k.s.liveOps k.a.ops ≠ [] → exec (.barArr o) k.s = .next (k.s.blocked)) ∧
        (k.s.liveOps k.a.ops = [] →
          exec (.barArr o) k.s = .next (finish (s1.settleBarrier key teams false) k.tid k.f 4) ∧
          (((s1.settleBarrier key teams false).barrier key).phase ≠ b.phase →
            exec (.barSync o) k.s = .next (finish (s1.settleBarrier key teams false) k.tid k.f 4)) ∧
          (((s1.settleBarrier key teams false).barrier key).phase = b.phase →
            exec (.barSync o) k.s = .next ((s1.settleBarrier key teams false).modArm k.tid k.f (fun a => { a with
              wait := .barrier key b.phase })))))) ∧
    (∀ (qg : BitVec 3) (n : BitVec 5), k.Ready { qg := qg.toNat, bars := [n.toNat] } →
      let key := barKey k.t.geom.launch k.t.geom.core k.t.geom.block n.toNat
      (k.t.armF.isSome = true → exec (.barWait qg n) k.s = .next (k.afterTrap 4 0x10 (BitVec.ofNat 64 (n.toNat + 256)))) ∧
      (k.t.armF = none →
        (oget k.t.barPhase n.toNat ≠ some (k.s.barrier key).phase → exec (.barWait qg n) k.s = .next (k.done 4 k.t)) ∧
        (oget k.t.barPhase n.toNat = some (k.s.barrier key).phase → exec (.barWait qg n) k.s =
          .next (k.s.setTeam k.tid (k.t.modArm k.f (fun a => { a with wait := .barrier key (k.s.barrier key).phase })))))) ∧
    (∀ (qg : BitVec 3), k.Ready { qg := qg.toNat } →
      let b := k.s.barrier (gangBarKey k.t.geom.launch k.l k.t.geom.core)
      (k.t.armF.isSome = true → exec (.barGang qg) k.s = .next (k.afterTrap 4 0x10 (BitVec.ofNat 64 (1 * 256)))) ∧
      (k.t.armF = none → b.counting = true → b.expected = none → k.tid ∈ b.arrived →
        exec (.barGang qg) k.s = .next (k.afterTrap 4 0x10 (BitVec.ofNat 64 (4 * 256))))) ∧
    (∀ (qg : BitVec 3), k.Ready { qg := qg.toNat } → k.t.armF = none → k.s.liveOps k.a.ops = [] →
      k.s.wroteM k.t.geom.core k.tid k.f = false → k.s.narrowHomes k.t.geom.core = [] →
      let key := gangBarKey k.t.geom.launch k.l k.t.geom.core
      let b := k.s.barrier key
      b.counting = false → b.arrived = [] → ∃ s', exec (.barGang qg) k.s = .next s' ∧ (∀ j, Memory.get s'.mem j = Memory.get k.s.mem j) ∧
        ((∀ tid ∈ k.s.gangLive k.t.geom.launch k.l k.t.geom.core, tid = k.tid) → (s'.barrier key).phase = (b.phase + 1) % 2 ^ 32 ∧
          ∃ t a, s'.team? k.tid = some t ∧ t.arm? k.f = some a ∧ a.pc = (k.a.advance 4).pc) ∧
        ((∃ tid ∈ k.s.gangLive k.t.geom.launch k.l k.t.geom.core, tid ≠ k.tid) → (s'.barrier key).arrived = [k.tid] ∧
          ∃ t a, s'.team? k.tid = some t ∧ t.arm? k.f = some a ∧ a.pc = k.a.pc ∧ a.wait = .barrier key b.phase))

/-- R129 and R130: a cache operation passes its checks in order and acts on each sector of its range, waiting while a page of it
cannot be translated yet; of a bank handle it does nothing more.
R130: what each form does to a sector the core holds. -/
def Obligations.CacheOperationsCheckAndAct : Prop :=
  (∀ (k : Issue) (o : UCache) (op : CacheOp), k.Ready (cacheUse o) → k.s.held k.a false = false →
    let i : Instr := match op with | .pub => .cachePub o | .invl => .cacheInvl o | .drop => .cacheDrop o | .pref => .cachePref o
    let h := k.t.greg o.gh.toNat
    let go := k.t.greg o.go.toNat
    let gl := (k.t.greg o.gl.toNat).toNat
    let s1 := k.before (cacheUse o) false
    (k.t.handle k.s h = none → exec i k.s = .next (k.afterTrap 4 0x08 h)) ∧
    (∀ e, k.t.handle k.s h = some e →
      let bad := e.space = 7 ∨ e.space = 9 ∨ e.space = 10 ∨ e.perm.testBit 0 = false ∨ (op = .drop ∧ e.perm.testBit 1 = false)
      let odd := op = .drop ∧ (go.toNat % 64 ≠ 0 ∨ gl % 64 ≠ 0)
      let lock := (op = .drop ∨ op = .invl) ∧ lockedRegion k.s k.t.geom.core (regionPieces k.l k.t.geom e go.toNat gl) = true
      (bad → exec i k.s = .next (k.afterTrap 4 0x08 h)) ∧
      (¬ bad → e.limit < go.toNat + gl → exec i k.s = .next (k.afterTrap 4 0x07 go)) ∧
      (¬ bad → go.toNat + gl ≤ e.limit → odd → exec i k.s = .next (k.afterTrap 4 0x05 go)) ∧
      (¬ bad → go.toNat + gl ≤ e.limit → ¬ odd → lock → exec i k.s = .next (k.afterTrap 4 0x0C go)) ∧
      (¬ bad → go.toNat + gl ≤ e.limit → ¬ odd → ¬ lock →
        let c := k.t.geom.core
        (rangeBusy s1 k.l c e go.toNat gl = true → exec i k.s = .next k.s.blocked) ∧
        (rangeBusy s1 k.l c e go.toNat gl = false → exec i k.s = .next (finish ((rangeSectors s1 k.l c e go.toNat gl).foldl
          (fun s x => cacheSector (k.ctx (cacheUse o) 4) op e k.l.ctx s x.1 x.2) (rangeWalked s1 k.l c e go.toNat gl)) k.tid k.f 4)) ∧
        ((gl = 0 ∨ e.space ≤ 4) → exec i k.s = .next (finish s1 k.tid k.f 4))))) ∧
  (∀ (k : Ctx) (e : PalEntry) (ctx : Nat) (s : State) (sec base : Nat) (x : L1Sec), s.l1? k.t.geom.core sec = some x →
    (x.st ≠ .m → cacheSector k .pub e ctx s sec base = s) ∧
    (x.st = .m → ((cacheSector k .pub e ctx s sec base).l1? k.t.geom.core sec).map (·.st) = some .o) ∧
    (cacheSector k .invl e ctx s sec base).l1? k.t.geom.core sec = none ∧
    (cacheSector k .drop e ctx s sec base).l1? k.t.geom.core sec = none ∧
    (x.valid s.sched.gtc = true → cacheSector k .pref e ctx s sec base = s) ∧
    (∀ op, ∀ j, Memory.get (cacheSector k op e ctx s sec base).mem j = Memory.get s.mem j) ∧
    ((x.st = .m ∧ x.dirty ≠ 0) → (∃ m ∈ (cacheSector k .pub e ctx s sec base).coh.net, m.core = k.t.geom.core ∧ m.sector = sec ∧
        m.toHome = true ∧ ∃ o, m.body = .publishWriteBack (dirtyCells sec x) o) ∧
      (∃ m ∈ (cacheSector k .invl e ctx s sec base).coh.net, m.core = k.t.geom.core ∧ m.sector = sec ∧ m.toHome = true ∧
        ∃ o, m.body = .evictionWriteBack (dirtyCells sec x) o)))

/-- R132 to R134, R327 and R332: BCLOSE of a batch without a peer fills its register at once with a status of zero; one none of whose
peers can be asked fills it at once too, with LOST; any other empties it, asks each peer that it can and clears the tag's peers; one
whose tag has a close outstanding waits. -/
def Obligations.BatchesClose : Prop :=
  ∀ (k : Issue) (qg : BitVec 3) (gd : BitVec 6) (n : BitVec 2), k.Ready { qg := qg.toNat, gw := [gd.toNat] } →
    let tag := k.t.openBatch n
    let ps := sget [] k.t.peers tag
    let live := ps.filter (fun x => x.2.1 ≠ 0 && (x.1 = k.s.self || k.s.reachable x.1))
    (k.t.closing n = true → exec (.bclose qg gd n) k.s = .next (k.s.blocked)) ∧
    (k.t.closing n = false → live = [] → ∃ s', exec (.bclose qg gd n) k.s = .next s' ∧ s'.mem = k.s.mem ∧ s'.out = k.s.out ∧
      ∃ t a, s'.team? k.tid = some t ∧ t.arm? k.f = some a ∧ a.pc = (k.a.advance 4).pc ∧ t.gMark gd.toNat = .full ∧
        sget [] t.peers tag = [] ∧ t.lanes = k.t.lanes ∧ (∀ r, r ≠ gd.toNat → t.greg r = k.t.greg r) ∧
        (ps = [] → t.greg gd.toNat = 0) ∧
        (ps ≠ [] → ps.length ≤ 1024 → (∀ x ∈ ps, x.1 < 1024) →
          let w := t.greg gd.toNat
          w.extractLsb' 32 11 = BitVec.ofNat 11 ps.length ∧ w.extractLsb' 21 11 = BitVec.ofNat 11 ps.length ∧
          w.extractLsb' 10 11 = 0b00011000000#11 ∧ ∃ x ∈ ps, w.extractLsb' 0 10 = BitVec.ofNat 10 x.1 ∧ ∀ y ∈ ps, x.1 ≤ y.1)) ∧
    (k.t.closing n = false → live ≠ [] → ∃ s', exec (.bclose qg gd n) k.s = .next s' ∧ s'.mem = k.s.mem ∧
      (∀ x ∈ live,
        let m : OutMsg := .closeRequest x.1 k.tid tag x.2.1
        (x.1 = k.s.self → m ∈ s'.out) ∧
        (x.1 ≠ k.s.self → k.s.upPorts x.1 [] ≠ [] → ∃ p ∈ k.s.upPorts x.1 [], ∃ b, OutMsg.via p b m ∈ s'.out)) ∧
      ∃ t a c, s'.team? k.tid = some t ∧ t.arm? k.f = some a ∧ a.pc = (k.a.advance 4).pc ∧ t.gMark gd.toNat = .empty ∧
        sget [] t.peers tag = [] ∧ oget t.closes tag = some c ∧ c.waiting = live.map (·.1) ∧ c.peers = ps.length ∧
        t.g = k.t.g ∧ t.lanes = k.t.lanes)

/-- R135 to R137, R154: HNARROW's checks in order, the slot it fills and the one it frees (R136); PALQ's answers. That the freeing form
neither waits for gB nor pairs it is the model's choice (log 61, DESIGN CHOICE), and TRAPINFO of BOUNDS its reading (log 27). -/
def Obligations.HandlesAreNarrowedAndAsked : Prop :=
  ∀ (k : Issue),
    (∀ (o : UR) (perm : BitVec 4), perm.getLsbD 3 = false →
      k.Ready { qg := o.qg.toNat, gr := [(o.ga.toNat, false), (o.gb.toNat, false), (o.gb.toNat + 1, false)], gw := [o.gd.toNat] } →
      let h := k.t.greg o.ga.toNat
      let off := k.t.greg o.gb.toNat
      let len := (k.t.greg (o.gb.toNat + 1)).toNat
      let free := fun i => i < 16 ∧ oget k.t.slots i = none
      (k.t.handle k.s h = none → exec (.hnarrow o perm) k.s = .next (k.afterTrap 4 0x08 h)) ∧
      (∀ e, k.t.handle k.s h = some e →
        (len = 0 ∨ e.limit < off.toNat + len → exec (.hnarrow o perm) k.s = .next (k.afterTrap 4 0x07 off)) ∧
        (len ≠ 0 → off.toNat + len ≤ e.limit → off.toNat % 64 ≠ 0 → exec (.hnarrow o perm) k.s = .next (k.afterTrap 4 0x05 off)) ∧
        (len ≠ 0 → off.toNat + len ≤ e.limit → off.toNat % 64 = 0 → (∀ i, ¬ free i) →
          exec (.hnarrow o perm) k.s = .next (k.afterTrap 4 0x08 h)) ∧
        (len ≠ 0 → off.toNat + len ≤ e.limit → off.toNat % 64 = 0 → ∀ i, free i → (∀ j < i, ¬ free j) →
          ∃ e', exec (.hnarrow o perm) k.s = .next (k.done 4 ({ k.t with slots := oset k.t.slots i (some e') }.setG o.gd.toNat
              (BitVec.ofNat 64 (256 + i)))) ∧
            e'.base = e.base + off.toNat ∧ e'.limit = len ∧ e'.space = e.space ∧ e'.polmask = e.polmask ∧ e'.defpol = e.defpol ∧
            (∀ n < 3, e'.perm.testBit n = (e.perm.testBit n && !perm.getLsbD n)) ∧ e'.ok = e.ok))) ∧
    (∀ (o : UR), k.Ready { qg := o.qg.toNat, gr := [(o.ga.toNat, false)], gn := [o.gb.toNat], gw := [o.gd.toNat] } →
      let h := k.t.greg o.ga.toNat
      (∀ i < 16, h.toNat = 256 + i → (oget k.t.slots i).isSome = true → exec (.hnarrow o 8) k.s =
        .next (k.done 4 ({ k.t with slots := oset k.t.slots i none }.setG o.gd.toNat 0x1FF))) ∧
      (h.toNat < 256 ∨ 272 ≤ h.toNat ∨ (oget k.t.slots (h.toNat - 256)).isSome = false →
        exec (.hnarrow o 8) k.s = .next (k.afterTrap 4 0x08 h))) ∧
    (∀ (o : UU) (fn : PalQ), k.Ready { qg := o.qg.toNat, gr := [(o.ga.toNat, false)], gw := [o.gd.toNat] } →
      let h := k.t.greg o.ga.toNat
      (k.t.handle k.s h = none → exec (.palq o fn) k.s = .next (k.afterTrap 4 0x08 h)) ∧
      (∀ e, k.t.handle k.s h = some e → exec (.palq o fn) k.s = .next (k.done 4 (k.t.setG o.gd.toNat (BitVec.ofNat 64
        (match fn with
         | .limit => e.limit | .space => e.space | .policies => e.polmask | .default => e.defpol
         | .target => if e.space = 6 ∨ e.space = 7 then e.target else 0
         | .perm => e.perm | .sealed => if e.isSealed then 1 else 0 | .format => e.format))))))

end

/-! ### Engine commands -/

namespace Sys2Proof.Machine

/-- A command has entered its queue: it stands in the table with what R251 to R257 have it keep, its ranges are registered, its arm
has passed to the word after the pair and notes it, its status register is empty; memory, lanes and g registers are as before. -/
def Queued (k : Issue) (s' : State) (stat : Stat) (ranges : List (Bool × List Span)) (p : Cmd → Prop) : Prop :=
  (∀ j, Memory.get s'.mem j = Memory.get k.s.mem j) ∧
  ∃ cid c, s'.cmd? cid = some c ∧ p c ∧ c.launch = k.t.geom.launch ∧ c.team = k.tid ∧ c.core = k.t.geom.core ∧
    c.block = k.t.geom.block ∧ c.addr = k.a.pc ∧
    (∀ r ∈ ranges, ∀ q ∈ r.2, (⟨k.t.geom.launch, cid, k.t.geom.core, q.cls, q.tag, q.lo, q.hi, r.1⟩ : Lock) ∈ s'.eng.locks) ∧
    ∃ t a, s'.team? k.tid = some t ∧ t.arm? k.f = some a ∧ a.pc = (k.a.advance 8).pc ∧ cid ∈ a.cmds ∧ t.lanes = k.t.lanes ∧
      t.g = k.t.g ∧ t.q = k.t.q ∧ ∀ r, stat = some r → t.gMark r.toNat = .empty

/-- A command of one team that reaches these ranges can enter: no fence or ordered access holds it back (R117, R123), the arm's
accesses to its ranges have completed (R178), there is room for its entries and a slot in its queue (R253, R283). -/
structure Issue.Room (k : Issue) (need : Nat) (kind : CmdKind) (ranges : List (Bool × List Span)) : Prop where
  held : k.s.held k.a false = false
  clear : ∀ o ∈ k.a.ops, ∀ x, oget k.s.coh.ops o = some x → ∀ r ∈ ranges, (r.1 = true ∨ x.kind ≠ .load) →
    ∀ q ∈ x.spans, ∀ p ∈ r.2, p.overlaps q = false
  locks : lockRoom k.s k.t.geom k.tid need = true
  slot : (slotRoom k.s k.t.geom k.tid kind).isSome = true

/-- Every load that the arm has issued has its value (R178). -/
def Issue.Loaded (k : Issue) : Prop := ∀ o ∈ k.a.ops, ∀ x, oget k.s.coh.ops o = some x → x.kind ≠ .load

/-- A block command can be opened: no team of the block has opened it, the team is not split, there is room (R263, R284). -/
structure Issue.Opens (k : Issue) (per : Nat) (kind : CmdKind) (ranges : List (Bool × List Span)) : Prop extends
    k.Room (per * (k.l.lr.teams + 1)) kind ranges where
  whole : k.t.armF = none
  first : k.s.blockCmd k.t.geom k.t.collSeq = none

/-- A slice of the arm's team. -/
def Issue.slice (k : Issue) (stat : Stat) (src dst : Option Region) (pattern : Word) : Slice where
  team := k.tid
  index := k.t.geom.index
  f := k.f
  stat := stat.map (·.toNat)
  src := src
  dst := dst
  pattern := pattern
  done := 0
  addr := k.a.pc
  buf := []

/-- The entry that a handle register names. -/
def Issue.Names (k : Issue) (g : BitVec 6) (e : PalEntry) : Prop := k.t.handle k.s (k.t.greg g.toNat) = some e

/-- Offset register of a pair. -/
def Issue.pairOff (k : Issue) (g : BitVec 6) : Nat := (k.t.greg (g.toNat + 1)).toNat

/-- The region of n bytes that a pair of an entry names lies inside the entry, at a multiple of al. -/
def Issue.Fits (k : Issue) (g : BitVec 6) (e : PalEntry) (n al : Nat) : Prop :=
  k.pairOff g % al = 0 ∧ k.pairOff g + n ≤ e.limit

/-- The tile t of the arm's block is mapped, carries no failure mark and is `x` (R259, R257). -/
def Issue.TileIs (k : Issue) (t : BitVec 4) (x : Tile) : Prop :=
  oget k.s.eng.tiles (tileKey k.t.geom.launch k.t.geom.core k.t.geom.block t.toNat) = some x ∧ x.fail = 0

/-- The home of the sector at a virtual address has answered the arm's read with these bytes, not poisoned (R165). -/
def Issue.Answered (k : Issue) (va : Nat) (d : List Byte) : Prop :=
  ∃ pa id r lease, tlbLook k.s (coreUnit k.t.geom.core) k.l.ctx va .read = .pa pa ∧
    k.s.agentRead? (.arm ⟨k.tid, k.f⟩) (pa / 64) = some (id, r) ∧ r.answer = some (d, false, lease)

/-- The 128 bytes at an offset of an entry, as EASEL reads them: no sector of them poisoned (R273). -/
def Issue.Image (k : Issue) (e : PalEntry) (off : Nat) (img : List Byte) : Prop :=
  (∃ key, placeOf k.l k.t.geom e 0 off = .bank key ∧ k.s.poisoned (key / 64) = false ∧ k.s.poisoned (key / 64 + 1) = false ∧
    img = Memory.bytes k.s.mem key 128) ∨
  (∃ va d d', placeOf k.l k.t.geom e 0 off = .va va ∧ k.Answered va d ∧ k.Answered (va + 64) d' ∧ d.length = 64 ∧
    d'.length = 64 ∧ img = d ++ d')

/-- Key of tile t. -/
def Issue.tile (k : Issue) (t : BitVec 4) : Nat := tileKey k.t.geom.launch k.t.geom.core k.t.geom.block t.toNat

/-- A walker as BIND leaves it: at position (0, 0, 0), its flags clear, the register's values kept as base and to be given back. -/
def startWalker (e : PalEntry) (ls : Nat) (sx : Bool) (ext : List Nat) (stride : List Int) (vals : List Word) : Walker where
  entry := e
  ls := ls
  sx := sx
  ext := ext
  stride := stride
  base := vals
  saved := vals
  pos := some (0, 0, 0)
  d0 := false
  d1 := false
  d2 := false
  fin := false
  arrived := []

end Sys2Proof.Machine

section
open Sys2Proof Sys2Proof.Machine

/-- R260: SHAPE maps a tile over a tensor entry whose checks pass, counters at zero; a handle without a record, a missing second offset
register, a name in use, a full table, a row off its granule or group, an origin off its alignment and a plane past the entry trap in
this order and leave the table alone.
R261, R278: TEXPECT adds to EXPECT, TSTATE reports and TFREE unmaps; an empty tile traps TILE cause 1 (TSTATE reports it), one
with bytes to come cannot be freed (cause 6), a count past 32 bits traps (cause 7). -/
def Obligations.TilesAreMappedCountedAndFreed : Prop :=
  (∀ (k : Issue) (o : CShape) (e : PalEntry),
    let u : Use := { qg := o.qg.toNat, gr := [(o.gh.toNat, false), (o.go.toNat, false)] }
    k.Ready u →
    k.s.held k.a false = false →
    (k.t.handle k.s (k.t.greg o.gh.toNat) = none → exec (.shape o) k.s = .next (k.afterTrap 8 0x08 (k.t.greg o.gh.toNat))) ∧
    (k.Names o.gh e →
      let side := e.scale ≠ 0
      let go := k.t.greg o.go.toNat
      let gs := if side then k.t.greg (o.go.toNat + 1) else 0
      let cols := o.colsM1.toNat + 1
      let rows := o.rowsM1.toNat + 1
      let bits := cols * fmtBits e.format
      let stride := if o.stride = 0 then bits / 8 else 64 * o.stride.toNat
      let x : Tile := ⟨e, e.eplane + go.toNat, e.splane + gs.toNat, rows, cols, stride, 0, 0, 0, [], 0⟩
      let mappable := e.recOk = true ∧ e.format ≠ 0 ∧ e.space ∈ [2, 3, 4, 5, 6]
      let absent := side ∧ k.t.geom.gregs ≤ o.go.toNat + 1
      let late := side ∧ k.t.gMark (o.go.toNat + 1) = .empty
      let trap := fun (code : Nat) (info : Word) => exec (.shape o) k.s = .next (k.afterTrap 8 code info)
      let rugged := bits % 512 ≠ 0 ∨ stride < bits / 8 ∨ (side ∧ cols % sideGroup e.scale ≠ 0)
      let past := e.limit < e.eplane + go.toNat + (rows - 1) * stride + bits / 8
      (¬ mappable → trap 0x08 (k.t.greg o.gh.toNat)) ∧
      (mappable → absent → trap 0x02 (unitWords (.shape o))) ∧
      (mappable → ¬ absent → late → exec (.shape o) k.s = .next k.s.blocked) ∧
      (mappable → ¬ absent → ¬ late →
        ((oget k.s.eng.tiles (k.tile o.t)).isSome = true → trap 0x12 (BitVec.ofNat 64 (o.t.toNat + 2 * 256))) ∧
        (oget k.s.eng.tiles (k.tile o.t) = none → freeEntry k.s k.t.geom.core = none →
          trap 0x12 (BitVec.ofNat 64 (o.t.toNat + 5 * 256))) ∧
        (oget k.s.eng.tiles (k.tile o.t) = none → ∀ i, freeEntry k.s k.t.geom.core = some i →
          (rugged → trap 0x04 (BitVec.ofNat 64 (bits / 8 % 2 ^ 32))) ∧
          (¬ rugged → go.toNat % 64 ≠ 0 → trap 0x05 go) ∧
          (¬ rugged → go.toNat % 64 = 0 → gs.toNat % 64 ≠ 0 → trap 0x05 gs) ∧
          (¬ rugged → go.toNat % 64 = 0 → gs.toNat % 64 = 0 →
            (past → trap 0x07 go) ∧
            (¬ past → side → e.limit < e.splane + gs.toNat + x.sideSpan → trap 0x07 gs) ∧
            (¬ past → (side → e.splane + gs.toNat + x.sideSpan ≤ e.limit) →
              exec (.shape o) k.s = .next (k.passes u 8 (fun s => s.setTile (k.tile o.t) (some { x with slot := i })))))))))  ∧
  (∀ (k : Issue), k.s.held k.a false = false →
    (∀ (o : CTile), let u : Use := { qg := o.qg.toNat, gr := [(o.g.toNat, false)] }
      k.Ready u → let n := k.t.greg o.g.toNat
      (oget k.s.eng.tiles (k.tile o.t) = none →
        exec (.texpect o) k.s = .next (k.afterTrap 8 0x12 (BitVec.ofNat 64 (o.t.toNat + 256)))) ∧
      (∀ x, k.TileIs o.t x →
        (2 ^ 32 ≤ n.toNat → exec (.texpect o) k.s = .next (k.afterTrap 8 0x12 (BitVec.ofNat 64 (o.t.toNat + 7 * 256)))) ∧
        (n.toNat < 2 ^ 32 → exec (.texpect o) k.s =
          .next (k.passes u 8 (fun s => s.setTile (k.tile o.t) (some { x with expect := x.expect + n.setWidth 32 })))))) ∧
    (∀ (o : CTFree), let u : Use := { qg := o.qg.toNat }
      k.Ready u →
      (oget k.s.eng.tiles (k.tile o.t) = none →
        exec (.tfree o) k.s = .next (k.afterTrap 8 0x12 (BitVec.ofNat 64 (o.t.toNat + 256)))) ∧
      (∀ x, oget k.s.eng.tiles (k.tile o.t) = some x → x.drains = [] →
        (0 < (x.expect - x.count).toInt →
          exec (.tfree o) k.s = .next (k.afterTrap 8 0x12 (BitVec.ofNat 64 (o.t.toNat + 6 * 256)))) ∧
        ((x.expect - x.count).toInt ≤ 0 → namedTile k.s (k.tile o.t) = false →
          exec (.tfree o) k.s = .next (k.passes u 8 (fun s => s.setTile (k.tile o.t) none))))) ∧
    (∀ (o : CTile), k.Ready { qg := o.qg.toNat, gw := [o.g.toNat] } → ∃ s' t, exec (.tstate o) k.s = .next s' ∧
      s'.team? k.tid = some t ∧ t.lanes = k.t.lanes ∧ s'.eng = k.s.eng ∧ s'.mem = k.s.mem ∧
      (oget k.s.eng.tiles (k.tile o.t) = none → t.g = (k.t.setG o.g.toNat 0).g) ∧
      (∀ x, oget k.s.eng.tiles (k.tile o.t) = some x → x.fail < 2 ^ 8 →
        let w := t.greg o.g.toNat
        w.extractLsb' 0 2 = (if x.drains ≠ [] then 3 else if 0 < (x.expect - x.count).toInt then 1 else 2) ∧
        w.extractLsb' 8 8 = BitVec.ofNat 8 x.fail ∧
        w.extractLsb' 32 32 = (if 0 < (x.expect - x.count).toInt then x.expect - x.count else 0))))

/-- R262, R263: CPY and FILL open a block command with the team's slice; a CPY joins the one an earlier team has opened, which starts
when every team has arrived; a split team and another kind of command trap BARRIER.
R265, R266: CPYV, GATH and SCAT enter the streamer's queue. -/
def Obligations.CopiesAndGathersEnter : Prop :=
  (∀ (k : Issue) (o : CCpy),
    let n := o.len64.toNat * 64
    (∀ a b, k.Ready { qg := o.qg.toNat, gr := pair o.gs ++ pair o.gd, gw := statUse o.stat } → k.Names o.gs a → k.Names o.gd b →
      copyFrom k.s a = true → copyTo k.s b = true → ¬ (a.space = 9 ∧ b.space = 9) → k.Fits o.gs a n 64 → k.Fits o.gd b n 64 →
      (b.space = 7 → k.Loaded) →
      let ranges := [(false, (⟨a, k.pairOff o.gs, n⟩ : Region).pieces k.l k.t.geom),
        (true, (⟨b, k.pairOff o.gd, n⟩ : Region).pieces k.l k.t.geom)]
      let x := k.slice o.stat (some ⟨a, k.pairOff o.gs, n⟩) (some ⟨b, k.pairOff o.gd, n⟩) 0
      (k.t.armF.isSome = true → (∃ need, k.Room need .cpy ranges) → exec (.cpy o) k.s = .next (k.afterTrap 8 0x10 256)) ∧
      (k.Opens (if n = 0 then 0 else 2) .cpy ranges → ∃ s', exec (.cpy o) k.s = .next s' ∧
        Queued k s' o.stat ranges (fun c => c.kind = .cpy ∧ c.sg = o.sg.toNat ∧ c.number = k.t.collSeq ∧ c.slices = [x])) ∧
      (k.t.armF = none → (∃ need, k.Room need .cpy ranges) → ∀ cid c, k.s.blockCmd k.t.geom k.t.collSeq = some (cid, c) →
        (c.kind ≠ .cpy → exec (.cpy o) k.s = .next (k.afterTrap 8 0x10 (3 * 256))) ∧
        (c.kind = .cpy → sliceRoom k.s k.tid cid c (if n = 0 then 0 else 2) = true → ∃ s' c', exec (.cpy o) k.s = .next s' ∧
          s'.cmd? cid = some c' ∧ c'.slices = c.slices ++ [x] ∧
          (c'.joining = false ↔ ∀ t ∈ k.s.blockLive k.t.geom.launch k.t.geom.core k.t.geom.block,
            ∃ y ∈ c'.slices, y.team = t)))) ∧
    (∀ b, k.Ready { qg := o.qg.toNat, gr := (o.gs.toNat, false) :: pair o.gd, gw := statUse o.stat } → k.Names o.gd b →
      copyTo k.s b = true → k.Fits o.gd b n 64 → (b.space = 7 → k.Loaded) →
      let ranges := [(true, (⟨b, k.pairOff o.gd, n⟩ : Region).pieces k.l k.t.geom)]
      (k.t.armF.isSome = true → (∃ need, k.Room need .fill ranges) → exec (.fill o) k.s = .next (k.afterTrap 8 0x10 256)) ∧
      (k.Opens (if n = 0 then 0 else 1) .fill ranges → ∃ s', exec (.fill o) k.s = .next s' ∧
        Queued k s' o.stat ranges (fun c => c.kind = .fill ∧ c.sg = o.sg.toNat ∧ c.number = k.t.collSeq ∧
          c.slices = [k.slice o.stat none (some ⟨b, k.pairOff o.gd, n⟩) (k.t.greg o.gs.toNat)])))) ∧
  (∀ (k : Issue),
    (∀ (o : CCpyv) (a b : PalEntry), let n := o.len64.toNat * 64
      k.Ready { qg := o.qg.toNat, gr := (o.gv.toNat, false) :: (pair o.gs ++ pair o.gd), gw := statUse o.stat } →
      k.Names o.gs a → k.Names o.gd b → copyFrom k.s a = true → b.space ∈ [2, 3, 4, 5, 6] → b.perm.testBit 1 = true →
      k.Fits o.gs a n 64 → k.Fits o.gd b (n + 64) 64 →
      let ranges := [(false, (⟨a, k.pairOff o.gs, n⟩ : Region).pieces k.l k.t.geom),
        (true, (⟨b, k.pairOff o.gd, n + 64⟩ : Region).pieces k.l k.t.geom)]
      k.Room 2 (.cpyv (k.t.greg o.gv.toNat)) ranges → ∃ s', exec (.cpyv o) k.s = .next s' ∧
        Queued k s' o.stat ranges (fun c => c.kind = .cpyv (k.t.greg o.gv.toNat) ∧ c.reserved = 2 ∧ c.joining = false)) ∧
    (∀ (o : CGath) (scat : Bool) (te ie xe : PalEntry),
      let i : Instr := if scat then .scat o else .gath o
      let el := 2 ^ o.lesz.toNat
      let n := o.nM1.toNat + 1
      let iw := if o.iw64 then 8 else 4
      let table : Region := ⟨te, k.pairOff o.gt, te.limit - k.pairOff o.gt⟩
      let kind := CmdKind.gath table ⟨ie, k.pairOff o.gi, n * iw⟩ (k.pairOff o.gt) o.iw64 el n scat
      k.Ready (gathUse o) → k.Names o.gt te → k.Names o.gi ie → k.Names o.gx xe →
      te.space ∈ [2, 3, 4, 5, 6] → ie.space ∈ [2, 3, 4, 5] → xe.space ∈ [2, 3, 4, 5] →
      te.perm.testBit (if scat then 1 else 0) = true → ie.perm.testBit 0 = true →
      xe.perm.testBit (if scat then 0 else 1) = true → k.pairOff o.gt % el = 0 → k.Fits o.gi ie (n * iw) 64 →
      k.Fits o.gx xe (n * el) 64 →
      let ranges := [(false, (⟨ie, k.pairOff o.gi, n * iw⟩ : Region).pieces k.l k.t.geom),
        (!scat, (⟨xe, k.pairOff o.gx, n * el⟩ : Region).pieces k.l k.t.geom), (scat, table.pieces k.l k.t.geom)]
      k.Room 3 kind ranges → ∃ s', exec i k.s = .next s' ∧ Queued k s' o.stat ranges (fun c => c.kind = kind ∧ c.sg = o.sg.toNat ∧ c.reserved = 3 ∧ c.joining = false)))

/-- R255, R267 to R271: MMA, MMA.H, the forms of MEPI and MZERO enter their core's matrix queue; every command of majors 0x38 to 0x3A
of a launch without the matrix claim traps TILE cause 8, the SEND forms after the checks of their handle. -/
def Obligations.MatrixCommandsEnter : Prop :=
  ∀ (k : Issue), k.s.held k.a false = false →
    (k.l.lr.mx = false →
      let refused := fun (i : Instr) => exec i k.s = .next (k.afterTrap 8 0x12 (8 * 256))
      (∀ o : CMma, k.Ready { qg := o.qg.toNat } → refused (.mma o) ∧ refused (.mmaH o)) ∧
      (∀ o : CMepi, k.Ready (mepiUse o false) → refused (.mepi o) ∧ refused (.mepiT2 o)) ∧
      (∀ (o : CMepi) (e : PalEntry), k.Ready (mepiUse o true) → k.t.handle k.s (k.t.greg (o.gs.toNat + 1)) = some e →
        e.space = 7 → k.s.groupValid e.target = true → e.isSealed = false → refused (.mepiSend o) ∧ refused (.mepiT2Send o)) ∧
      (∀ o : CMzero, k.Ready { qg := o.qg.toNat, gr := (o.tag.map (fun r => [(r.toNat, false)])).getD [] } → refused (.mzero o)) ∧
      (∀ o : CReg1, (k.Ready { qg := o.qg.toNat, gw := [o.g.toNat] } → refused (.mfence o)) ∧
        (k.Ready { qg := o.qg.toNat, gr := [(o.g.toNat, false)] } → refused (.mwait o))) ∧
      (∀ o : CMget, k.Ready { qg := o.qg.toNat, vw := [o.vd.toNat], gr := [(o.gr.toNat, false)] } → refused (.mget o))) ∧
    (k.l.lr.mx = true →
      (∀ (o : CMma) (had : Bool) (ta tb : Tile),
        let i : Instr := if had then .mmaH o else .mma o
        let pts := if had then some (mmaPoints o.hn.toNat) else none
        let m := setMode k.s k.t.geom o.a.toNat
        k.Ready { qg := o.qg.toNat } → k.TileIs o.ta ta → k.TileIs o.tb tb →
        ta.rows = (if m then 128 else 256) → ta.entry.space = 2 → ta.entry.perm.testBit 0 = true → tb.rows = 128 →
        tb.cols = ta.cols → tb.entry.perm.testBit 0 = true → mmaFormats m ta.entry.format tb.entry.format = true →
        ta.cols % kBlock ta.entry.format tb.entry.format = 0 → (∀ n, pts = some n → ta.cols % n = 0) →
        ta.drains = [] → tb.drains = [] → (ta.expect - ta.count).toInt ≤ 0 → (tb.expect - tb.count).toInt ≤ 0 →
        let ranges := [(false, ta.pieces k.l k.t.geom), (false, tb.pieces k.l k.t.geom)]
        k.Room 2 (.mma o.a.toNat ta tb pts o.depth.toNat) ranges → ∃ s', exec i k.s = .next s' ∧
          Queued k s' none ranges (fun c => c.kind = .mma o.a.toNat ta tb pts o.depth.toNat ∧ c.sg = o.sg.toNat ∧ c.tiles = [k.tile o.ta, k.tile o.tb])) ∧
      (∀ (o : CMepi) (t : Tile) (t2 : Bool) (tt : Tile),
        let i : Instr := if t2 then .mepiT2 o else .mepi o
        let rows := if setMode k.s k.t.geom o.a.toNat then 128 else 256
        k.Ready (mepiUse o false) → k.TileIs o.t t → mepiTile t rows 128 true = true → t.drains = [] →
        (t2 = true → k.TileIs o.tt tt ∧ mepiTile tt 128 rows true = true ∧ tt.drains = []) →
        let ranges := (true, t.pieces k.l k.t.geom) :: if t2 then [(true, tt.pieces k.l k.t.geom)] else []
        (∀ kind : CmdKind, kind.matrix = true → k.Room (if t2 then 2 else 1) kind ranges) →
        ∃ s', exec i k.s = .next s' ∧ Queued k s' none ranges (fun c =>
            ∃ hb, c.kind = .mepi o.a.toNat t true (if t2 then some tt else none) (k.t.greg o.gs.toNat) none o.clr o.unsc o.rsr
              (mepiPoints o.hn.toNat) k.t.srseed hb)) ∧
      (∀ (o : CMepi) (t : Tile) (t2 : Bool) (tt : Tile) (e : PalEntry),
        let i : Instr := if t2 then .mepiT2Send o else .mepiSend o
        let rows := if setMode k.s k.t.geom o.a.toNat then 128 else 256
        k.Ready (mepiUse o true) → k.t.handle k.s (k.t.greg (o.gs.toNat + 1)) = some e → e.space = 7 →
        k.s.groupValid e.target = true → k.Loaded →
        (e.isSealed = true → exec i k.s = .next (k.afterTrap 8 0x0D (k.t.greg (o.gs.toNat + 1)))) ∧
        (e.isSealed = false → k.TileIs o.t t → mepiTile t rows 128 false = true → rtypeFormat e.rtype = some t.entry.format →
          (t2 = true → k.TileIs o.tt tt ∧ mepiTile tt 128 rows true = true ∧ tt.drains = []) →
          let ranges := if t2 then [(true, tt.pieces k.l k.t.geom)] else []
          (∀ kind : CmdKind, kind.matrix = true → k.Room (if t2 then 1 else 0) kind ranges) →
          ∃ s', exec i k.s = .next s' ∧ Queued k s' none ranges (fun c =>
              (k.s.groupFailed e.target = none → c.fail = none) ∧
              ∃ hb, c.kind = .mepi o.a.toNat t false (if t2 then some tt else none) (k.t.greg o.gs.toNat)
                (some (e, sget 0 k.s.atrium.nextOp e.target)) o.clr o.unsc o.rsr (mepiPoints o.hn.toNat) k.t.srseed hb))) ∧
      (∀ o : CMzero, k.Ready { qg := o.qg.toNat, gr := (o.tag.map (fun r => [(r.toNat, false)])).getD [] } →
        let tag : BitVec 32 := match o.tag with | some r => (k.t.greg r.toNat).setWidth 32 | none => 0x3F800000
        k.Room 0 (.mzero o.a.toNat tag o.f64) [] → ∃ s', exec (.mzero o) k.s = .next s' ∧
          Queued k s' none [] (fun c => c.kind = .mzero o.a.toNat tag o.f64)))

/-- R268: MFENCE closes the matrix commands its arm has issued into the next batch and gives its number; MWAIT passes once every
command of the batch has completed, traps with its failure, or traps TILE cause 4 on a number not given out.
R269: MGET gives lane L two elements of row r + L div 64 of a binary32 set, or one of row r + L div 128 of a binary64 set;
a lane past the last row keeps its register; a row past the set traps BOUNDS.
That MWAIT traps with the batch's failure and TRAPINFO 0 is the model's reading (log 24, DEDUCED). -/
def Obligations.MatrixBatchesAndReadback : Prop :=
  (∀ (k : Issue) (o : CReg1), k.l.lr.mx = true → k.s.held k.a false = false →
    (k.Ready { qg := o.qg.toNat, gw := [o.g.toNat] } → ∃ s' t a b, exec (.mfence o) k.s = .next s' ∧ s'.team? k.tid = some t ∧
      t.arm? k.f = some a ∧ a.pc = (k.a.advance 8).pc ∧ a.mcmds = [] ∧ t.batchNo = k.t.batchNo + 1 ∧
      t.g = (k.t.setG o.g.toNat ((k.t.batchNo + 1).setWidth 64)).g ∧ t.lanes = k.t.lanes ∧ s'.mem = k.s.mem ∧ s'.eng = k.s.eng ∧
      oget t.batches (k.t.batchNo + 1).toNat = some b ∧ b.cmds = k.a.mcmds.filter k.s.cmdLive) ∧
    (∀ u : Use, u = { qg := o.qg.toNat, gr := [(o.g.toNat, false)] } → k.Ready u →
      let n := (k.t.greg o.g.toNat).setWidth 32
      let d := (k.t.batchNo - n).toNat
      let passed := k.passes u 8 id
      let seen := k.passes u 8 (fun s => s.dropLeases k.t.geom.core)
      (2 ^ 31 < d → exec (.mwait o) k.s = .next (k.afterTrap 8 0x12 (4 * 256))) ∧
      (d = 2 ^ 31 → exec (.mwait o) k.s = .next passed) ∧
      (d < 2 ^ 31 →
        (oget k.t.batches n.toNat = none → exec (.mwait o) k.s = .next seen) ∧
        (∀ b, oget k.t.batches n.toNat = some b →
          ((∃ c ∈ b.cmds, k.s.cmdLive c = true) → exec (.mwait o) k.s = .next (k.s.blocked)) ∧
          ((∀ c ∈ b.cmds, k.s.cmdLive c = false) →
            (∀ c, b.fail = some c → exec (.mwait o) k.s = .next (k.afterTrap 8 c 0)) ∧
            (b.fail = none → exec (.mwait o) k.s = .next seen)))))) ∧
  (∀ (k : Issue) (o : CMget), k.l.lr.mx = true → k.s.held k.a false = false →
    let u : Use := { qg := o.qg.toNat, vw := [o.vd.toNat], gr := [(o.gr.toNat, false)] }
    k.Ready u →
    let r := k.t.greg o.gr.toNat
    let x := k.s.acc? k.t.geom.launch k.t.geom.core o.a.toNat
    setCmds k.s k.t.geom o.a.toNat = [] →
    ((if x.f64 then 128 else 256) ≤ r.toNat → exec (.mget o) k.s = .next (k.afterTrap 8 0x07 r)) ∧
    (r.toNat < (if x.f64 then 128 else 256) → ∃ val : Nat → Word,
      exec (.mget o) k.s = .next (k.passes u 8 (fun s => s.modTeam k.tid (fun t =>
        { t with lanes := mapLanes k.a.active (fun L y => y.setReg o.vd.toNat (val L)) 0 t.lanes }))) ∧
      ∀ L, k.a.active.getLsbD L = true →
        (x.f64 = true → r.toNat + L / 128 < 128 → (val L).toNat = x.at (r.toNat + L / 128) (L % 128) % 2 ^ 64) ∧
        (x.f64 = false → r.toNat + L / 64 < 256 → x.at (r.toNat + L / 64) (2 * (L % 64)) < 2 ^ 32 →
          (part 32 (val L) 0).toNat = x.at (r.toNat + L / 64) (2 * (L % 64)) % 2 ^ 32 ∧
          (part 32 (val L) 1).toNat = x.at (r.toNat + L / 64) (2 * (L % 64) + 1) % 2 ^ 32) ∧
        ((if x.f64 then r.toNat + L / 128 ≥ 128 else r.toNat + L / 64 ≥ 256) → val L = (k.t.lane L).reg o.vd.toNat)))

/-- R272: a collective on a group the chip is a member of opens a block command over its tile, which drains where this member
contributes bytes of it; a handle that names none traps HANDLE,
a sealed one of a reducing form SEALED_REDUCE. That a group of which this chip is no member is refused so is the model's reading (log
81, DEDUCED). -/
def Obligations.CollectivesOpen : Prop :=
  ∀ (k : Issue) (o : CColl) (form : Fin 4) (e : PalEntry) (t : Tile),
    let i : Instr := match form with | 0 => .collAr o | 1 => .collRs o | 2 => .collAg o | 3 => .collBc o
    let h := k.t.greg o.gg.toNat
    let p := k.s.groupSize e.target
    let named := e.space = 7 ∧ k.s.groupValid e.target = true ∧ k.s.groupMember e.target = true
    k.Ready (collUse o) → k.s.held k.a false = false → k.Loaded → k.Names o.gg e →
    (¬ named → exec i k.s = .next (k.afterTrap 8 0x08 h)) ∧
    (named → form.val < 2 → e.isSealed = true → exec i k.s = .next (k.afterTrap 8 0x0D h)) ∧
    (named → (form.val < 2 → e.isSealed = false) → p ≤ o.root.toNat → exec i k.s = .next (k.afterTrap 8 0x08 h)) ∧
    (named → (form.val < 2 → e.isSealed = false) → o.root.toNat < p → k.TileIs o.t t → t.stride = t.rowBytes →
      t.entry.perm.testBit 0 = true → (form.val < 2 → collFormat e.rtype t.entry.format = true) →
      (form.val = 1 → t.bytes % (64 * p) = 0) → (t.expect - t.count).toInt ≤ 0 → t.drains = [] →
      let ranges := [(false, (⟨t.entry, t.eorg, t.bytes⟩ : Region).pieces k.l k.t.geom)]
      k.Opens 1 (.coll form.val t e o.root.toNat (sget 0 k.s.atrium.nextOp e.target)) ranges →
      ∃ s', exec i k.s = .next s' ∧ Queued k s' o.stat ranges (fun c =>
          c.kind = .coll form.val t e o.root.toNat (sget 0 k.s.atrium.nextOp e.target) ∧ c.tiles = [k.tile o.t] ∧
          (k.s.groupFailed e.target = none → c.fail = none)) ∧
        (∃ t', oget s'.eng.tiles (k.tile o.t) = some t' ∧
          t'.drains.length = if t.bytes = 0 ∨ (form.val = 3 ∧ k.s.groupRank e.target ≠ o.root.toNat) then 0 else 1))

/-- R273, R339, R342: EASEL sends the packet image of its handle to its site and keeps the packet until it is
answered; its own checks trap HANDLE, ALIGN_ISSUE, BOUNDS and GUEST. -/
def Obligations.EaselSendsItsPacket : Prop :=
  ∀ (k : Issue) (o : CEasel) (e : PalEntry) (x : Tile),
    let n := if o.site then 1 else 0
    let off := k.t.greg (o.gk.toNat + 1)
    let site := k.s.site n
    let place := BitVec.ofNat 64 (o.queue.toNat * 2 + n)
    k.Ready { qg := o.qg.toNat, gr := pair o.gk, gw := statUse o.stat } → k.s.held k.a false = false → k.Names o.gk e →
    e.space ∈ [2, 4, 5] → e.perm.testBit 0 = true → (o.stat = none → k.TileIs o.ctile x) → k.Loaded →
    (off.toNat % 128 ≠ 0 → exec (.easel o) k.s = .next (k.afterTrap 8 0x05 off)) ∧
    (off.toNat % 128 = 0 → e.limit < off.toNat + 128 → exec (.easel o) k.s = .next (k.afterTrap 8 0x07 off)) ∧
    (off.toNat % 128 = 0 → off.toNat + 128 ≤ e.limit →
      (site.attested = false ∨ site.isolated = true ∨ site.qm1 < o.queue.toNat →
        exec (.easel o) k.s = .next (k.afterTrap 8 0x13 place)) ∧
      (site.attested = true → site.isolated = false → o.queue.toNat ≤ site.qm1 → ∀ img, k.Image e off.toNat img →
        (0xF000 ≤ leNat (img.take 2) → exec (.easel o) k.s = .next (k.afterTrap 8 0x13 (256 + place))) ∧
        (leNat (img.take 2) < 0xF000 → ∀ slot, k.s.freeSlotOf n o.queue.toNat = some slot →
          ∃ s' pkt, exec (.easel o) k.s = .next s' ∧ s'.out = k.s.out ++ [.packet n pkt] ∧ pkt.length = 128 ∧
            pkt.take 2 = img.take 2 ∧ pkt.drop 16 = img.drop 16 ∧ leNat ((pkt.drop 4).take 4) = sget 0 site.seqs o.queue.toNat % 2 ^ 32 ∧
            (∃ p ∈ s'.easel.packets, p.site = n ∧ p.queue = o.queue.toNat ∧ p.slot = slot ∧ p.pkt = pkt) ∧
            Queued k s' o.stat [] (fun c => c.started = true ∧ ∃ seq ct n64, c.kind = .easel n o.queue.toNat seq slot pkt ct n64))))

/-- R91, R274: BIND gives a lane register its walker at position (0, 0, 0), keeping its values (those of the walker it replaces,
if there is one); UNBIND gives them back. -/
def Obligations.WalkersBindAndUnbind : Prop :=
  ∀ (k : Issue), k.s.held k.a false = false →
    (∀ (o : CBind) (e : PalEntry),
      let u : Use := { qg := o.qg.toNat, gr := (o.gh.toNat, false) :: pair o.gc, vn := [60 + o.w.toNat] }
      k.Ready u → k.Names o.gh e → k.t.vMark (60 + o.w.toNat) = .full →
      let c := k.t.greg o.gc.toNat
      let x := k.t.greg (o.gc.toNat + 1)
      let ext := [0, 1, 2].map (fun i => (x.extractLsb' (21 * i) 21).toNat)
      let walkable := e.perm.testBit 0 = true ∧ e.space ≠ 7 ∧ e.space ≠ 9 ∧ e.space ≠ 10
      (¬ walkable → exec (.bind o) k.s = .next (k.afterTrap 8 0x08 (k.t.greg o.gh.toNat))) ∧
      (walkable → c.getLsbD 63 = true → exec (.bind o) k.s = .next (k.afterTrap 8 0x07 c)) ∧
      (walkable → c.getLsbD 63 = false → (x.getLsbD 63 = true ∨ 0 ∈ ext) → exec (.bind o) k.s = .next (k.afterTrap 8 0x07 x)) ∧
      (walkable → c.getLsbD 63 = false → x.getLsbD 63 = false → 0 ∉ ext →
        exec (.bind o) k.s = .next (k.passes u 8 (fun s => (s.dropFetch k.tid o.w.toNat).modTeam k.tid (fun t =>
          let t := t.unbindWalker o.w.toNat
          t.setWalker o.w.toNat (some (startWalker e o.ls.toNat o.sx ext ([0, 1, 2].map (fun i => (c.extractLsb' (21 * i) 21).toInt))
            (t.lanes.map (fun l => l.reg (60 + o.w.toNat)))))))))) ∧
    (∀ (o : CUnbind), let u : Use := { qg := o.qg.toNat }
      k.Ready u →
      let t := k.t.unbindWalker o.w.toNat
      exec (.unbind o) k.s = .next (k.passes u 8 (fun s => (s.dropFetch k.tid o.w.toNat).modTeam k.tid (fun t =>
        t.unbindWalker o.w.toNat))) ∧
      (k.t.walker? o.w.toNat = none → t = k.t) ∧
      (∀ w, k.t.walker? o.w.toNat = some w → t.walker? o.w.toNat = none ∧
        (∀ n, n ≠ o.w.toNat → t.walker? n = k.t.walker? n) ∧ t.lanes.length = k.t.lanes.length ∧ t.g = k.t.g ∧
        ∀ L < k.t.lanes.length, (t.lane L).reg (60 + o.w.toNat) = (w.saved[L]?).getD 0 ∧
          ∀ r, r ≠ 60 + o.w.toNat → (t.lane L).reg r = (k.t.lane L).reg r))

end

/-! ### The events of teams, cores and homes -/

namespace Sys2Proof.Machine

/-- A message of the interconnect that may be delivered now: first of its direction, core and sector, and nothing it follows still
under way (R118, R156). -/
structure State.Delivers (s : State) (id : Nat) (toHome : Bool) (m : Msg) : Prop where
  ready : s.deliverable id = some m
  dir : m.toHome = toHome

/-- Acknowledgements for the arms whose bytes a write-back has committed (R118). -/
def State.acked (s : State) (m : Msg) (ops : List Nat) : State := ackAll s m.core m.sector ops

/-- A home serves a write at once: nothing queued and no write pending, no owner, no lease running, no other sharer (R160, R163). -/
structure State.FreeFor (s : State) (sec core : Nat) : Prop where
  idle : (s.dirEnt sec).busy = false
  owner : (s.dirEnt sec).owner = none
  lease : (s.dirEnt sec).exp ≤ s.sched.gtc
  sharers : ∀ c ∈ (s.dirEnt sec).sharers, c = core

end Sys2Proof.Machine

section
open Sys2Proof Sys2Proof.Machine

/-- R64, R74, R92, R94, R106, R118, R121: the events that act on a team: a release of parked lanes without an arm, the team's end,
a walker's elements, a load's values, a multicast copy, an acknowledgement. -/
def Obligations.TeamEventsComplete : Prop :=
  ∀ (s : State),
    (∀ tid t j, s.team? tid = some t → allParked t = true → oldestHolding t = some j →
      exec (.lostReconvergenceRelease tid) s = .next (s.commitArms tid t.armF.isSome { (t.releaseTo j).popArms with lostjoin := true })) ∧
    (∀ tid t, s.team? tid = some t → t.live = 0 →
      (∀ o ∈ slist s.coh.ops, o.2.team = tid → o.2.kind ≠ .load → accepted s o.1 = true) →
      ∃ s', exec (.teamEnd tid) s = .next s' ∧ s'.team? tid = none ∧ s'.mem = s.mem) ∧
    (∀ tid t n lanes w l p, s.team? tid = some t → t.walker? n = some w → s.launch? t.geom.launch = some l → w.pos = some p →
      let mine := fun (x : Nat × Load) => x.2.team = tid ∧ x.2.walker = some n
      let keys := ((lanesOf (t.live &&& lanes) t.geom.lanes).filter (fun L => !w.arrived.any (fun x => x.1 = L))).filterMap (walkKey s l t w p)
      ((∀ x ∈ slist s.coh.loads, ¬ mine x) → l.onCore = true → keys ≠ [] →
        exec (.walkerElementArrival tid n lanes) s = .next (startFetch s tid n t w keys)) ∧
      (∀ x, (slist s.coh.loads).find? (fun x => mine x) = some x → (∀ y ∈ slist x.2.parts, y.2.st ≠ .waiting) →
        exec (.walkerElementArrival tid n lanes) s = .next ((s.dropFetch tid n).setTeam tid (t.setWalker n
          (some { w with arrived := w.arrived ++ (slist x.2.parts).flatMap (fun y => y.2.elements) }))))) ∧
    (∀ load part m, s.coh.net.find? (fun m => m.body.fills load part) = some m → s.deliverable m.id = some m →
      exec (.loadReply load part) s = .next (((s.takeMsg m.id).takeReply m.body).handOn load part)) ∧
    (∀ load part l p, oget s.coh.loads load = some l → oget l.parts part = some p → p.st ≠ .waiting → l.walker = none →
      s.coh.net.find? (fun m => m.body.fills load part) = none → exec (.loadReply load part) s = .next (fillPart s load part l p) ∧
      (∀ v t, p.st = .ready v → oset l.parts part none = [] → l.lost = [] → l.poison = 0 → s.team? l.team = some t →
        (p.lanes.map (·.1)).Nodup → ∃ t', (fillPart s load part l p).team? l.team = some t' ∧ t'.vMark l.vd = .full ∧
          (∀ L, L ∉ p.lanes.map (·.1) → t'.lane L = t.lane L) ∧
          ∀ (i : Nat) (x : Nat × Nat) (y : Word), p.lanes[i]? = some x → v[i]? = some y → t.live.getLsbD x.1 = true → x.1 < t.lanes.length →
            (t'.lane x.1).reg l.vd = y ∧ ∀ r, r ≠ l.vd → (t'.lane x.1).reg r = (t.lane x.1).reg r)) ∧
    (∀ id m cells op, s.Delivers id true m → m.body = .stmCopy cells op → (s.dirEnt m.sector).held = false →
      exec (.stmCopyDelivery id) s = .next (((s.takeMsg id).bankWrite cells true).finishOp op) ∧
      (((s.takeMsg id).bankWrite cells true).finishOp op).mem = Memory.putAll s.mem cells) ∧
    (∀ id m op, s.Delivers id false m → m.body = .ack op →
      exec (.homeAcknowledgement id) s = .next ((s.takeMsg id).finishOp op) ∧
      ((s.takeMsg id).finishOp op).opLive op = false ∧ ((s.takeMsg id).finishOp op).mem = s.mem)

/-- R159, R161, R162, R166, R168: what a core makes of each message from a home, and the end of a lease in it. -/
def Obligations.CoresServeTheirMessages : Prop :=
  (∀ (s : State) (c sec : Nat) (y : L1Sec), s.l1? c sec = some y → y.st = .l → y.expiry ≤ s.sched.gtc →
    exec (.validityEnd c sec) s = .next (s.setL1 c sec none)) ∧
  ∀ (s : State) (id : Nat) (m : Msg), s.Delivers id false m →
    let s1 := s.takeMsg id
    let x := s.l1? m.core m.sector
    let owned := ∃ y, x = some y ∧ (y.st = .o ∨ y.st = .m)
    (∀ e data ld p, m.body = .lease e data ld p →
      let keep := s.mayInstall m.core m.sector ld p = true ∧ (∀ y, x = some y → y.st = .l) ∧ s.sched.gtc < e - 64
      (keep → exec (.leaseReply id) s =
        .next ((s1.readyPart ld p data).install m.core m.sector ⟨.l, data, 0, e - 64, []⟩)) ∧
      let wanted := (oget s.coh.loads ld).bind (fun l => oget l.parts p)
      (¬ keep → wanted ≠ none → exec (.leaseReply id) s = .next (s1.readyPart ld p data)) ∧
      (¬ keep → wanted = none → exec (.leaseReply id) s =
        .next ((s1.readyPart ld p data).send true m.core m.sector (.invAck m.id)))) ∧
    (∀ data ld p, m.body = .wiCopy data ld p →
      let keep := s.mayInstall m.core m.sector ld p = true ∧ ¬ owned
      (keep → exec (.wiCopyReply id) s = .next ((s1.readyPart ld p data).install m.core m.sector ⟨.k, data, 0, 0, []⟩)) ∧
      let s2 := s1.readyPart ld p data
      (∀ y, x = some y → y.st = .k → ¬ keep → exec (.wiCopyReply id) s = .next (s2.send true m.core m.sector (.invAck m.id))) ∧
      ((∀ y, x = some y → y.st ≠ .k) → ¬ keep → exec (.wiCopyReply id) s = .next (s2.sendDrop m.core m.sector))) ∧
    (∀ data, m.body = .grant data →
      (oget s.coh.owns (l1Key m.core m.sector) = none →
        exec (.ownershipGrant id) s = .next (s1.send true m.core m.sector .ownerDrop)) ∧
      (∀ acts, oget s.coh.owns (l1Key m.core m.sector) = some acts → exec (.ownershipGrant id) s =
        .next ((({ s1 with coh := { s1.coh with owns := oset s1.coh.owns (l1Key m.core m.sector) none } } : State).install m.core
          m.sector ⟨.o, data, 0, 0, []⟩).ownActs m.core m.sector acts))) ∧
    (m.body = .inval →
      ((∃ y, x = some y ∧ y.st = .k) → exec (.invalidation id) s =
        .next ((s1.setL1 m.core m.sector none).send true m.core m.sector (.invAck m.id))) ∧
      (¬ (∃ y, x = some y ∧ y.st = .k) → exec (.invalidation id) s = .next (s1.send true m.core m.sector (.invAck m.id)))) ∧
    (m.body = .recall →
      (∀ y, x = some y → (y.st = .o ∨ y.st = .m) → let o := (s1.setL1 m.core m.sector none).writeBackOps (if y.st = .m then y.writers else [])
        exec (.recall id) s = .next (o.2.send true m.core m.sector (.recallAnswer true (dirtyCells m.sector y) o.1))) ∧
      (¬ owned → exec (.recall id) s = .next (s1.send true m.core m.sector (.recallAnswer false [] [])))) ∧
    (m.body = .publish →
      (∀ y, x = some y → (y.st = .o ∨ y.st = .m) → 
        let o := (s1.setL1 m.core m.sector (some { y with st := .o, dirty := 0, writers := [] })).writeBackOps
          (if y.st = .m then y.writers else [])
        exec (.publishRequest id) s = .next (o.2.send true m.core m.sector (.publishAnswer (dirtyCells m.sector y) o.1))) ∧
      (¬ owned → exec (.publishRequest id) s = .next s1)) ∧
    (m.body = .forced → exec (.forcedPublish id) s =
      .next ((s1.publishSectors m.core (fun _ => true)).2.send true m.core m.sector .forcedAnswer
        (s1.publishSectors m.core (fun _ => true)).1))

/-- R115, R131, R158, R163, R164, R166 to R168: what a home, or a bank, makes of each message. A write that nothing holds back commits exactly its
bytes and is acknowledged; one under a lease waits and commits nothing. The model's choices: a late acknowledgement changes nothing (log
92), and a holder reports a wide release by the message that also answers a forced publish (log 58). -/
def Obligations.HomesServeTheirMessages : Prop :=
  ∀ (s : State) (id : Nat) (m : Msg), s.Delivers id true m →
    let s1 := s.takeMsg id
    let sec := m.sector
    let d := s.dirEnt sec
    (∀ b, m.body = .req b → (bankSector sec = false → s.homeAccepts sec = true) →
      (bankSector sec = true → b.isRead = true ∨ d.held = false) →
      let s' := if bankSector sec then bankArrive s1 m.core sec b else s1.homeArrive sec ⟨.core m.core, b⟩
      (b.isSi = true → exec (.siRead id) s = .next s') ∧ (b.isWi = true → exec (.wiRead id) s = .next s') ∧
      (b.isWt = true → exec (.wtRead id) s = .next s') ∧ (b.isWrite = true → exec (.homeWrite id) s = .next s') ∧
      (b.isAtomic = true → exec (.homeAtomic id) s = .next s') ∧ (b.isOwn = true → exec (.ownRequest id) s = .next s') ∧
      (∀ cells op, b = .write cells op →
        (bankSector sec = false → s.FreeFor sec m.core → s'.mem = Memory.putAll s.mem cells ∧
          ∃ a ∈ s'.coh.net, a.toHome = false ∧ a.core = m.core ∧ a.sector = sec ∧ a.body = .ack op) ∧
        (bankSector sec = false → d.busy = false → d.owner = none → s.sched.gtc < d.exp →
          s'.mem = s.mem ∧ (s'.dirEnt sec).queue = [⟨.core m.core, b⟩]))) ∧
    (∀ n, m.body = .invAck n → exec (.invalidationAcknowledgement id) s =
      .next (if (m.core, n) ∈ d.invs then sharerGone s1 m else s1)) ∧
    (m.body = .sharerDrop → exec (.sharerDropNotice id) s = .next (sharerGone s1 m)) ∧
    (m.body = .ownerDrop → exec (.ownerDropNotice id) s = .next (ownerGone s1 sec m.core)) ∧
    (∀ cells ops, m.body = .recallAnswer true cells ops →
      exec (.recallAnswer id) s = .next (ownerGone ((mergeBack s1 sec cells).acked m ops) sec m.core)) ∧
    (∀ cells ops, m.body = .recallAnswer false cells ops → exec (.recallAnswer id) s = .next s1) ∧
    (∀ cells ops, m.body = .publishWriteBack cells ops →
      exec (.publishWriteBack id) s = .next ((mergeBack s1 sec cells).acked m ops) ∧
      ((mergeBack s1 sec cells).acked m ops).mem = Memory.putAll s.mem cells ∧
      ∀ o ∈ ops, ∃ r ∈ ((mergeBack s1 sec cells).acked m ops).coh.net, r.toHome = false ∧ r.core = m.core ∧ r.body = .ack o) ∧
    (∀ cells ops, m.body = .publishAnswer cells ops →
      let s2 := (mergeBack s1 sec cells).acked m ops
      ((s2.dirEnt sec).pubWait = [] → exec (.publishAnswer id) s = .next s2) ∧
      (∀ r rest, (s2.dirEnt sec).pubWait = r :: rest → exec (.publishAnswer id) s =
        .next ((s2.setDir sec { s2.dirEnt sec with pubWait := rest }).answerData sec r))) ∧
    (∀ cells ops, m.body = .evictionWriteBack cells ops → exec (.evictionWriteBack id) s =
      .next (ownerGone ((mergeBack s1 sec cells).acked m ops) sec m.core)) ∧
    (m.body = .narrowRelease →
      (m.core ∈ d.nrh → exec (.narrowReleaseNotice id) s = .next s1) ∧
      (m.core ∉ d.nrh → d.nrh.length < 4 →
        exec (.narrowReleaseNotice id) s = .next (s1.setDir sec { d with nrh := d.nrh ++ [m.core] })) ∧
      (∀ c r, m.core ∉ d.nrh → d.nrh = c :: r → 4 ≤ d.nrh.length → d.forced = [] → exec (.narrowReleaseNotice id) s =
        .next ((s.setDir sec { d with forced := [c] }).send false c sec .forced))) ∧
    (m.body = .forcedAnswer → exec (.forcedPublishAnswer id) s = .next (holderGone s1 m)) ∧
    (m.body = .narrowPublished → exec (.forcedPublishAnswer id) s = .next (holderReports s1 m))

/-- R131, R158, R163: a queue that no lease or sharer holds back any more is served; a directory entry is taken back in its order: the
owner recalled, the sharers asked, the holders asked, then the entry's expiry kept in its set's summary; a watch is registered. -/
def Obligations.HomesServeAndReuseTheirEntries : Prop :=
  ∀ (s : State) (sec : Nat),
    (queueFree s sec = true → exec (.leaseExpires sec) s = .next (s.serveAll sec)) ∧
    (queueFree s sec = true → (s.dirEnt sec).exp = sget 0 s.coh.summary (dirSetOf sec) →
      exec (.summaryExpiry sec) s = .next (s.serveAll sec)) ∧
    (∀ d, oget s.coh.dir sec = some d →
      let i : Instr := .directoryEntryReuse sec
      let ask := d.nrh.filter (fun c => !d.forced.contains c)
      (d.owner ≠ none → d.recalled = false → exec i s = .next (s.recallOwner sec)) ∧
      (d.owner = none → d.sharers ≠ [] → exec i s = .next (d.sharers.foldl (fun s c => s.sendInval sec c) s)) ∧
      (d.owner = none → d.sharers = [] → ask ≠ [] → exec i s =
        .next (ask.foldl (fun s c => s.send false c sec .forced) (s.setDir sec { d with forced := d.forced ++ ask }))) ∧
      (d.owner = none → d.sharers = [] → d.nrh = [] → d.queue = [] → d.pubWait = [] → d.acqWait = [] → d.held = false → ∃ s', exec i s = .next s' ∧
        oget s'.coh.dir sec = none ∧ s'.mem = s.mem ∧
        sget 0 s'.coh.summary (dirSetOf sec) = max (sget 0 s.coh.summary (dirSetOf sec)) d.exp)) ∧
    (∀ chip exp off arm, s.deaf chip = true → exec (.watchRegistration chip exp off arm) s = .next s) ∧
    (∀ chip exp off arm, s.deaf chip = false →
      (∀ key, s.exportAt exp off 1 .read = .bank key → exec (.watchRegistration chip exp off arm) s =
        .next { s with coh := { s.coh with watches := s.coh.watches ++ [(key / 64, chip, arm)] } }) ∧
      (∀ ctx va pa, s.exportAt exp off 1 .read = .mem ctx va pa → exec (.watchRegistration chip exp off arm) s =
        .next { s with coh := { s.coh with watches := s.coh.watches ++ [(pa / 64, chip, arm)] } }))

end

/-! ### The events of engines -/

namespace Sys2Proof.Machine

/-- A status word says how a command ended (R256). -/
structure StatusSays (w : Word) (gres : Nat) (fail : Option Fail) (vmiss wrote : Bool) : Prop where
  gres : (∀ f, fail = some f → f.code < 2 ^ 8 ∧ f.chip < 2 ^ 10) → w.extractLsb' 32 32 = BitVec.ofNat 32 gres
  ok : fail = none → w.extractLsb' 0 32 = (if vmiss then 5 else 0)
  err : ∀ f, fail = some f → f.code < 2 ^ 8 → f.chip < 2 ^ 10 → w.extractLsb' 0 1 = 1 ∧
    w.extractLsb' 1 1 = (if f.part || wrote then 1 else 0) ∧ w.extractLsb' 2 1 = 0 ∧
    w.extractLsb' 3 10 = BitVec.ofNat 10 f.chip ∧ w.extractLsb' 13 11 = 0 ∧ w.extractLsb' 24 8 = BitVec.ofNat 8 f.code

/-- A command that its engine may complete or go on with, with its launch. -/
structure State.Running (s : State) (a : Nat) (c : Cmd) (l : Launch) : Prop where
  cmd : s.cmd? a = some c
  launch : s.launch? c.launch = some l
  parked : c.parked = none

/-- The teams that a command reports to hear how it ended, in their status registers (R256); `s'` is the state after it. -/
def Cmd.Told (s s' : State) (c : Cmd) : Prop :=
  (c.reports.map (·.team)).Nodup → ∀ x ∈ c.reports, ∀ r t, x.stat = some r → s.team? x.team = some t →
    ∃ t', s'.team? x.team = some t' ∧ t'.gMark r = .full ∧ StatusSays (t'.greg r) 0 c.fail c.vmiss c.wrote

/-- A command has left its queue and the range table. -/
structure State.Left (s' : State) (a : Nat) : Prop where
  cmd : s'.cmd? a = none
  locks : ∀ k ∈ s'.eng.locks, k.cmd ≠ a

/-- k between two stopping points of a matrix command (R28). -/
def splitStep (sg : Nat) : Nat := if sg = 0 then 32 else if sg = 1 then 256 else 2048

end Sys2Proof.Machine

section
open Sys2Proof Sys2Proof.Machine

/-- R245, R256: a streamer's round serves every launch with commands at its cluster, one after another; a launch's turn leaves it no more
credit than it had plus its weight times 4096 (of what a waiting launch kept, 128 bytes at most: the model's choice, log 126), and none
when it has nothing left to move; no other launch's turn changes its credit.
R256, R265, R266: a copy, a fill, a CPYV, a GATH or a SCAT that has moved its last byte completes: its status register is full and says
how it ended, it leaves its queue and the range table, memory is as before. A CPYV whose version word differed says VMISS and ERR; a
GATH or SCAT with an element out of bounds, and no other failure, says BOUNDS, with PART when another element succeeded (which ones
count is log 34, the model's choice). A CPYV that fails while it holds its version word's sector releases it first.
R254, R267, R270, R271, R272, R28: the next command of a set takes effect and leaves its queue (MZERO empties the set and sets its mode
and tag, MMA adds every product that is left, MEPI writes its tiles and clears the set when asked, its SEND form once the group has
taken its rows), or goes on fetching; one that has failed leaves without effect; a COLL ends when its result is here; sg = 3 turns
into 2 after 65536 cycles.
R28, R287, R312: an MMA adds its next step, and stops there when its launch is being pre-empted and its sg lets it; a copy of such a
launch stops at its granule, a COLL at its own, a SEND form between two sectors. -/
def Obligations.EngineEventsComplete : Prop :=
  (∀ (s : State) (cl : Nat), streamLaunches s cl ≠ [] → (streamLaunches s cl).Nodup →
    ∃ s', exec (.streamerRound cl) s = .next s' ∧
      ∀ pre lid post l, streamLaunches s cl = pre ++ lid :: post → s.launch? lid = some l →
        let s1 := pre.foldl (roundOf cl) s
        let s2 := roundOf cl s1 lid
        s' = post.foldl (roundOf cl) s2 ∧ creditOf s1 cl lid = creditOf s cl lid ∧ creditOf s' cl lid = creditOf s2 cl lid ∧
        creditOf s' cl lid ≤ min (creditOf s cl lid) 128 + l.lr.weight * 4096 ∧
        ((∀ c ∈ streamCmds s2 cl lid, doneMoving c.2 = true) → creditOf s' cl lid = 0)) ∧
  (∀ (s : State) (a g : Nat) (x : List Nat), s.cmd? a ≠ none → (s.completeCmd a g x).Left a) ∧
  (∀ (s : State) (a : Nat) (c : Cmd), s.cmd? a = some c → c.kind.streams = true → c.joining = false → c.writes = [] →
    (c.started = true ∨ c.fail.isSome = true) → doneMoving c = true →
    let holds := ∃ v, c.kind = .cpyv v ∧ 2 ≤ c.got ∧ c.got < 5
    (¬ holds → ∃ s', exec (.engineCommandComplete a) s = .next s' ∧ s'.Left a ∧ s'.mem = s.mem ∧ (c.settled s.self).Told s s') ∧
    (c.kind = .cpy ∨ c.kind = .fill → (c.settled s.self).reports = c.slices ∧ (c.settled s.self).fail = c.fail) ∧
    (∀ v x r, c.kind = .cpyv v → c.slices = x :: r → (c.settled s.self).reports = [x] ∧ (c.settled s.self).fail = c.fail ∧
      ∀ d, x.dst = some d → 2 ≤ c.got → c.got < 5 →
        let s1 := if d.entry.space = 6 then releaseRemote s a c d [] else s.releaseHold (c.progress / 64)
        exec (.engineCommandComplete a) s = .next (s1.completeCmd a 0 [])) ∧
    (∀ table idx tb iw e n scat x r, c.kind = .gath table idx tb iw e n scat → c.slices = x :: r →
      (c.settled s.self).reports.map (fun y => (y.team, y.stat)) = [(x.team, x.stat)] ∧
      (c.badEl = false ∨ c.fail.isSome = true → (c.settled s.self).fail = c.fail ∧ (c.settled s.self).wrote = c.wrote) ∧
      (c.badEl = true → c.fail = none → (c.settled s.self).fail = some ⟨0x07, s.self, false, false⟩ ∧
        (c.settled s.self).wrote = if scat then c.wrote else decide (0 < c.got)))) ∧
  (∀ (s : State) (a : Nat) (c : Cmd) (l : Launch), s.Running a c l → matrixTurn s a c = true →
    (c.fail.isSome = true → exec (.matrixCommandComplete a) s = .next (s.completeCmd a 0 [])) ∧
    (c.fail = none →
      (∀ x tag f64, c.kind = .mzero x tag f64 → l.status = .resident → ∃ s', exec (.matrixCommandComplete a) s = .next s' ∧ s'.Left a ∧
        s'.acc? c.launch c.core x = ⟨f64, tag, []⟩ ∧ s'.mem = s.mem) ∧
      (∀ x ta tb had depth, c.kind = .mma x ta tb had depth → mayFinish l c = true →
        (∃ s', exec (.matrixCommandComplete a) s = .next s') ∧
        ∀ d s1, mmaAdd s l a c x ta tb had depth ta.cols = .ok d s1 →
          exec (.matrixCommandComplete a) s = .next (s1.completeCmd a 0 [])) ∧
      (∀ x t put tt gs snd clr unsc rsr h seed hb, c.kind = .mepi x t put tt gs snd clr unsc rsr h seed hb →
        heldIn s ((if put then t.pieces l c.geom else []) ++ (tt.map (fun u => u.pieces l c.geom)).getD []) = false →
        (snd = none ∧ (l.status = .resident ∨ (l.isStopping = true ∧ c.started = true)) ∨
          snd ≠ none ∧ l.onCore = true ∧ t.bytes ≤ 64 * c.sent.length) →
        ∃ s', exec (.matrixCommandComplete a) s = .next s' ∧ s'.cmd? a = none ∧
          s' = (mepiDone s l a c x t put tt gs clr unsc rsr h seed hb).completeCmd a 0 [] ∧
          (clr = true → s'.acc? c.launch c.core x = { s.acc? c.launch c.core x with el := [] }) ∧
          (put = false → tt = none → s'.mem = s.mem)))) ∧
  (∀ (s : State) (a : Nat) (c : Cmd) (l : Launch), s.Running a c l → matrixTurn s a c = true →
    (∀ x ta tb had depth, c.fail = none → c.stopped = false → c.kind = .mma x ta tb had depth →
      (l.status = .resident ∨ (l.isStopping = true ∧ c.started = true)) → c.progress + mmaStep had < ta.cols →
      let k := c.progress + mmaStep had
      (∃ s', exec (.splitPoint a) s = .next s') ∧
      ∀ d s1, mmaAdd s l a c x ta tb had depth k = .ok d s1 → exec (.splitPoint a) s =
        .next (if l.isStopping = true ∧ c.sg < 3 ∧ k % splitStep c.sg = 0 then s1.stopCmd a else s1))) ∧
  (∀ (s : State) (a : Nat) (c : Cmd) (l : Launch), s.cmd? a = some c → s.launch? c.launch = some l → l.isStopping = true →
    c.fail = none → c.stopped = false → c.started = true →
    ((s.stopCmd a).cmd? a).map (·.stopped) = some true ∧ (s.stopCmd a).mem = s.mem ∧
    (c.kind.streams = true → doneMoving c = false → stopsHere l c = true → exec (.splitPoint a) s = .next (s.stopCmd a)) ∧
    (∀ x t put tt gs g clr unsc rsr h seed hb, c.kind = .mepi x t put tt gs (some g) clr unsc rsr h seed hb →
      64 * c.sent.length < t.bytes → exec (.splitPoint a) s = .next (s.stopCmd a)) ∧
    (∀ form t gh root gop, c.kind = .coll form t gh root gop → 64 * c.sent.length < collSends s form t gh root →
      collAtSplit c = true → exec (.splitPoint a) s = .next (s.stopCmd a))) ∧
  (∀ (s : State) (a : Nat) (c : Cmd), s.cmd? a = some c →
    (∀ form t gh root gop, c.kind = .coll form t gh root gop → c.joining = false → (c.fail.isSome = true ∨
        (collGets s form t gh ≤ sget 0 s.atrium.results (resultKey gh.target gop) ∧ c.writes = [] ∧
          collSends s form t gh root ≤ 64 * c.sent.length)) →
      ∃ s', exec (.collectiveComplete a) s = .next s' ∧ s'.Left a ∧ s'.mem = s.mem ∧
        (∀ key t, oget s'.eng.tiles key = some t → a ∉ t.drains) ∧ c.reports = c.slices ∧ c.Told s s') ∧
    (c.sg = 3 → c.started = true → c.startCycle + 65536 ≤ s.sched.cycle →
      exec (.sgPromotion a) s = .next (s.setCmd a (some { c with sg := 2 }))))

end

/-! ### The Atriums -/

namespace Sys2Proof.Machine

/-- A group that can be used on this chip (R290, R302), and a chip of it that this chip hears (R330, R331, R355). -/
structure State.GroupUp (s : State) (g chip : Nat) : Prop where
  alive : s.groupFailed g = none
  entry : s.groupValid g = true
  heard : s.deaf chip = false

/-- A message is among those put out: for this chip itself, or on the port that picks itself for another chip with a valid route (R327). -/
def State.Sent (s : State) (out : List OutMsg) (chip sec : Nat) (m : OutMsg) : Prop :=
  (chip = s.self → m ∈ out) ∧
  (chip ≠ s.self → (s.routeWord chip).getLsbD 63 = true → ∀ p, s.pickPort chip sec [] = some p → ∃ n, OutMsg.via p n m ∈ out)

/-- A sector of a group is among the messages put out. -/
def State.SentSec (s : State) (out : List OutMsg) (chip : Nat) (x : GroupSec) : Prop :=
  s.Sent out chip (podSector chip x.exp (x.base + x.off)) (.group chip x)

/-- What bytes of an export are, once its page has been looked up. -/
def State.exportHere (s : State) (e off n : Nat) (acc : Acc) : ExpRes := (s.exportWalked e off).exportAt e off n acc

/-- A sector on its way up arrives at the node of this chip over its ranks (R291, R295). -/
structure State.ArrivesAt (s : State) (x : GroupSec) (n : TreeNode) : Prop extends s.GroupUp x.group x.src where
  up : x.down = false
  combines : flowCombines x.flow = true
  node : s.nodeOver x.group x.a x.b = some n

/-- The position a node keeps for a sector's operation and offset. -/
def State.positionFor (s : State) (x : GroupSec) (n : TreeNode) : Option Position :=
  s.atrium.positions.find? (fun p => p.group = x.group && p.op = x.op && p.a = n.a && p.b = n.b && p.off = x.off)

/-- Whether a sector comes from a node's left child. -/
def TreeNode.fromLeft (n : TreeNode) (x : GroupSec) : Bool := decide (n.leftRange = (x.a, x.b))

/-- The chip of the child that a sector comes from. -/
def TreeNode.child (n : TreeNode) (x : GroupSec) : Nat := if n.fromLeft x then n.left else n.right

/-- A held sector and its partner agree (R295). -/
structure Agrees (y x : GroupSec) : Prop where
  flow : y.flow = x.flow
  rtype : y.rtype = x.rtype
  rop : y.rop = x.rop
  base : y.base = x.base
  exp : y.exp = x.exp

/-- Where a part of a load or atomic stands. -/
def State.partState (s : State) (load part : Nat) : Option PartState :=
  ((oget s.coh.loads load).bind (fun l => oget l.parts part)).map (·.st)

end Sys2Proof.Machine

section
open Sys2Proof Sys2Proof.Machine

/-- R293, R295, R297, R298: a sector that reaches its node is held when nothing holds its place and a position is free, refused and
noted when none is free, combined with its partner, left operand first whichever came first, and a pair that does not agree fails the
group; the root sends its result down both links, or to the one member of a COLL.RS; contributions and combined sectors are offered to the node above, accepted or refused there; a signal lets them be offered
again. R321, R327: what is for another chip leaves on the port that its route and its sector pick, if its route is valid. -/
def Obligations.NodesCombineInTreeOrder : Prop :=
  (∀ (s : State) (chip sec : Nat) (m : OutMsg),
    (chip = s.self → (s.sendOut chip sec m).out = s.out ++ [m]) ∧
    (chip ≠ s.self → (s.routeWord chip).getLsbD 63 = false → s.sendOut chip sec m = s) ∧
    (∀ p, chip ≠ s.self → (s.routeWord chip).getLsbD 63 = true → s.pickPort chip sec [] = some p →
      (s.sendOut chip sec m).out = (s.sendFlit p).out ++ [.via p (s.flitNo p) m])) ∧
  (∀ (s : State) (x : GroupSec) (n : TreeNode), s.ArrivesAt x n →
    let yes := OutMsg.groupAccept (n.child x) x.group x.op x.a x.b x.off
    let no := OutMsg.groupRefuse (n.child x) x.group x.op x.a x.b x.off
    (s.positionFor x n = none → s.nodeFree x.group n = true → ∃ s' p, exec (.groupSector x) s = .next s' ∧
      s'.atrium.positions = s.atrium.positions ++ [p] ∧ p.left = n.fromLeft x ∧ p.right = !n.fromLeft x ∧ p.refused = false ∧
      p.sec = widenSec x ∧ p.off = x.off ∧ s'.out = (s.sendOut (n.child x) 0 yes).out ∧ s'.mem = s.mem) ∧
    (s.positionFor x n = none → s.nodeFree x.group n = false → ∃ s', exec (.groupSector x) s = .next s' ∧
      s'.atrium.positions = s.atrium.positions ∧ s'.out = (s.sendOut (n.child x) 0 no).out ∧
      ⟨x.group, x.op, x.a, x.b, n.child x⟩ ∈ s'.atrium.refusals) ∧
    (∀ p, s.positionFor x n = some p → p.left = (!n.fromLeft x) → p.right = n.fromLeft x →
      (¬ Agrees p.sec x → exec (.groupSector x) s = .next (s.raiseGroupError x.group s.self)) ∧
      (Agrees p.sec x →
        let d := if n.fromLeft x then combineData x.rtype x.rop (widenSec x).data p.sec.data
          else combineData x.rtype x.rop p.sec.data (widenSec x).data
        (s.isRoot x.group n = false → ∃ s' q, exec (.groupSector x) s = .next s' ∧ q ∈ s'.atrium.positions ∧
          q.left = true ∧ q.right = true ∧ q.off = p.off ∧ q.sec.data = d ∧ s'.out = (s.sendOut (n.child x) 0 yes).out) ∧
        let z : GroupSec := finalSec { p.sec with a := n.a, b := n.b, src := s.self, data := d }
        (s.isRoot x.group n = true → ∃ s', exec (.groupSector x) s = .next s' ∧ s'.positionFor x n = none ∧
          s.Sent s'.out (n.child x) 0 yes ∧
          (z.flow = .reduceScatter → s.SentSec s'.out (s.memberChip z.group (z.off / z.len))
            { z with down := true, a := z.off / z.len, b := z.off / z.len, off := z.off % z.len }) ∧
          (z.flow ≠ .reduceScatter →
            s.SentSec s'.out n.left { z with down := true, a := n.leftRange.1, b := n.leftRange.2 } ∧
            s.SentSec s'.out n.right { z with down := true, a := n.rightRange.1, b := n.rightRange.2 }))))) ∧
  (∀ x y : Nat, combine1 3 0 x y = (BitVec.ofNat 64 x + BitVec.ofNat 64 y).toNat) ∧
  (∀ (s s1 : State) (a off : Nat) (x : GroupSec) (c : Cmd), a < 2 ^ 64 → offerOf s a off = .sec x s1 → s1.cmd? a = some c →
    let up := fun (s' : State) => ∃ c', s'.cmd? a = some c' ∧ c'.sent = off :: c.sent ∧ c'.refused = false ∧ c'.started = true
    (s1.groupSize x.group = 1 → ∃ s', exec (.sectorAccept a off) s = .next s' ∧ up s' ∧
      s'.out = s1.out ++ [.group s1.self { x with down := true, a := 0, b := 0 }]) ∧
    (s1.groupSize x.group ≠ 1 → flowCombines x.flow = false → ∃ s', exec (.sectorAccept a off) s = .next s' ∧ up s' ∧
      s'.out = (s1.sendSec (s1.groupRoot x.group) x).out) ∧
    (s1.groupSize x.group ≠ 1 → flowCombines x.flow = true → s1.leafUp x.group ≠ s1.self →
      ∃ s', exec (.sectorAccept a off) s = .next s' ∧ up s' ∧ s'.out = (s1.sendSec (s1.leafUp x.group) x).out)) ∧
  (∀ (s s1 : State) (a off : Nat) (x : GroupSec), a < 2 ^ 64 → offerOf s a off = .sec x s1 → s.groupSize x.group ≠ 1 →
    flowCombines x.flow = true → s.leafUp x.group ≠ s.self →
    exec (.sectorRefuse a off) s = .next (s.modCmd a (fun c => { c with refused := true }))) ∧
  (∀ (s : State) (key : Nat) (p : Position) (n : TreeNode), s.positionOf key p.off = some p → s.nodeAt p.group p.a p.b = some n →
    s.groupSize p.sec.group ≠ 1 → flowCombines p.sec.flow = true → n.parent ≠ s.self →
    (∃ s', exec (.sectorAccept (2 ^ 64 + key) p.off) s = .next s' ∧ p ∉ s'.atrium.positions ∧
      (∀ q ∈ s.atrium.positions, q ≠ p → q ∈ s'.atrium.positions) ∧ s.SentSec s'.out n.parent p.sec) ∧
    (∃ s', exec (.sectorRefuse (2 ^ 64 + key) p.off) s = .next s' ∧ { p with refused := true } ∈ s'.atrium.positions ∧
      s'.refusing p.group n = true ∧ s'.out = s.out)) ∧
  (∀ (s : State) (g op a b : Nat),
    (a = b → ∃ s', exec (.acceptSignal g op a b) s = .next s' ∧ s'.atrium = s.atrium ∧
      ∀ cid c, s'.cmd? cid = some c → (∃ form t gh root, c.kind = .coll form t gh root op ∧ gh.target = g) → c.refused = false) ∧
    (a ≠ b → ∃ s', exec (.acceptSignal g op a b) s = .next s' ∧
      (∀ p ∈ s'.atrium.positions, p.group = g → p.op = op → p.a = a → p.b = b → p.refused = false) ∧
      ∀ n, s.nodeAt g a b = some n → s'.nodeFree g n = true → ∀ q ∈ s'.atrium.refusals, q.group = g → (q.a, q.b) ≠ n.leftRange ∧
        (q.a, q.b) ≠ n.rightRange))

/-- R290, R291, R298, R301, R302: results go down both links of a node and are written at BASE plus the offset in the export they carry,
the copy of a store once; a page that is not resident is waited for, towards the stall bound; a group error marks the group failed,
discards its positions and fails its commands with code 0x80, and so does a member's own stall; a reducing load goes down the tree, each
member reads its bytes at its home, and each node combines the pair of values; a sealed payload that fails its tag is discarded; a
tree-table write that breaks a rule is ignored, one that clears an entry in use fails its group. The model's choices: from when a
member's own stall counts (log 43), and that setting VALID afresh ends a failure and starts the operation numbers anew (log 31). -/
def Obligations.GroupsDeliverAndFail : Prop :=
  (∀ (s : State) (x : GroupSec) (n : TreeNode), s.GroupUp x.group x.src → x.down = true → s.nodeAt x.group x.a x.b = some n →
    x.flow ≠ .reduceScatter → exec (.groupSector x) s =
      .next ((s.sendSec n.left { x with down := true, a := n.leftRange.1, b := n.leftRange.2 }).sendSec
        n.right { x with down := true, a := n.rightRange.1, b := n.rightRange.2 })) ∧
  (∀ (s : State) (x : GroupSec), s.GroupUp x.group x.src → s.groupMember x.group = true → x.bytes = 2 ^ 64 - 1 → x.data.length = 64 →
    let at_ := s.exportHere x.exp (x.base + x.off) 64 .write
    (x.flow ≠ .store →
      (x.tagOk = false → exec (.resultSector x) s = .next s) ∧
      (x.tagOk = true → ∀ key, at_ = .bank key → s.bankHeld (key / 64) = false → ∃ s', exec (.resultSector x) s = .next s' ∧
        s'.mem = Memory.putAll s.mem (cellsOf key x.data)) ∧
      (x.tagOk = true → ∀ ctx page, at_ = .replay ctx page → ∃ s', exec (.resultSector x) s = .next s' ∧ s'.mem = s.mem ∧
        ∃ w ∈ s'.atrium.memberWaits, w.1 = x.group ∧ w.2.1 = x.op) ∧
      (x.tagOk = true → at_ = .bad → exec (.resultSector x) s = .next (s.raiseGroupError x.group s.self)) ∧
      (x.tagOk = true → at_ = .fatal → exec (.resultSector x) s = .next (s.raiseGroupError x.group s.self))) ∧
    (x.flow = .store →
      (∀ y, oget s.pod.served (memberKey x.src x.op) = some y → exec (.resultSector x) s = .next (s.answerAgain x.src x.op y)) ∧
      (oget s.pod.served (memberKey x.src x.op) = none → s.recordFree x.src x.batch = false → exec (.resultSector x) s = .next s) ∧
      (oget s.pod.served (memberKey x.src x.op) = none → s.recordFree x.src x.batch = true → x.tagOk = true → ∀ key, at_ = .bank key →
        s.bankHeld (key / 64) = false → ∃ s', exec (.resultSector x) s = .next s' ∧ s'.mem = Memory.putAll s.mem (cellsOf key x.data) ∧
          (oget s'.pod.served (memberKey x.src x.op)).isSome = true))) ∧
  (∀ (s : State) (g chip : Nat), (chip ∈ s.pod.dead → exec (.groupError g chip) s = .next s) ∧
    (chip ∉ s.pod.dead → ∃ s', exec (.groupError g chip) s = .next s' ∧ (s'.groupMarked g).isSome = true ∧
      (s.groupMarked g = none → s'.groupMarked g = some chip ∧ (∀ p ∈ s'.atrium.positions, p.group ≠ g) ∧
        (∀ p ∈ s.atrium.positions, p.group ≠ g → p ∈ s'.atrium.positions) ∧ s'.mem = s.mem ∧
        (s.atrium.rloads = [] → s.pod.remotes = [] → ∀ cid c, s.cmd? cid = some c → c.uses g = true →
          ∃ c' f, s'.cmd? cid = some c' ∧ c'.fail = some f ∧ (c.fail = none → f.code = 0x80 ∧ f.chip = chip))))) ∧
  (∀ (s : State) (g op a b : Nat) (p : Position), p ∈ s.atrium.positions → p.group = g → p.op = op → p.a = a → p.b = b →
    a ≠ b → (p.left = false ∨ p.right = false ∨ p.refused = true) → (s.nodeAt g a b).isSome = true →
    sget 0 s.atrium.lastMove (nodeKey g op a b) + 1000000000 ≤ s.sched.gtc →
    exec (.groupStallTimeout g op a b) s = .next (s.raiseGroupError g s.self)) ∧
  (∀ (s : State) (g op r : Nat), s.groupMember g = true → s.groupRank g = r →
    (s.memberStalled g op = true ∨ ∃ w ∈ s.atrium.memberWaits, w.1 = g ∧ w.2.1 = op ∧ w.2.2 + 1000000000 ≤ s.sched.gtc) →
    exec (.groupStallTimeout g op r r) s = .next (s.raiseGroupError g s.self)) ∧
  (∀ (s : State) (g chip : Nat), s.groupMarked g = none → ((s.raiseGroupError g chip).groupMarked g).isSome = true ∧
    ∀ c ∈ s.groupChips g, s.Sent (s.raiseGroupError g chip).out c 0 (.groupError c g)) ∧
  (∀ (s : State) (q : GroupLoad) (exp off n : Nat), s.GroupUp q.group q.chip →
    let g := q.group
    (∀ (i j : Nat) (d : TreeNode), i < j → s.nodeAt g i j = some d →
      let s1 := if s.isRoot g d = true then s.sendOut q.chip 0 (.receipt q.chip q.seq) else s
      exec (.reducingLoadRequest q exp off n i j) s = .next
        ((s1.sendOut d.left 0 (.loadRequest d.left q exp off n d.leftRange.1 d.leftRange.2)).sendOut
          d.right 0 (.loadRequest d.right q exp off n d.rightRange.1 d.rightRange.2))) ∧
    (s.groupMember g = true →
      let r := s.groupRank g
      let up := fun (s' : State) v => s'.valueUp q r r (s.leafUp g) v
      (∀ key, s.exportHere exp off n .read = .bank key → exec (.reducingLoadRequest q exp off n r r) s = .next
        (up (s.endWait g q.seq) (.val (memberVal q.rtype (s.groupSize g) (Memory.bytes s.mem key n)) (s.poisoned (key / 64))))) ∧
      (s.exportHere exp off n .read = .bad ∨ s.exportHere exp off n .read = .fatal →
        exec (.reducingLoadRequest q exp off n r r) s = .next (up s (.refused s.self))))) ∧
  (∀ (s : State) (q : GroupLoad) (a b : Nat) (d : TreeNode) (v : LoadVal), s.GroupUp q.group q.chip →
    let g := q.group
    (a ≠ 0 ∨ b + 1 ≠ s.groupSize g) → s.nodeOver g a b = some d →
    let left := decide (d.leftRange = (a, b))
    let pair := s.atrium.partials.find? (fun p => p.chip = q.chip && p.seq = q.seq && p.group = g &&
      (p.a, p.b) = if left then d.rightRange else d.leftRange)
    (pair = none → exec (.reducingLoadValue q (a, b) v) s =
      .next { s with atrium := { s.atrium with partials := s.atrium.partials ++ [⟨q.chip, q.seq, g, a, b, v⟩] } }) ∧
    (∀ p, pair = some p → ∃ s', exec (.reducingLoadValue q (a, b) v) s = .next s' ∧ p ∉ s'.atrium.partials ∧ s'.mem = s.mem ∧
      s'.out = (s.valueUp q d.a d.b d.parent
        (if left then combineVals q.rtype q.rop v p.val else combineVals q.rtype q.rop p.val v)).out)) ∧
  (∀ (s : State) (num g ty op : Nat) (r : RLoad) (v : LoadVal), s.GroupUp g s.self → 0 < s.groupSize g →
    oget s.atrium.rloads num = some r →
    ∃ s', exec (.reducingLoadValue ⟨s.self, num, g, ty, op⟩ (0, s.groupSize g - 1) v) s = .next s' ∧ s'.mem = s.mem ∧
      ((s.partState r.load r.part).isSome = true →
        (∀ chip, v = .refused chip → s'.partState r.load r.part = some (.lost chip)) ∧
        (∀ w, v = .val w false → s'.partState r.load r.part = some (.ready [w])) ∧
        (∀ w, v = .val w true → s'.partState r.load r.part = some (.poisoned [w])))) ∧
  (∀ (s : State) (g : Nat) (w : List Word),
    let set := ((w[0]?).getD 0).getLsbD 63
    ((s.mgmt.stage < 2 ∨ 256 ≤ g ∨ (set = true ∧ treeEntryOk s g w = false)) → exec (.treeTableWrite g w) s = .next s) ∧
    (2 ≤ s.mgmt.stage → g < 256 → (set = true → treeEntryOk s g w = true) → ∃ s', exec (.treeTableWrite g w) s = .next s' ∧
      (∀ i, i < 8 → s'.treeWord g i = (w[i]?).getD 0 &&& treeMask i) ∧ (∀ h i, h ≠ g → i < 8 → s'.treeWord h i = s.treeWord h i) ∧
      (set = true → s.groupValid g = false → s'.groupMarked g = none ∧ sget 0 s'.atrium.nextOp g = 0) ∧
      (set = false → s.groupValid g = true → s.groupBusy g = true → (s'.groupMarked g).isSome = true)))

end

/-! ### The pod -/

namespace Sys2Proof.Machine

/-- A chip whose ports are trained, that answers pod traffic and has not declared another dead (R330, R331, R355). -/
structure State.Hears (s : State) (chip : Nat) : Prop where
  heard : s.deaf chip = false
  answering : s.pod.answering = true

end Sys2Proof.Machine

section
open Sys2Proof Sys2Proof.Machine

/-- R289, R299, R323, R327, R358: a port that is up takes flits; a bad one is asked for again, one for another chip is forwarded unless
it would make a ninth hop, idle and repeated ones leave; on a port that is down they are lost; a port without a flit for 10 µs goes down
and no request is left on it; a new key starts the flit counter again, of itself before the flit that would be one too many under the
old; the driver retrains a port that is not fenced. -/
def Sys2Proof.Machine.PortsCarryFlits : Prop :=
  ∀ (s : State) (p : Nat) (x : Port), s.port? p = some x →
    let heard : State := s.modPort p (fun x => { x with lastRx := s.sched.gtc })
    (x.up = true →
      (∀ dst hops, exec (.flitReceive p false dst hops) s = .next (heard.emit (.replayRequest p))) ∧
      (∀ dst hops, (dst = s.self ∨ 8 ≤ hops) → exec (.flitReceive p true dst hops) s = .next heard) ∧
      (∀ dst hops q, dst ≠ s.self → hops < 8 → s.pickPort dst dst [] = some q → exec (.flitReceive p true dst hops) s =
        .next ((heard.sendFlit q).emit (.flitForward dst (hops + 1)))) ∧
      (∀ n, n < x.flits → exec (.replayRequest p n) s = .next ((s.modPort p (fun x =>
        { x with lastRx := s.sched.gtc, lastTx := s.sched.gtc })).emit (.flit p n))) ∧
      (exec (.idleFlit p) s = .next ((s.sendFlit p).emit (.idle p))) ∧
      (x.flits < 2 ^ 48 → s.sendFlit p = s.modPort p (fun x => { x with lastTx := s.sched.gtc, flits := x.flits + 1 })) ∧
      (2 ^ 48 ≤ x.flits → (s.sendFlit p).out = s.out ++ [.linkKey p (x.epoch + 1)] ∧
        (s.sendFlit p).port? p = some { x with flits := 1, epoch := x.epoch + 1, lastTx := s.sched.gtc }) ∧
      (x.lastRx + 10000 ≤ s.sched.gtc → ∃ s', exec (.portDown p) s = .next s' ∧ s'.portUp p = false ∧ s'.mem = s.mem ∧
        ∀ key r, key < 2048 * 2 ^ 32 → s'.remote? key = some r → r.group = none → ¬ (r.sent = true ∧ r.port = p)) ∧
      (2 ^ 48 ≤ x.flits → exec (.linkRekey p) s =
        .next ((s.modPort p (fun x => { x with flits := 0, epoch := x.epoch + 1 })).emit (.linkKey p (x.epoch + 1))))) ∧
    (x.up = false → ∀ ok dst hops n, exec (.flitReceive p ok dst hops) s = .next s ∧ exec (.replayRequest p n) s = .next s) ∧
    (p ∈ s.mgmt.badPorts → exec (.portRetrain p) s = .next s) ∧
    (x.up = false → p ∉ s.mgmt.badPorts → ∃ s', exec (.portRetrain p) s = .next s' ∧ s'.portUp p = true ∧ s'.mem = s.mem)

/-- R299, R322, R325, R328: a request of another chip is checked and performed once: its write reaches memory, its read brings the sector,
its atomics act lane by lane and bring every old value, a refused one changes nothing but what the walk of its translation publishes, and
is answered; a sealed payload that fails its tag is discarded (what a lane's read becomes then is log 39's, the model's choice); a
repeated one is answered as before, with what is left of a lease, and changes nothing. One that crosses a sector, which no chip sends,
is none. The record goes after 2 ms. -/
def Sys2Proof.Machine.RemoteRequestsAreServedOnce : Prop :=
  ∀ (s : State) (r : RemoteReq),
    (64 < r.off % 64 + r.n → exec (.remoteRequest r) s = .refused (.notEnabled "REMOTE_REQUEST")) ∧
    (r.off % 64 + r.n ≤ 64 →
    (s.deaf r.chip = true → exec (.remoteRequest r) s = .next s) ∧
    (s.Hears r.chip → ∀ x, oget s.pod.served (remoteKey r.chip r.seq) = some x →
      (∀ e, x.reply = some e →
        (∀ e', x.again s.sched.gtc = some e' → exec (.remoteRequest r) s = .next (s.emit (.reply r.chip r.seq e'))) ∧
        (∀ data lease, e = .done data lease → x.again s.sched.gtc = some (.done data (lease - (s.sched.gtc - x.at_)))) ∧
        ((∀ data lease, e ≠ .done data lease) → x.again s.sched.gtc = some e) ∧
        (x.at_ + 2000000 ≤ s.sched.gtc → exec (.duplicateRecordExpiry r.chip r.seq) s =
          .next { s with pod := { s.pod with served := oset s.pod.served (remoteKey r.chip r.seq) none } })) ∧
      (x.reply = none → exec (.remoteRequest r) s = .next (s.emit (.receipt r.chip r.seq)))) ∧
    (s.Hears r.chip → oget s.pod.served (remoteKey r.chip r.seq) = none → r.batch = none →
      let answered := fun (s' : State) (e : RemoteEnd) => s'.out = s.out ++ [.receipt r.chip r.seq, .reply r.chip r.seq e] ∧
        ∃ x, oget s'.pod.served (remoteKey r.chip r.seq) = some x ∧ x.reply = some e
      (∀ key, s.exportAt r.exp r.off r.n (remoteAcc r.op) = .bank key → s.poisoned (key / 64) = false → s.bankHeld (key / 64) = false →
        r.tagOk = true → s.servedAhead r = false →
        (r.op = .wtRead → ∃ s', exec (.remoteRequest r) s = .next s' ∧ s'.mem = s.mem ∧
          answered s' (.done (Memory.bytes s.mem (key / 64 * 64) 64) 0)) ∧
        (∀ cells, r.op = .write cells → ∃ s', exec (.remoteRequest r) s = .next s' ∧
          s'.mem = Memory.putAll s.mem (cells.map (fun c => (key / 64 * 64 + c.1 % 64, c.2))) ∧
          OutMsg.reply r.chip r.seq (.done [] 0) ∈ s'.out) ∧
        (∀ aop wide lanes, r.op = .atomic aop wide lanes → ∃ s', exec (.remoteRequest r) s = .next s' ∧
          s'.mem = Memory.putAll s.mem (atomicLanes aop wide (key / 64) lanes s.mem).2 ∧
          OutMsg.reply r.chip r.seq (.done (oldBytes (atomicLanes aop wide (key / 64) lanes s.mem).1) 0) ∈ s'.out) ∧
        (∀ off b c off2 b2 c2,
          let k := key / 64 * 64 + off % 64
          let k2 := key / 64 * 64 + off2 % 64
          let old := leNat (Memory.bytes s.mem k 8)
          let m1 := Memory.putAll s.mem (cellsOf k (leBytes 8 (BitVec.ofNat 64 old + b).toNat))
          let old2 := leNat (Memory.bytes m1 k2 8)
          let x := atomicLanes .add true (key / 64) [(off, b, c), (off2, b2, c2)] s.mem
          x.1 = [old, old2] ∧
            Memory.putAll s.mem x.2 = Memory.putAll m1 (cellsOf k2 (leBytes 8 (BitVec.ofNat 64 old2 + b2).toNat)))) ∧
      (∀ key, r.tagOk = true → s.exportAt r.exp r.off r.n (remoteAcc r.op) = .bank key → s.servedAhead r = true →
        s.bankHeld (key / 64) = false → ∃ s' x, exec (.remoteRequest r) s = .next s' ∧ s'.mem = s.mem ∧
          s'.out = s.out ++ [.receipt r.chip r.seq] ∧ oget s'.pod.served (remoteKey r.chip r.seq) = some x ∧ x.waiting = true) ∧
      ((∀ cells, r.op ≠ .release cells) → s.exportRoom r = true → r.tagOk = true → s.servedAhead r = false →
        let at_ := s.exportHere r.exp r.off r.n (remoteAcc r.op)
        (at_ = .bad → ∃ s', exec (.remoteRequest r) s = .next s' ∧ s'.mem = (s.exportWalked r.exp r.off).mem ∧
          OutMsg.reply r.chip r.seq .refusedExport ∈ s'.out) ∧
        (at_ = .fatal → ∃ s', exec (.remoteRequest r) s = .next s' ∧ s'.mem = (s.exportWalked r.exp r.off).mem ∧
          OutMsg.reply r.chip r.seq .refusedXlate ∈ s'.out)) ∧
      (s.exportRoom r = true → r.tagOk = false → ∃ s', exec (.remoteRequest r) s = .next s' ∧
        s'.mem = (s.exportWalked r.exp r.off).mem ∧ OutMsg.reply r.chip r.seq .discarded ∈ s'.out)))

/-- R75, R134, R133, R328, R329, R331, R332: an answer ends its request: a write completes, a load has its bytes, a refused load is
lost; a request or reducing load without a receipt for 200 µs leaves again on another port; a close is answered once the count is reached, its replies
fill its register; a peer that does not answer is declared dead and what is outstanding to it is lost. Resends of a close are log 124's,
the model's choice. -/
def Sys2Proof.Machine.RemoteRequestsEnd : Prop :=
  (∀ (s : State) (key : Nat) (r : Remote), s.remote? key = some r →
    exec (.receipt key) s = .next (s.setRemote key (some { r with receipt := true })) ∧
    (∀ cells data lease, r.op = .write cells → r.count = none →
      exec (.remoteAcknowledgement key (.done data lease)) s = .next ((s.setRemote key none).finishOp r.opId) ∧
      ((s.setRemote key none).finishOp r.opId).opLive r.opId = false ∧
      ((s.setRemote key none).finishOp r.opId).mem = s.mem) ∧
    (∀ data lease l part, r.op = .wtRead → oget s.coh.ops r.opId = none → oget s.coh.loads r.load = some l →
      oget l.parts r.part = some part → s.poisoned part.sector = false →
      ∃ s', exec (.remoteAcknowledgement key (.done data lease)) s = .next s' ∧ s'.mem = s.mem ∧ s'.remote? key = none ∧
        s'.partState r.load r.part = some (.ready (l.vals part data))) ∧
    (∀ e, (e = .refusedExport ∨ e = .refusedXlate ∨ e = .discarded) → remoteIsRead r.op = true → (s.partState r.load r.part).isSome = true →
      ∃ s', exec (.remoteAcknowledgement key e) s = .next s' ∧ s'.mem = s.mem ∧ s'.remote? key = none ∧
        s'.partState r.load r.part = some (.lost r.chip)) ∧
    (r.sent = true → r.receipt = false → r.since + 200000 ≤ s.sched.gtc → ∃ s', exec (.resendTimeout key) s = .next s' ∧
      s'.mem = s.mem ∧ ∀ r', s'.remote? key = some r' → r.group = none → r'.sent = true → r'.port ≠ r.port)) ∧
  (∀ (s : State) (key : Nat) (r : RLoad), s.remote? key = none → oget s.atrium.rloads key = some r →
    exec (.receipt key) s = .next { s with atrium := { s.atrium with rloads := oset s.atrium.rloads key (some { r with receipt := true }) } } ∧
    (r.sent = true → r.receipt = false → r.since + 200000 ≤ s.sched.gtc → ∃ s', exec (.resendTimeout key) s = .next s' ∧
      s'.mem = s.mem ∧ ∀ r', oget s'.atrium.rloads key = some r' → r'.sent = true → s.groupRoot r.group ≠ s.self → r'.port ≠ r.port)) ∧
  (∀ (s : State) (chip team tag n : Nat), s.Hears chip →
    (∀ x, s.batch? chip team tag = some x →
      (n ≤ x.done → ∃ s', exec (.closeRequest chip team tag n) s = .next s' ∧ s'.batch? chip team tag = none ∧
        s'.out = s.out ++ [.summary chip team tag x.poison x.xlate x.bounds]) ∧
      (x.done < n → ∃ s', exec (.closeRequest chip team tag n) s = .next s' ∧ s'.out = s.out ∧
        s'.batch? chip team tag = some { x with closing := some n })) ∧
    (s.batch? chip team tag = none → s.pod.batches.length < 16384 → 0 < n →
      ∃ s', exec (.closeRequest chip team tag n) s = .next s' ∧ s'.out = s.out ∧
        s'.batch? chip team tag = some ⟨chip, team, tag, 0, some n, false, false, false⟩)) ∧
  (∀ (s : State) (chip team tag n : Nat), s.deaf chip = true → exec (.closeRequest chip team tag n) s = .next s) ∧
  (∀ (s : State) (chip team : Nat), chip ∈ s.pod.dead → exec (.endNotice chip team) s = .next s) ∧
  (∀ (s : State) (chip team : Nat), chip ∉ s.pod.dead → ∃ s', exec (.endNotice chip team) s = .next s' ∧ (∀ tag, s'.batch? chip team tag = none) ∧
    (∀ c t tag, ¬ (c = chip ∧ t = team) → s'.batch? c t tag = s.batch? c t tag) ∧ s'.mem = s.mem) ∧
  (∀ (s : State) (tid tag chip : Nat) (t : Team) (x : Close), s.team? tid = some t → oget t.closes tag = some x →
    chip ∈ x.waiting →
    ((∃ c ∈ x.waiting, c ≠ chip) → ∃ s' t', exec (.summaryReply tid tag chip false false false) s = .next s' ∧
      s'.team? tid = some t' ∧ t'.g = t.g ∧ oget t'.closes tag = some { x with waiting := x.waiting.filter (· ≠ chip) }) ∧
    (x.waiting = [chip] → x.failed = [] → x.poison = false → x.xlate = false → x.bounds = false → x.lost = false →
      ∃ s' t', exec (.summaryReply tid tag chip false false false) s = .next s' ∧ s'.team? tid = some t' ∧
        t'.gMark x.gd = .full ∧ t'.greg x.gd = BitVec.ofNat 64 (x.peers * 2 ^ 32) ∧ oget t'.closes tag = none) ∧
    (x.waiting = [chip] → ∃ s' t', exec (.summaryReply tid tag chip true false false) s = .next s' ∧ s'.team? tid = some t' ∧
        t'.gMark x.gd = .full ∧ oget t'.closes tag = none ∧ (chip < 1024 → (∀ c ∈ x.failed, c < 1024) → x.failed.length < 1024 →
          (t'.greg x.gd).extractLsb' 16 1 = 1 ∧ (t'.greg x.gd).extractLsb' 20 1 = 1))) ∧
  (∀ (s : State) (chip : Nat), chip ∉ s.pod.dead → s.unanswered chip = true → ∃ s', exec (.deadPeerDeclaration chip) s = .next s' ∧
    chip ∈ s'.pod.dead ∧ (∀ w ∈ s'.coh.watches, w.2.1 ≠ chip) ∧ (∀ h ∈ s'.pod.holds, h.1 ≠ chip) ∧
    ((∀ h ∈ s.pod.holds, h.1 ≠ chip) → s'.mem = s.mem ∧ ∀ key r, s.remote? key = some r → r.chip = chip → remoteIsWrite r.op = false → (s.partState r.load r.part).isSome = true →
      s'.partState r.load r.part = some (.lost chip))) ∧
  (∀ (s : State) (chip : Nat), chip ∈ s.pod.dead →
    exec (.deadPeerClear chip) s = .next { s with pod := { s.pod with dead := s.pod.dead.filter (· ≠ chip) } })

/-- R124, R330, R333: at each multiple of 128 ticks the heartbeat counts, every port up carries a time message and a drained FENCE.SC takes
its number; the time bound is locked, lost and timed out; GTC_LOAD loads the master's time and sets every lease expiry to it (the
deadlines that count from the last flit, request or answer start again there: the model's choice, log 32); a write from the network
lands in its export, and a copy's report ends it or gives it its bytes (one of another length is a failure: the model's choice, log
96). -/
def Sys2Proof.Machine.TimeAndScaleOut : Prop :=
  ∀ (s : State),
    (s.sched.gtc % 128 = 0 → s.sched.hbeat < s.sched.gtc / 128 → ∃ s', exec .heartbeatTick s = .next s' ∧
      s'.sched.hbeat = s.sched.gtc / 128 ∧ s'.mem = s.mem ∧
      (∀ p x, s.port? p = some x → x.up = true → OutMsg.timeMessage p ∈ s'.out) ∧
      (∀ tid t, s.team? tid = some t → ∃ t', s'.team? tid = some t' ∧ t'.lanes = t.lanes ∧ t'.g = t.g ∧
        ∀ a ops cmds, t.armT = some a → a.wait = .scDrain ops cmds →
          (s.liveOps ops = [] → s.liveCmds cmds = [] → t'.armT = some { a with wait := .scWait (s.sched.gtc / 128) }) ∧
          ((s.liveOps ops ≠ [] ∨ s.liveCmds cmds ≠ []) → t'.armT = some a))) ∧
    (∀ p b, s.portUp p = true → s.isMaster = false → s.pod.timeStarted = true → fld s.timectl 0 6 = p →
      ∃ s', exec (.timeMessage p b) s = .next s' ∧ s'.pod.offset = b ∧ s'.pod.lastTime = s.sched.gtc ∧ s'.sched = s.sched ∧
        (b.natAbs ≤ 20 → s'.pod.locked = true ∧ s'.pod.bounded = true ∧ s'.pod.lostSince = none) ∧
        (20 < b.natAbs → s'.pod.locked = s.pod.locked ∧ s'.pod.bounded = s.pod.bounded)) ∧
    (s.pod.locked = true → s.pod.bounded = true → s.isMaster = false →
      (20 < s.pod.offset.natAbs ∨ s.pod.lastTime + 100000 ≤ s.sched.gtc) →
      exec .timeBoundLoss s = .next { s with pod := { s.pod with bounded := false, lostSince := some s.sched.gtc } }) ∧
    (∀ t, s.pod.lostSince = some t → s.pod.answering = true → t + 1000000 ≤ s.sched.gtc →
      exec .timeBoundTimeout s = .next { s with pod := { s.pod with answering := false }, out := s.out ++ [.timeLost] }) ∧
    (s.noLeases = true → s.quiet = true → (∀ d ∈ slist s.coh.dir, d.2.exp ≤ s.sched.gtc) →
      (∀ x ∈ s.coh.summary, x.2 ≤ s.sched.gtc) → ∃ s', exec .gtcLoad s = .next s' ∧
        s'.sched.gtc = ((s.sched.gtc : Int) - s.pod.offset).toNat ∧ (∀ d ∈ slist s'.coh.dir, d.2.exp = s'.sched.gtc) ∧
        (∀ x ∈ s'.coh.summary, x.2 = s'.sched.gtc) ∧ s'.pod.locked = true ∧ s'.pod.bounded = true ∧ s'.mem = s.mem ∧
        (∀ x ∈ slist s'.easel.sites, x.2.lastFlit = s'.sched.gtc) ∧ (∀ x ∈ slist s'.pod.ports, x.2.lastRx = s'.sched.gtc)) ∧
    (∀ exp off data, off % 64 + data.length ≤ 64 → 3 ≤ s.mgmt.stage →
      let at_ := s.exportHere exp off data.length .write
      (∀ key, at_ = .bank key → s.bankHeld (key / 64) = false → ∃ s', exec (.uetWrite exp off data) s = .next s' ∧
        s'.mem = Memory.putAll s.mem (cellsOf key data)) ∧
      (at_ = .bad → exec (.uetWrite exp off data) s = .next s) ∧
      (at_ = .fatal → exec (.uetWrite exp off data) s = .next s)) ∧
    (∀ a c data, s.cmd? a = some c →
      let rd := netOp s c OpKind.reads
      let wr := netOp s c OpKind.netWrite
      (∀ o, rd = some o →
        (data.length = netBytes c → ∃ s' c', exec (.uetDelivery a data) s = .next s' ∧ s'.cmd? a = some c' ∧
          c'.slices = netFill data c.slices ∧ o ∉ c'.writes ∧ ∀ o' ∈ c.writes, o' ≠ o → o' ∈ c'.writes) ∧
        (data.length ≠ netBytes c → c.fail = none → ∃ s' c', exec (.uetDelivery a data) s = .next s' ∧ s'.cmd? a = some c' ∧
          c'.fail = some ⟨0x0F, 0, c.wrote, false⟩ ∧ o ∉ c'.writes ∧ ∀ o', wr = some o' → o' ∉ c'.writes)) ∧
      (∀ o, rd = none → wr = some o →
        (data = [] → doneMoving c = true → exec (.uetDelivery a data) s = .next (s.finishOp o)) ∧
        (data ≠ [] → c.fail = none → ∃ s' c', exec (.uetDelivery a data) s = .next s' ∧ s'.cmd? a = some c' ∧
          c'.fail = some ⟨0x0F, 0, c.wrote, false⟩ ∧ o ∉ c'.writes)))

/-- R124, R289, R299, R323, R327, R330, R333, R358: ports, time and scale-out: the statements PortsCarryFlits and TimeAndScaleOut above,
with the model's choices of logs 32 and 96. -/
def Obligations.PortsTimeAndScaleOut : Prop :=
  Sys2Proof.Machine.PortsCarryFlits ∧ Sys2Proof.Machine.TimeAndScaleOut

/-- R75, R133, R134, R322, R325, R328, R329, R331, R332: requests of other chips and to other chips: the statements
RemoteRequestsAreServedOnce and RemoteRequestsEnd above, with the model's choices of logs 39 and 124. -/
def Obligations.RemoteRequestsAreServedAndEnd : Prop :=
  Sys2Proof.Machine.RemoteRequestsAreServedOnce ∧ Sys2Proof.Machine.RemoteRequestsEnd

end

/-! ### Rings, graphs, the allocator -/

namespace Sys2Proof.Machine

/-- A node that has run waits for the release of its successors: no failure, no completion word (R238). -/
structure State.Ends (s : State) (i n : Nat) (x : Inst) (d : Node) (succ : List Nat) : Prop where
  inst : s.inst? i = some x
  node : x.node? n = some d
  state : x.state? n = some (.ending succ)
  compl : d.compl = 0
  err : x.err = none
  aborted : x.aborted = false

end Sys2Proof.Machine

section
open Sys2Proof Sys2Proof.Machine

/-- R233, R235, R236, R355: a doorbell write keeps the tail, and one more than the ring's size ahead of HEAD stops the ring; clearing ENABLE
returns HEAD, DOORBELL and the error to 0; a walker with room for one more instance takes the next entry of its ring, advances HEAD past
it, then reads its graph, or reports the page it misses; a read whose home has not answered is tried again. A graph's nodes begin blocked
by their counts, those without predecessors ready. -/
def Sys2Proof.Machine.RingsStartInstances : Prop :=
  (∀ (s : State) (r : Nat) (b : BitVec 32),
    (s.mgmt.stage < 2 → exec (.doorbell r b) s = .next s) ∧
    (2 ≤ s.mgmt.stage → ∃ s', exec (.doorbell r b) s = .next s' ∧ s'.ring r 0x10 = b.setWidth 64 ∧
      s'.ring r 0x18 = s.ring r 0x18 ∧ s'.mem = s.mem ∧
      (2 ^ s.ringLog r < (b - (s.ring r 0x18).setWidth 32).toNat → s'.ring r 0x20 = 1) ∧
      ((b - (s.ring r 0x18).setWidth 32).toNat ≤ 2 ^ s.ringLog r → s'.ring r 0x20 = s.ring r 0x20))) ∧
  (∀ (s : State) (r : Nat), s.ringOn r = false → exec (.enableClear r) s = .next s) ∧
  (∀ (s : State) (r : Nat), s.ringOn r = true → ∃ s', exec (.enableClear r) s = .next s' ∧ s'.ring r 0x10 = 0 ∧ s'.ring r 0x18 = 0 ∧
    s'.ring r 0x20 = 0 ∧ ((∀ x ∈ slist s.alloc.insts, x.2.ring ≠ r) → s'.ringOn r = false ∧ s'.mem = s.mem ∧
      s'.alloc = s.alloc)) ∧
  (∀ (s : State) (die : Nat),
    let s0 := (unread s die).foldl State.fetchGraph s
    let room := ((slist s.alloc.insts).filter (fun x => x.2.die = die)).length < 32
    (unread s die ≠ [] → (¬ room ∨ nextRing s die = none) → exec (.instanceStart die) s = .next s0) ∧
    (∀ r, nextRing s die = some r → 3 ≤ s.mgmt.stage → room →
      let read := readEntry s0.freeWord.2 r (fld s0.freeWord.1 0 16)
      (∀ s1, read = .busy s1 → exec (.instanceStart die) s = .next s1) ∧
      (∀ p s1, read = .replay p s1 →
        exec (.instanceStart die) s = .next (s1.reportFault (fld (s.ring r 0x28) 0 16) p die false 0)) ∧
      (∀ x s1, read = .inst x s1 → ∃ s2 : State,
        exec (.instanceStart die) s = .next ((s2.settleInst s1.sched.nextId).fetchGraph s1.sched.nextId) ∧
        s2.ring r 0x18 = ((s.ring r 0x18).setWidth 32 + 1 : BitVec 32).setWidth 64 ∧ s2.inst? s1.sched.nextId = some x ∧
        s2.mem = s1.mem ∧ sget 0 s2.alloc.lastRing (die * 4 + topPrio s die) = r + 1))) ∧
  (∀ (s : State) (i g : Nat) (x : Inst), s.inst? i = some x → x.graph = some g → x.aborted = false →
    let read := readGraph s.freeWord.2 x g (fld s.freeWord.1 0 16)
    (∀ s1, read = .busy s1 → s.fetchGraph i = s1) ∧
    (∀ p s1, read = .replay p s1 → s.fetchGraph i = s1.reportFault x.ctx p x.die false 0) ∧
    (∀ y s1, read = .inst y s1 → s.fetchGraph i = ((s1.dropReads (.ring x.ring)).setInst i (some y)).settleInst i)) ∧
  (∀ (x : Inst) (ws : List (List Word)) (n : Nat) (w : List Word), ws[n]? = some w →
    (x.withNodes ws).node? n = some (parseNode w) ∧ (x.withNodes ws).graph = none ∧
    ((parseNode w).preds ≠ 0 → (x.withNodes ws).state? n = some (.blocked (parseNode w).preds)) ∧
    ((parseNode w).preds = 0 → ∃ k, (x.withNodes ws).state? n = some (.ready k)))

/-- R237, R238: a node that may start acts by its kind; a node that has completed releases its successors, and the one whose count
reaches 0 becomes ready; a poisoned read fails its node (with a code that is free: the model's choice, log 66); a launch node completes when nothing
of its launch is left. -/
def Sys2Proof.Machine.NodesActAndComplete : Prop :=
  (∀ (s : State) (i n : Nat) (x : Inst) (d : Node),
    let read := readVirt s (.node i n) x.ctx
    (∀ k len s1 data, (k, len) ∈ [(1, 64), (2, 8), (3, 8), (5, 8)] → startable s i n k = some (x, d) →
      read d.a len = .ok (data, true) s1 →
      ∀ e, (k, e) ∈ [(1, Instr.launchNode i n), (2, .condNode i n), (3, .whileNode i n), (5, .waitNode i n)] →
        exec e s = .next (s1.failPoison i n)) ∧
    (startable s i n 1 = some (x, d) → ∀ img s1, read d.a 64 = .ok (img, false) s1 →
      (recordOk (wordsOf 8 img) = false → exec (.launchNode i n) s = .next ((s1.dropReads (.node i n)).failNode i n 2)) ∧
      (recordOk (wordsOf 8 img) = true → ∃ s' l, exec (.launchNode i n) s = .next s' ∧ s'.mem = s1.mem ∧
        s'.launch? (s1.sched.nextId + 1) = some l ∧ l.status = .waiting ∧ l.lr = parseRecord (wordsOf 8 img) ∧ l.ctx = x.ctx ∧
        l.prio = x.prio ∧ l.inst = i ∧ l.node = n ∧
        (s1.inst? i = some x → s'.inst? i = some (x.setState n .running)))) ∧
    (∀ w s1, read d.a 8 = .ok (w, false) s1 →
      let after := fun st => (s1.dropReads (.node i n)).nodeState i n st
      (startable s i n 2 = some (x, d) → exec (.condNode i n) s = .next
        (after (.ending (if leNat w ≠ 0 then d.succ.take 2 else d.succ.drop 2)))) ∧
      (startable s i n 3 = some (x, d) →
        (leNat w = 0 → exec (.whileNode i n) s = .next (after (.ending (d.succ.drop 2)))) ∧
        (leNat w ≠ 0 → s1.inst? i = some x → ∃ s' x', exec (.whileNode i n) s = .next s' ∧ s'.inst? i = some x' ∧ s'.mem = s1.mem ∧
          x'.state? n = some (.blocked 1))) ∧
      (startable s i n 5 = some (x, d) → exec (.waitNode i n) s = .next
        (after (if d.b.toNat ≤ leNat w then .ending d.succ else .running)))) ∧
    (startable s i n 4 = some (x, d) → ∀ data s1,
      let k := copyChunk d.a d.b.toNat d.c.toNat 0
      (read (d.a + k.1) k.2 = .ok (data, true) s1 → exec (.copyNode i n) s = .next (s1.failPoison i n)) ∧
      (read (d.a + k.1) k.2 = .ok (data, false) s1 → ∀ ops s2,
        writeVirt s1 x.ctx (d.b.toNat + k.1) data (copyWrite i n x.ctx) (copyWrite i n x.ctx) = .ok ops s2 →
        exec (.copyNode i n) s = .next ((s2.dropReads (.node i n)).nodeState i n (.busy k.2 ops)))) ∧
    (startable s i n 6 = some (x, d) → ∀ ops s1,
      writeVirt s x.ctx d.a (leBytes 8 d.b.toNat) (fun _ => .nodeWrite i n none) (fun _ => .nodeWrite i n none) = .ok ops s1 →
      exec (.signalNode i n) s = .next (s1.nodeState i n (.busy 0 ops)))) ∧
  (∀ (s : State) (i n m : Nat) (x : Inst) (d : Node), s.Ends i n x d [m] → m ≠ n → n ≠ 0xFFFF →
    (x.state? m = some (.blocked 1) → ∃ s' x', exec (.nodeComplete i n) s = .next s' ∧ s'.inst? i = some x' ∧ s'.mem = s.mem ∧
      x'.state? n = some .done ∧ x'.state? m = some (.ready x.nready) ∧ x'.nready = x.nready + 1) ∧
    (∀ c, x.state? m = some (.blocked (c + 2)) → (∃ p ∈ slist x.states, p.1 ≠ n ∧ p.1 ≠ m ∧ p.2 = .running) →
      ∃ s' x', exec (.nodeComplete i n) s = .next s' ∧ s'.inst? i = some x' ∧ s'.mem = s.mem ∧ x'.state? n = some .done ∧
        x'.state? m = some (.blocked (c + 1)))) ∧
  (∀ (s : State) (i n lid : Nat) (x : Inst) (d : Node) (l : Launch), s.inst? i = some x → x.node? n = some d →
    nodeLaunch s i n = some (lid, l) → l.status = .resident → s.teamsOf lid = [] →
    (∀ c ∈ slist s.eng.cmds, c.2.launch ≠ lid) → (∀ o ∈ slist s.coh.ops, opHolds lid o.2 = false) →
    (launchDirty s lid = [] → ∃ s', exec (.launchNodeComplete i n) s = .next s' ∧ s'.launch? lid = none ∧ s'.mem = s.mem ∧
      s'.inst? i = some (x.setState n (.ending d.succ))) ∧
    (launchDirty s lid ≠ [] → exec (.launchNodeComplete i n) s = .next (flushLaunch s lid)))

/-- R239, R240: DLAUNCH checks its handle and offset, reads the descriptor once the arm's work has completed and waits; the walker gives
an accepted node the next dynamic number and its successors one more in their counts; the status word fills the register. The model's
choices: DLAUNCH waits for the ownership that the arm's stores await (log 13), and the order of the status codes (log 84). -/
def Sys2Proof.Machine.NodesAreAddedFromPrograms : Prop :=
  (∀ (k : Issue) (o : UR), k.Ready { qg := o.qg.toNat, gr := [(o.ga.toNat, false), (o.gb.toNat, false)], gw := [o.gd.toNat] } →
    let h := k.t.greg o.ga.toNat
    let off := k.t.greg o.gb.toNat
    (k.t.handle k.s h = none → exec (.dlaunch o) k.s = .next (k.afterTrap 4 0x08 h)) ∧
    (∀ e, k.Names o.ga e →
      (e.perm.testBit 0 = false ∨ e.space ∉ [4, 5] → exec (.dlaunch o) k.s = .next (k.afterTrap 4 0x08 h)) ∧
      (e.perm.testBit 0 = true → e.space ∈ [4, 5] →
        (e.limit < off.toNat + 64 → exec (.dlaunch o) k.s = .next (k.afterTrap 4 0x07 off)) ∧
        (off.toNat + 64 ≤ e.limit → off.toNat % 64 ≠ 0 → exec (.dlaunch o) k.s = .next (k.afterTrap 4 0x05 off)) ∧
        (off.toNat + 64 ≤ e.limit → off.toNat % 64 = 0 → k.s.awaitsOwn k.t.geom.core k.tid k.f = false →
          k.s.wroteM k.t.geom.core k.tid k.f = false → k.s.liveOps k.a.ops = [] →
          k.s.liveCmds k.a.cmds = [] → ∀ key, placeOf k.l k.t.geom e 0 off.toNat = .bank key → k.s.poisoned (key / 64) = false →
          exec (.dlaunch o) k.s = .next (k.s.setTeam k.tid (k.t.modArm k.f (fun a =>
            { a with wait := .dlaunch o.gd.toNat (wordsOf 8 (Memory.bytes k.s.mem key 64)) 0 none }))))))) ∧
  (∀ (s : State) (a : ArmId) (t : Team) (x : Arm) (l : Launch) (i : Inst) (gd n : Nat) (w : List Word), s.armOf a = some (t, x) →
    s.launch? t.geom.launch = some l → s.inst? l.inst = some i → x.wait = .dlaunch gd w n none →
    let answer := fun (v : Word) (i' : Inst) => exec (.dlaunchDescriptor a) s = .next ((s.setTeam a.team (t.setArm a.f
      (some { x with wait := .dlaunch gd w n (some v) }))).setInst l.inst (some i'))
    ((i.err.isSome = true ∨ i.aborted = true) → answer 4 i) ∧
    (i.err = none → i.aborted = false →
      ((nodeBitsOk w = false ∨ (parseNode w).preds ≠ 0 ∨ (parseNode w).kind = 3) → answer 2 i) ∧
      (nodeBitsOk w = true → (parseNode w).preds = 0 → (parseNode w).kind ≠ 3 → (parseNode w).names = [] →
        (∀ m ∈ (parseNode w).succ, m = 0xFFFF) →
        (256 ≤ i.dyn → answer 1 i) ∧
        (i.dyn < 256 → ∃ i', answer (BitVec.ofNat 64 ((0x8000 + i.dyn) * 65536)) i' ∧ i'.dyn = i.dyn + 1 ∧
          i'.node? (0x8000 + i.dyn) = some (parseNode w) ∧ i'.state? (0x8000 + i.dyn) = some (.ready i.nready))))) ∧
  (∀ (s : State) (a : ArmId) (t : Team) (x : Arm) (gd n : Nat) (w : List Word) (v : Word), s.armOf a = some (t, x) →
    x.wait = .dlaunch gd w n (some v) → exec (.dlaunchStatus a) s = .next (s.setTeam a.team ((t.setG gd v).setArm a.f
      (some (({ x with wait := .ready } : Arm).advance 4)))))

/-- R83, R242 to R244, R246, R308 to R315: the allocator places the launch it serves next at the first origin with room, its teams
starting at CODE + ENTRY; victims are told to stop and their arms stop at 2 µs, one whose trap is due after it has taken it; a launch that
has stopped is suspended with its scratchpad bytes saved, and resumes with them where they were. The model's choices: the palette is read
at placement, and a fatal page of it fails the node with code 4 (log 87); the saved bytes are kept in the launch's record, not in memory
(log 49). -/
def Obligations.LaunchesArePlacedSuspendedAndResumed : Prop :=
  (∀ (s : State) (lid : Nat) (l : Launch), allocHead s = some (lid, l) → l.status = .waiting → 3 ≤ s.mgmt.stage →
    (∀ o ps s1, planFirst s [] l.lr (origins l.lr) = some (o, ps) →
      readVirt s (.launch lid) l.ctx l.lr.palette 16384 = .fatal s1 →
      exec .launchPlacement s = .next ((s1.dropReads (.launch lid)).failLaunch lid 4)) ∧
    (∀ o ps img s1, planFirst s [] l.lr (origins l.lr) = some (o, ps) →
      readVirt s (.launch lid) l.ctx l.lr.palette 16384 = .ok (img, false) s1 →
      ∃ s' l', exec .launchPlacement s = .next s' ∧ s'.mem = s1.mem ∧ s'.launch? lid = some l' ∧ l'.status = .resident ∧
        l'.x0 = o.1 ∧ l'.y0 = o.2 ∧ l'.pal = parsePalette l.lr img ∧
        ∀ tid t, s'.team? tid = some t → s1.team? tid = some t ∨ (t.geom.launch = lid ∧ t.armF = none ∧
          t.trap.vec = BitVec.ofNat 64 l.lr.trapvec ∧ ∃ a, t.armT = some a ∧ a.pc = BitVec.ofNat 64 (l.lr.code + l.lr.entry) ∧
          a.wait = .ready ∧ a.inHandler = false ∧ a.active = firstLanes l.lr.lanes)) ∧
    (∀ v, let gone := ((slist s.alloc.launches).filter (fun kl => kl.2.isStopping && decide (kl.2.prio < l.prio))).map (·.1)
      planFirst s gone l.lr (origins l.lr) = none → firstVictims s l gone (origins l.lr) = some [v] →
      ∃ s' l', exec .preemption s = .next s' ∧ s'.mem = s.mem ∧ s'.launch? v.1 = some l' ∧ l'.status = .stopping s.sched.gtc ∧
        l'.slots = (freeSaveSlots s).take v.2.coreCount)) ∧
  (∀ (s : State) (a : ArmId) (t : Team) (x : Arm) (l : Launch) (since : Nat), s.armOf a = some (t, x) →
    s.launch? t.geom.launch = some l → l.since? = some since → x.stopped = false → since + 2000 ≤ s.sched.gtc →
    (x.due? = none ∨ armTakes s t a.f x = false → exec (.armStopDeadline a) s = .next (s.setTeam a.team (t.setArm a.f (some x.stop)))) ∧
    (∀ info, x.due? = some info → armTakes s t a.f x = true → exec (.armStopDeadline a) s =
      .next (takeTrap s a.team a.f x.pc (unitLenAt s l t.geom.core x.pc.toNat) 0x0B info))) ∧
  (∀ (s : State) (lid : Nat) (l : Launch), s.launch? lid = some l → l.isStopping = true → l.isAborting = false →
    armsHalted s lid = true → (∀ c ∈ slist s.eng.cmds, c.2.launch = lid → cmdHalted s c.1 c.2 = true) →
    (∀ o ∈ slist s.coh.ops, opHolds lid o.2 = false) → writesOut s l.keyRanges = false →
    (∀ c ∈ l.cores, ∀ kx ∈ slist s.coh.l1, kx.1 % 256 = c → kx.2.st ≠ .m) → (∀ c ∈ l.cores, writeBacksOut s c = false) →
    ∃ s' l', exec (.launchSuspended lid) s = .next s' ∧ s'.mem = s.mem ∧ s'.launch? lid = some l' ∧ l'.status = .suspended ∧
      ∀ k, inRanges l.keyRanges k = true → Memory.get l'.saved k = Memory.get s.mem k) ∧
  (∀ (s : State) (lid : Nat) (l : Launch), allocHead s = some (lid, l) → l.status = .suspended →
    (∀ c ∈ l.cores, coreFreeFor s lid l c = true) → Memory.wf l.saved = true →
    (∀ c ∈ l.saved, inRanges l.keyRanges c.1 = true) →
    ∃ s' l', exec (.launchResume lid) s = .next s' ∧ s'.launch? lid = some l' ∧ l'.status = .resident ∧ l'.slots = [] ∧
      (∀ k, Memory.get s'.mem k = if inRanges l.keyRanges k = true then Memory.get l.saved k else Memory.get s.mem k) ∧
      ∀ tid t a, s.team? tid = some t → t.geom.launch = lid → t.armT = some a → ∃ t' a', s'.team? tid = some t' ∧
        t'.armT = some a' ∧ a'.pc = a.pc ∧ a'.active = a.active ∧ a'.stopped = false ∧ t'.lanes = t.lanes)

/-- R233, R235 to R240, R355: rings start instances, nodes act and complete, programs add nodes: the three statements above, with the model's
choices of logs 13, 66 and 84. -/
def Obligations.WalkersRunInstances : Prop :=
  Sys2Proof.Machine.RingsStartInstances ∧ Sys2Proof.Machine.NodesActAndComplete ∧ Sys2Proof.Machine.NodesAreAddedFromPrograms

end

/-! ### Translation and guests -/

namespace Sys2Proof.Machine

/-- A packet from a guest that serves names an outstanding work packet (R342). -/
structure State.GuestSays (s : State) (q : GuestPkt) (p : Packet) : Prop where
  serves : (s.site q.site).serves = true
  names : s.packet? q = some p

/-- The command of a packet is there, has not failed, and reports to a register of its team (R273, R340). -/
structure State.Reports (s : State) (p : Packet) (c : Cmd) (x : Slice) (r : Nat) (t : Team) : Prop where
  cmd : s.cmd? p.cmd = some c
  kind : ∃ site queue seq slot pkt n, c.kind = .easel site queue seq slot pkt none n
  slices : c.slices = [x]
  stat : x.stat = some r
  team : s.team? x.team = some t
  fail : c.fail = none

/-- A sector's home can take a write at once, and nobody else has a copy of it (R163). -/
structure State.Unshared (s : State) (sec : Nat) : Prop where
  room : s.homeAccepts sec = true
  idle : (s.dirEnt sec).busy = false
  owner : (s.dirEnt sec).owner = none
  lease : (s.dirEnt sec).exp ≤ s.sched.gtc
  sharers : (s.dirEnt sec).sharers = []

end Sys2Proof.Machine

section
open Sys2Proof Sys2Proof.Machine

/-- R307, R350, R351: a walk that finds a page lets the arms that wait for it go on and leaves it in their cores' TLBs; one that
finds none resident reports it, but for an access that the page's permissions do not allow; after a fatal one, or such an access, the arm
traps XLATE_FATAL when it next issues; the driver's answer ends the record, releases or fails what was parked and tells the guests that
wait, each by the address of its fault.
R352: an invalidation drops the translations of the pages it meets, whole, and asks every guest that serves; it is complete when nothing
may use them. -/
def Sys2Proof.Machine.TranslationsAreWalkedAndAnswered : Prop :=
  (∀ (s : State) (ctx page : Nat), s.pageWaiters ctx page ≠ [] →
    let v : State := (((s.pageWaiters ctx page).map (fun x => x.2.1)).dedup).foldl (fun s c => s.walked (coreUnit c) ctx (page * 2 ^ 17)) s
    let info := fun (x : ArmId × Nat × Nat × Bool) => BitVec.ofNat 64 (x.2.2.1 + if x.2.2.2 then 2 ^ 63 else 0)
    (∀ pa r w at_ big, walk v ctx (page * 2 ^ 17) = .page pa r w at_ big → ∃ s', exec (.tableWalk ctx page) s = .next s' ∧
      s'.mem = v.mem ∧
      (∀ x ∈ s.pageWaiters ctx page, ∀ t a ps, v.armOf x.1 = some (t, a) → a.wait = .xlate ps → (∀ p ∈ ps, p.1 / 2 ^ 17 = page) →
        ∃ t', s'.armOf x.1 = some (t', { a with wait := .ready }) ∧ t'.lanes = t.lanes) ∧
      ∀ x pa' r' w' at' big', s.pageWaiters ctx page = [x] → s.tlbFind (coreUnit x.2.1) ctx (page * 2 ^ 17) = none →
        walk s ctx (page * 2 ^ 17) = .page pa' r' w' at' big' →
        (∃ e ∈ s'.easel.tlb, e.unit = 64 + x.2.1 ∧ e.ctx = ctx ∧ e.covers ctx (page * 2 ^ 17) = true ∧ e.big = big')) ∧
    (∀ x r w at_, walk v ctx (page * 2 ^ 17) = .replay r w at_ → s.pageWaiters ctx page = [x] →
      (v.waiterDenied page x r w at_ = false → v.easel.faults.any (fun f => f.ctx = ctx && f.page = page && f.die = coreDie x.2.1) = false →
        ∃ s', exec (.tableWalk ctx page) s = .next s' ∧ s'.faulted ctx page = true ∧ s'.mem = v.mem ∧
          s'.out = v.out ++ [.faultRecord ctx (page * 2 ^ 17) x.2.2.2 x.1.team]) ∧
      (∀ t a, v.waiterDenied page x r w at_ = true → v.armOf x.1 = some (t, a) →
        ∃ s' t', exec (.tableWalk ctx page) s = .next s' ∧ s'.mem = v.mem ∧ s'.out = v.out ∧
          s'.armOf x.1 = some (t', { a with wait := .fatal (info x) }))) ∧
    (∀ x t a, walk v ctx (page * 2 ^ 17) = .fatal → s.pageWaiters ctx page = [x] → v.armOf x.1 = some (t, a) →
      ∃ s' t', exec (.tableWalk ctx page) s = .next s' ∧ s'.mem = v.mem ∧
        s'.armOf x.1 = some (t', { a with wait := .fatal (info x) }))) ∧
  (∀ (s : State) (ctx page : Nat), s.pageWaiters ctx page = [] → s.servedWaits ctx page = true →
    exec (.tableWalk ctx page) s = .next s.retryServed) ∧
  (∀ (s : State) (tid : Nat) (f : Bool) (t : Team) (a : Arm) (l : Launch) (info : Word), s.curArm = some (tid, f, t, a) →
    s.launch? t.geom.launch = some l → a.wait = .fatal info → armTakes s t f a = true →
    runUnit s = .next (takeTrap s tid f a.pc (unitLenAt s l t.geom.core a.pc.toNat) Code.xlateFatal info)) ∧
  (∀ (s : State) (ctx page : Nat), s.faulted ctx page = true →
    (∃ s', exec (.faultResolve ctx page) s = .next s' ∧
      (s.alloc.insts = [] → s.pod.served = [] → s'.faulted ctx page = false ∧ s'.mem = s.mem ∧
        (∀ x ∈ s.pageWaiters ctx page, ∀ t a, s.armOf x.1 = some (t, a) → ∃ t', s'.armOf x.1 = some (t', { a with wait := .ready })) ∧
        (∀ cid c w l, s.cmd? cid = some c → c.parked = some (page, w) → s.launch? c.launch = some l → l.ctx = ctx →
          s'.cmd? cid = some { c with parked := none }) ∧
        (∀ p ∈ s.easel.packets, p.ctx = ctx → ∀ va ∈ p.waits, va / 2 ^ 17 = page →
          OutMsg.packet p.site (contractPacket 0xF011 p.pkt (leBytes 8 va ++ leBytes 1 0)) ∈ s'.out))) ∧
    (∃ s', exec (.faultFatal ctx page) s = .next s' ∧
      (s.alloc.insts = [] → s.pod.served = [] → s'.faulted ctx page = false ∧ s'.mem = s.mem ∧
        (∀ x ∈ s.pageWaiters ctx page, ∀ t a, s.armOf x.1 = some (t, a) → ∃ t', s'.armOf x.1 = some (t', { a with
          wait := .fatal (BitVec.ofNat 64 (x.2.2.1 + if x.2.2.2 then 2 ^ 63 else 0)) })) ∧
        (∀ cid c w l, s.cmd? cid = some c → c.parked = some (page, w) → s.launch? c.launch = some l → l.ctx = ctx → c.fail = none →
          ∃ c', s'.cmd? cid = some c' ∧ c'.parked = none ∧ c'.fail = some ⟨0x0B, s.self, c.wrote, false⟩) ∧
        (∀ p ∈ s.easel.packets, p.ctx = ctx → ∀ va ∈ p.waits, va / 2 ^ 17 = page →
          OutMsg.packet p.site (contractPacket 0xF011 p.pkt (leBytes 8 va ++ leBytes 1 1)) ∈ s'.out)))) ∧
  (∀ (s : State) (ctx page : Nat), s.faulted ctx page = false → exec (.faultResolve ctx page) s = .next s ∧
    exec (.faultFatal ctx page) s = .next s) ∧
  (∀ (s : State) (v : Word),
    (s.easel.xinvBusy = true ∨ s.mgmt.stage < 2 → exec (.xinvctlGo v) s = .next s) ∧
    (2 ≤ s.mgmt.stage → s.easel.xinvBusy = false → v.getLsbD 63 = false → exec (.xinvctlGo v) s = .next (s.setBar0 0x300308 (v &&& 0x4000FFFFFFFFFFFF#64))) ∧
    (2 ≤ s.mgmt.stage → s.easel.xinvBusy = false → v.getLsbD 63 = true →
      let lo := fld (s.bar0 0x300300) 17 40
      let n := fun (e : TlbEnt) => if e.big then 2 ^ 14 else 1
      let first := fun (e : TlbEnt) => e.page / n e * n e
      ∃ s', exec (.xinvctlGo v) s = .next s' ∧ s'.easel.xinvBusy = true ∧ s'.mem = s.mem ∧
        (∀ e ∈ s.easel.tlb, e ∈ s'.easel.tlb ↔
          ¬ (e.ctx = fld v 0 16 ∧ (v.getLsbD 62 = true ∨ (lo < first e + n e ∧ first e < lo + fld v 16 32)))) ∧
        (∀ d ∈ s.liveSites, (s'.site d).invals ≠ [] ∧ ∃ pkt, OutMsg.packet d pkt ∈ s'.out))) ∧
  (∀ (s : State), s.easel.xinvBusy = true → (∀ d ∈ s.liveSites, (s.site d).invals = []) → s.liveOps s.easel.xinvOps = [] →
    (∀ l ∈ s.easel.xinvLoads, oget s.coh.loads l = none) →
    (∀ k ∈ s.easel.xinvServed, ∀ x, oget s.pod.served k = some x → x.reply ≠ none) →
    (∀ r ∈ s.easel.xinvReads, oget s.coh.reads r = none) →
    ∃ s', exec .xinvComplete s = .next s' ∧ s'.easel.xinvBusy = false ∧ (s'.bar0 0x300308).getLsbD 63 = false ∧ s'.mem = s.mem)

/-- R256, R273, R338 to R346: a guest's COMPLETE fills its command's register with its code, an internal FAULT with GUEST, one of a page
that was answered as fatal with XLATE_FATAL; a FAULT of another page goes to the driver; STOPPED and INVACK answer what was asked; XLREQ is
answered, and a valid answer grants the whole page; RDCURR, RDSHARED and WRCUR act on granted pages only. A packet that breaks the contract,
an answer after its deadline and every deadline that passes isolates the guest; the driver's reset brings it back. The model's choices:
which packets break the contract (log 97), and that a request for a poisoned sector is refused (log 98). -/
def Sys2Proof.Machine.GuestsAreServedAndIsolated : Prop :=
  (∀ (s : State) (q : GuestPkt) (p : Packet), s.GuestSays q p →
    let h := s.heard q.site
    let acc := fun (c d : Bool) => if d then Acc.atomic else if c then Acc.write else Acc.read
    let inTime := fun (va : Nat) => ∀ o ∈ p.owes, o.1 = va / 2 ^ 17 → s.sched.gtc ≤ o.2
    let has := fun (va : Nat) => p.granted.any (fun g => pageHolds g.1 g.2 (va / 2 ^ 17))
    (s.guestWrites q = true → ∀ code, exec (.complete q code) s = .next (h.isolate q.site 1)) ∧
    (s.guestWrites q = false → ∀ code, ∃ s', exec (.complete q code) s = .next s' ∧ s'.packet? q = none ∧ s'.mem = s.mem ∧
      ∀ c x r t, s.Reports p c x r t → ∃ t', s'.team? x.team = some t' ∧ t'.gMark r = .full ∧
        StatusSays (t'.greg r) code.toNat none c.vmiss c.wrote) ∧
    (∀ va w i o, o ∈ p.owes → o.1 = va / 2 ^ 17 → o.2 < s.sched.gtc → exec (.fault q va w i) s = .next (h.isolate q.site 2)) ∧
    (∀ va w, inTime va → ∃ s', exec (.fault q va w true) s = .next s' ∧ s'.packet? q = none ∧ s'.mem = s.mem ∧
      ∀ c x r t, s.Reports p c x r t → ∃ t', s'.team? x.team = some t' ∧ t'.gMark r = .full ∧
        StatusSays (t'.greg r) 0 (some ⟨0x13, s.self, c.wrote, false⟩) c.vmiss c.wrote) ∧
    (∀ va w, inTime va → p.denied.contains (va / 2 ^ 17) = true → ∃ s', exec (.fault q va w false) s = .next s' ∧ s'.packet? q = none ∧
      s'.mem = s.mem ∧ ∀ c x r t, s.Reports p c x r t → ∃ t', s'.team? x.team = some t' ∧ t'.gMark r = .full ∧
        StatusSays (t'.greg r) 0 (some ⟨0x0B, s.self, c.wrote, false⟩) c.vmiss c.wrote) ∧
    (∀ va w, inTime va → p.denied.contains (va / 2 ^ 17) = false → p.stopBy = none → ∃ s' p', exec (.fault q va w false) s = .next s' ∧
      s'.packet? q = some p' ∧ va ∈ p'.waits ∧ (∀ o ∈ p'.owes, o.1 ≠ va / 2 ^ 17) ∧ s'.faulted p.ctx (va / 2 ^ 17) = true ∧
      s'.mem = s.mem) ∧
    (∀ d, p.stopBy = some d → ∀ n,
      let buf := (s.site q.site).bufferAddr (p.buf.getD 0)
      (s.sched.gtc ≤ d → n ≤ 2 ^ 20 → ∃ s' p', exec (.stopped q buf n false) s = .next s' ∧ s'.packet? q = some p' ∧
        p'.stopped = true ∧ p'.savedLen = n ∧ p'.stopBy = none ∧ s'.mem = s.mem) ∧
      (d < s.sched.gtc ∨ 2 ^ 20 < n → exec (.stopped q buf n false) s = .next (h.isolate q.site 4)) ∧
      ∀ b, b ≠ buf → exec (.stopped q b n false) s = .next (h.isolate q.site 1)) ∧
    (∀ va c d,
      let v := h.walked (dieUnit q.site) p.ctx va
      let say := fun (res : Nat) (big : Bool) => OutMsg.packet q.site
        (contractPacket 0xF010 p.pkt (leBytes 8 va ++ leBytes 1 res ++ leBytes 1 (if big then 1 else 0)))
      (∀ pg r w at_ big pa, xlNow v (dieUnit q.site) p.ctx va (acc c d) = (.page pg r w at_ big, pa) →
        ∃ s' p', exec (.xlreq q va c d) s = .next s' ∧ s'.packet? q = some p' ∧
          (if big then va / 2 ^ 17 / 2 ^ 14 * 2 ^ 14 else va / 2 ^ 17, big) ∈ p'.granted ∧ s'.mem = v.mem ∧ s'.out = v.out ++ [say 0 big]) ∧
      (∀ r w at_ x, xlNow v (dieUnit q.site) p.ctx va (acc c d) = (.replay r w at_, x) →
        ∃ s' p', exec (.xlreq q va c d) s = .next s' ∧ s'.packet? q = some p' ∧ (va / 2 ^ 17, s.sched.gtc + 10000) ∈ p'.owes ∧
          va / 2 ^ 17 ∉ p'.denied ∧ s'.mem = v.mem ∧ s'.out = v.out ++ [say 1 false]) ∧
      (∀ x, xlNow v (dieUnit q.site) p.ctx va (acc c d) = (.fatal, x) →
        ∃ s' p', exec (.xlreq q va c d) s = .next s' ∧ s'.packet? q = some p' ∧ (va / 2 ^ 17, s.sched.gtc + 10000) ∈ p'.owes ∧
          va / 2 ^ 17 ∈ p'.denied ∧ s'.mem = v.mem ∧ s'.out = v.out ++ [say 2 false])) ∧
    (∀ va cells, has va = false →
      let no := Host.Outcome.next ((h.emit (.portRefused q.site q.queue q.seq)).isolate q.site 1)
      exec (.rdcurr q va) s = no ∧ exec (.rdshared q va) s = no ∧ exec (.wrcur q va cells) s = no) ∧
    (∀ va pa, has va = true → tlbLook h (dieUnit q.site) p.ctx va .read = .pa pa →
      let who := ReadAgent.guest q.site q.queue q.seq
      let asks := fun (e : Instr) (lease : Option Nat) =>
        (∀ s1, h.agentReads who lease [pa / 64] = (none, s1) → exec e s = .next s1) ∧
        (∀ d bad till rest s1, h.agentReads who lease [pa / 64] = (some ((d, bad, till) :: rest), s1) → exec e s = .next
          (s1.emit (if bad then .portRefused q.site q.queue q.seq else .portData q.site q.queue q.seq d (till - s.sched.gtc))))
      asks (.rdcurr q va) none ∧ asks (.rdshared q va) (some 1024) ∧
      (s.Unshared (pa / 64) → s.agentRead? who (pa / 64) = none →
        let data := Memory.bytes s.mem (pa / 64 * 64) 64
        (s.poisoned (pa / 64) = true → ∃ s', exec (.rdcurr q va) s = .next s' ∧ s'.mem = s.mem ∧
          s'.out = s.out ++ [.portRefused q.site q.queue q.seq]) ∧
        (s.poisoned (pa / 64) = false → ∃ s', exec (.rdcurr q va) s = .next s' ∧ s'.mem = s.mem ∧
          s'.out = s.out ++ [.portData q.site q.queue q.seq data 0]) ∧
        (s.poisoned (pa / 64) = false → s.noLeases = false → ∃ s', exec (.rdshared q va) s = .next s' ∧ s'.mem = s.mem ∧
          s.sched.gtc + 1024 ≤ (s'.dirEnt (pa / 64)).exp ∧ s'.out = s.out ++ [.portData q.site q.queue q.seq data 1024]))) ∧
    (∀ va pa cells, has va = true → tlbLook h (dieUnit q.site) p.ctx va .write = .pa pa → s.Unshared (pa / 64) →
      ∃ s', exec (.wrcur q va cells) s = .next s' ∧
        s'.mem = Memory.putAll s.mem (cells.map (fun x => (pa / 64 * 64 + x.1 % 64, x.2))) ∧
        OutMsg.portDone q.site q.queue q.seq ∈ s'.out)) ∧
  (∀ (s : State) (q : GuestPkt) (code : BitVec 32), (s.site q.site).serves = true → s.packet? q = none →
    exec (.complete q code) s = .next ((s.heard q.site).isolate q.site 1)) ∧
  (∀ (s : State) (site : Nat), (s.site site).serves = true →
    (∀ n i, (s.site site).invals.find? (fun x => x.num = n) = some i → i.by_ < s.sched.gtc →
      exec (.invack site n) s = .next ((s.heard site).isolate site 3)) ∧
    (∀ n, (∀ i ∈ (s.site site).invals, i.num = n → s.sched.gtc ≤ i.by_) → ∃ s', exec (.invack site n) s = .next s' ∧ (s'.site site).invals = (s.site site).invals.filter (fun i => i.num ≠ n) ∧
      s'.mem = s.mem) ∧
    (∀ i ∈ (s.site site).invals, i.by_ < s.sched.gtc → exec (.invackDeadline site) s = .next (s.isolate site 3)) ∧
    ((s.site site).lastFlit + 10000 < s.sched.gtc → ∃ s', exec (.linkSilent site) s = .next s' ∧ (s'.site site).isolated = true ∧
      (s'.site site).cause = 5 ∧ (∀ p ∈ s'.easel.packets, p.site ≠ site) ∧
      ((∀ d ∈ slist s.coh.dir, ∀ r ∈ d.2.queue, r.ofSite s site = false) → s'.mem = s.mem)) ∧
    (∀ kind : BitVec 16, (kind.toNat < 0xF001 ∨ 0xF005 < kind.toNat) →
      exec (.unlistedContractKind site kind) s = .next ((s.heard site).isolate site 1)) ∧
    (∀ queue seq d, (∃ p, s.packet? ⟨site, queue, seq⟩ = some p ∧ p.stopBy = some d) → d < s.sched.gtc →
      exec (.stoppedDeadline ⟨site, queue, seq⟩) s = .next (s.isolate site 4)) ∧
    (∀ queue seq p o, s.packet? ⟨site, queue, seq⟩ = some p → o ∈ p.owes → o.2 < s.sched.gtc →
      exec (.faultReportDeadline ⟨site, queue, seq⟩) s = .next (s.isolate site 2))) ∧
  (∀ (s : State) (site : Nat), (s.site site).isolated = true →
    (∀ n, n < 16 → ∃ s', exec (.guestSiteReset site (some n)) s = .next s' ∧ (s'.site site).serves = true ∧ (s'.site site).qm1 = n ∧
      (∀ queue, sget 0 (s'.site site).seqs queue = 0) ∧ s'.mem = s.mem) ∧
    (∃ s', exec (.guestSiteReset site none) s = .next s' ∧ (s'.site site).serves = false ∧ s'.mem = s.mem))

/-- R256, R273, R307, R338 to R346, R350 to R352: translation and guests: both statements above, with the model's choices of logs 97 and
98. -/
def Obligations.TranslationAndGuests : Prop :=
  Sys2Proof.Machine.TranslationsAreWalkedAndAnswered ∧ Sys2Proof.Machine.GuestsAreServedAndIsolated

end

/-! ### The host, the controller, errors -/

namespace Sys2Proof.Machine

/-- A host's access may be performed: Stage B is over, the host's last write has committed (R182, R355). -/
structure State.HostMay (s : State) : Prop where
  stage : 2 ≤ s.mgmt.stage
  quiet : s.hostBusy = false

/-- The sources of errors in a core (R316, R317). -/
def ErrSource.OfCore (src : ErrSource) (c : Nat) : Prop :=
  (∃ d, src = .datapath c d ∨ src = .registerFile c d ∨ src = .scratchBank c d) ∨ src = .l1 c ∨ src = .macArray c ∨ src = .uniformPipe c

/-- The fields that a trip or a restart keeps, and no others (log 40): the schedule's agenda, the counters, host memory, the chip's
number, what was sent. -/
structure Restarted (s s' : State) : Prop where
  launches : s'.alloc = State.reset.alloc
  coh : s'.coh = State.reset.coh
  eng : s'.eng = State.reset.eng
  easel : s'.easel = State.reset.easel
  chip : s'.pod.chipId = s.pod.chipId
  stage : s'.mgmt.stage = 1
  digest : s'.mgmt.romDigest = s.mgmt.romDigest
  host : ∀ k, Memory.get s'.mem k = if 2 ^ 56 ≤ k ∧ k < 2 ^ 57 then Memory.get s.mem k else 0

end Sys2Proof.Machine

section
open Sys2Proof Sys2Proof.Machine

/-- R182, R353: the host's accesses inside one sector: a write reaches memory, a read brings the bytes, an atomic does both; a read whose
home has not answered waits. The model's choices: an address that nothing answers to faults (log 112), and an access waits until the
host's earlier writes have committed (log 46). -/
def Sys2Proof.Machine.HostAccessesComplete : Prop :=
  ∀ (s : State) (pa : Nat),
    (∀ data, runReaches pa data.length = false → exec (.hostWrite pa data) s = .fault (.reachesNothing pa)) ∧
    (s.HostMay →
      (∀ data, 0 < data.length → pa % 64 + data.length ≤ 64 → runReaches pa data.length = true → s.Unshared (pa / 64) →
        ∃ s', exec (.hostWrite pa data) s = .next s' ∧ s'.mem = Memory.putAll s.mem (cellsOf pa data) ∧ s'.hostBusy = false) ∧
      (∀ n, 0 < n → pa % 64 + n ≤ 64 → runReaches pa n = true →
        (∀ s1, s.agentReads .host none [pa / 64] = (none, s1) → exec (.hostRead pa n) s = .next s1) ∧
        (∀ d s1, s.agentReads .host none [pa / 64] = (some [d], s1) →
          exec (.hostRead pa n) s = .next (s1.emit (.hostData pa ((d.1.drop (pa % 64)).take n)))) ∧
        (s.Unshared (pa / 64) → s.agentRead? .host (pa / 64) = none → ∃ s', exec (.hostRead pa n) s = .next s' ∧ s'.mem = s.mem ∧
          s'.out = s.out ++ [.hostData pa (Memory.bytes s.mem pa n)])) ∧
      (∀ v, pa % 8 = 0 → runReaches pa 8 = true → s.Unshared (pa / 64) → ∃ s', exec (.hostAtomic pa true .add v 0) s = .next s' ∧
        s'.mem = Memory.putAll s.mem (cellsOf pa (leBytes 8 (BitVec.ofNat 64 (leNat (Memory.bytes s.mem pa 8)) + v).toNat))))

/-- R306, R316, R330, R354, R357, R358, R361: registers written by the host, each with its own rule; reserved bits are not kept; the
mailbox answers or is busy. A report says the nonce, the digests of the running firmware and of each attested guest's chain, the rollback
counter and the stage, then a signature. The model's choices: a misaligned offset is ignored (log 103), TIMECTL before Stage C is ignored
(log 105), the order of a report's fields (log 127). -/
def Sys2Proof.Machine.RegistersTakeTheHostsWrites : Prop :=
  ∀ (s : State),
    (∀ v, (500 ≤ fld v 0 12 → fld v 0 12 ≤ 3000 → exec (.pwrcapWrite v) s = .next (s.setBar0 0x20 (BitVec.ofNat 64 (fld v 0 12)))) ∧
      ((fld v 0 12 < 500 ∨ 3000 < fld v 0 12) → exec (.pwrcapWrite v) s = .next s)) ∧
    (2 ≤ s.mgmt.stage → ∀ v,
      (2 ≤ fld v 0 4 → exec (.fthreshWrite v) s = .next (s.setBar0 0x300040 (BitVec.ofNat 64 (fld v 0 4)))) ∧
      (fld v 0 4 < 2 → exec (.fthreshWrite v) s = .next s)) ∧
    (∀ v, (s.mgmt.stage < 3 → exec (.timectlWrite v) s = .next s) ∧
      (s.mgmt.stage = 3 → ∃ s', exec (.timectlWrite v) s = .next s' ∧ s'.mgmt.stageDPending = true ∧ s'.pod.timeStarted = true ∧
        s'.mem = s.mem ∧ s'.isMaster = v.getLsbD 63 ∧ (v.getLsbD 63 = true → s'.pod.locked = true ∧ s'.pod.bounded = true) ∧
        (v.getLsbD 63 = false → fld s'.timectl 0 6 = fld v 0 6))) ∧
    (∀ off v, off % 8 ≠ 0 → exec (.registerWrite off v) s = .next s) ∧
    (∀ off v, 2 ≤ s.mgmt.stage → off % 8 = 0 → 0x400000 ≤ off → off < 0x800000 →
      exec (.registerWrite off v) s = .next (s.setBar0 off (v &&& exportMask (off % 64 / 8)))) ∧
    (∀ off v, 2 ≤ s.mgmt.stage → off % 8 = 0 → 0x800000 ≤ off → off < 0x802000 →
      exec (.registerWrite off v) s = .next (s.setBar0 off (v &&& 0x8000FFFFFFFFFFFF#64))) ∧
    (∀ off v, s.mgmt.stage < 2 → 0x1000 ≤ off → exec (.registerWrite off v) s = .next s) ∧
    (2 ≤ s.mgmt.stage → ∀ die w, oget s.alloc.aborts die = some w → 0 < w.length → ∃ s', exec (.abortRecordRead die) s = .next s' ∧
      s'.out = s.out ++ [.register (0x300100 + 64 * die) ((w[0]?).getD 0)] ∧ (s'.abortWord die 0).getLsbD 63 = false ∧
      (∀ i, i ≠ 0 → s'.abortWord die i = s.abortWord die i) ∧ s'.mem = s.mem) ∧
    (s.mgmt.mailRan = false →
      (∀ nonce, ∃ s' sig, exec (.attest nonce) s = .next s' ∧ sig.length = 2420 ∧ s'.mem = s.mem ∧
        s'.out = s.out ++ [.report (nonce ++ s.mgmt.firmware ++ ((List.range 2).filter (fun i => (s.site i).attested)).flatMap
          (fun i => (s.site i).chain) ++ leBytes 4 s.mgmt.rollback ++ leBytes 1 s.mgmt.stage ++ sig)]) ∧
      (∀ key grp ctx wrapped, ∃ s', exec (.keyload key grp ctx wrapped) s = .next s' ∧ (key, grp, ctx) ∈ s'.mgmt.keys ∧
        s'.out = s.out ∧ s'.mem = s.mem)) ∧
    (s.mgmt.mailRan = true → ∀ nonce, ∃ s', exec (.attest nonce) s = .next s' ∧ s'.mem = s.mem ∧
      (s'.out = s.out ++ [.mailBusy] ∨ ∃ report, s'.out = s.out ++ [.report (nonce ++ report)]))

/-- R316 to R318, R355, R356, R361, R362: the stages, power and errors. A part over its cap is gated. The model's choices: the codes of
failed stages C and D (log 106), what outlives a trip or a restart (log 40), the fraction gated (a free value, 3 of 4 cycles at most). -/
def Sys2Proof.Machine.StagesPowerAndErrors : Prop :=
  ∀ (s : State),
    (∃ s', exec .powerGood s = .next s' ∧ Restarted s s' ∧ s'.mgmt.rollback = s.mgmt.rollback) ∧
    (∃ s', exec .hostReset s = .next s' ∧ Restarted s s' ∧ s'.mgmt.tripped = false) ∧
    (s.mgmt.tripped = false →
      (∃ s', exec .coreCurrentTrip s = .next s' ∧ Restarted s s' ∧ s'.mgmt.tripped = true ∧ OutMsg.msix 0 ∈ s'.out) ∧
      (∀ die, ∃ s', exec (.temperatureTrip die) s = .next s' ∧ Restarted s s' ∧ s'.mgmt.tripped = true ∧ OutMsg.msix 0 ∈ s'.out)) ∧
    (∀ w, ∃ s', exec (.powerWindow w) s = .next s' ∧ s'.mgmt.watts = w % 4096 ∧ s'.mem = s.mem ∧
      (w % 4096 ≤ fld (s.bar0 0x20) 0 12 → s.mgmt.gated = 0 → s'.mgmt.gated = 0) ∧ (s.mgmt.gated ≤ 192 → s'.mgmt.gated ≤ 192) ∧
      (fld (s.bar0 0x20) 0 12 < w % 4096 → 0 < s'.mgmt.gated)) ∧
    (∀ rom img sig, imageOk rom img sig = true ↔ sig = true ∧ 4096 ≤ img.length ∧ sha3 ((img.drop 16).take 1312) = rom ∧
      leNat (img.take 4) = 0x5A455046 ∧ leNat ((img.drop 8).take 8) = img.length - 4096 ∧ ∀ b ∈ (img.drop 3748).take 348, b = 0) ∧
    (s.mgmt.stage = 1 → s.mgmt.tripped = false → ∀ img sig trained,
      let ok := imageOk s.mgmt.romDigest img sig
      let version := leNat ((img.drop 4).take 4)
      (ok = false → exec (.stageB img sig trained) s = .next (s.stageFails 1 2)) ∧
      (ok = true → version < s.mgmt.rollback → exec (.stageB img sig trained) s = .next (s.stageFails 2 2)) ∧
      (ok = true → s.mgmt.rollback ≤ version → trained = false → ∃ s', exec (.stageB img sig trained) s = .next s' ∧
        s'.mgmt.stage = 1 ∧ s'.mgmt.failCode = 3 ∧ s'.mgmt.failStage = 2 ∧ s'.mgmt.rollback = version) ∧
      (ok = true → s.mgmt.rollback ≤ version → trained = true →
        ∃ s', exec (.stageB img sig trained) s = .next s' ∧ s'.mgmt.stage = 2 ∧ s'.mgmt.rollback = version ∧ s'.mgmt.firmware = sha3 img ∧
          ∀ k, Memory.get s'.mem k = if k < 2 ^ 39 then 0 else Memory.get s.mem k)) ∧
    (s.mgmt.tripped = true → ∀ img sig trained, exec (.stageB img sig trained) s = .refused (.notEnabled "STAGE_B")) ∧
    (s.mgmt.stage = 2 → s.mgmt.tripped = false → ∀ cores ports q0 q1, ∃ s', exec (.stageC cores ports (some q0) (some q1)) s = .next s' ∧
      s'.mgmt.stage = 3 ∧ s'.mem = s.mem ∧ (∀ c, s'.eng.fenced.contains c = true ↔ c ∈ cores ∧ c < 256) ∧
      (∀ p, p < 48 → (s'.portUp p = true ↔ p ∉ ports)) ∧ (s'.site 0).serves = true ∧ (s'.site 1).serves = true) ∧
    (s.mgmt.stage = 3 → s.mgmt.stageDPending = true → s.quiet = true →
      (s.pod.locked = true → ∃ s', exec (.stageD true) s = .next s' ∧ s'.mgmt.stage = 4 ∧ s'.mem = s.mem) ∧
      (∃ s', exec (.stageD false) s = .next s' ∧ s'.mgmt.stage = 3 ∧ s'.mgmt.failCode = 4 ∧ s'.mgmt.failStage = 4 ∧ s'.mem = s.mem)) ∧
    (2 ≤ s.mgmt.stage → ∀ src,
      (s.errCount src + 1 < fld (s.bar0 0x300040) 0 4 → ∃ s', exec (.correctedError src) s = .next s' ∧
        s'.errCount src = s.errCount src + 1 ∧ s'.eng = s.eng ∧ s'.mem = s.mem ∧ s'.out = s.out) ∧
      (∀ c, ErrSource.OfCore src c → fld (s.bar0 0x300040) 0 4 ≤ s.errCount src + 1 → s.mgmt.lasting.contains src = false →
        s.eng.fenced.contains c = false → ∃ s', exec (.correctedError src) s = .next s' ∧
          (s.coh.net = [] → s.coh.l1 = [] → s.coh.dir = [] → s.coh.owns = [] → s'.eng.fenced.contains c = true ∧
            OutMsg.msix 0 ∈ s'.out ∧ s'.mem = s.mem ∧ ∀ tid t l, s.team? tid = some t → t.geom.core = c →
              s.launch? t.geom.launch = some l → l.status = .resident →
              (∃ l' since, s'.launch? t.geom.launch = some l' ∧ l'.status = .aborting 3 since) ∧
              ∃ w, oget s'.alloc.aborts (coreDie c) = some w)) ∧
      (∀ secs, s.errCount src + 1 < fld (s.bar0 0x300040) 0 4 → ∃ s', exec (.uncorrectedError src secs) s = .next s' ∧
        (∀ sec, s'.poisoned sec = true ↔ (sec ∈ secs ∨ s.poisoned sec = true)) ∧ s'.mem = s.mem ∧ s'.eng = s.eng)) ∧
    (s.mgmt.window < s.sched.gtc / 2 ^ 30 → exec .errorWindowRoll s =
      .next { s with mgmt := { s.mgmt with errors := [], window := s.sched.gtc / 2 ^ 30 } })

/-- R182, R306, R316 to R318, R330, R353 to R358, R361, R362: the host, the controller, power and errors: the three statements
above, with the model's choices of logs 40, 46, 103, 105, 106, 112 and 127. -/
def Obligations.HostAndController : Prop :=
  Sys2Proof.Machine.HostAccessesComplete ∧ Sys2Proof.Machine.RegistersTakeTheHostsWrites ∧ Sys2Proof.Machine.StagesPowerAndErrors

end

/-! ### The machine as a whole -/

section
open Sys2Proof Sys2Proof.Machine

/-- R9 to R11, R26, R27, R33, R84, R85, R88 to R90, R108, R247, R364: with no turn of the schedule due, a pipe issues for its choice:
the arm's unit runs as it is fetched and decoded, one word or a pair, in the state that its fetch leaves; a word that is no instruction
traps ILLOP or PREFIX, a fetch outside the code segment traps BOUNDS, one of a page that may not be read traps XLATE_FATAL, and one of a
page that is not resident parks the arm. With no choice left the cycle ends: the ready arms that have not issued grow older, and a park
that has reached its limit of cycles ends. The choice is a ready arm of the pipe; an arm that has waited 7 N cycles goes before every
younger one, those of one age by slot; otherwise no arm goes before one of a higher class, nor in one class before one that issued
less recently. A turn of the schedule is an issue, time that passes, the end of a cycle, or an event of another agent. The model's own
choices: the form of the schedule (log 10), and that a unit's whole effect stands from its first pass on, an arm issuing at most once in
a cycle (log 54). -/
def Obligations.StepRunsTheDecodedUnit : Prop :=
  (∀ (s : State) (x : Seat), s.sched.agenda = [] → s.anyChoice = some x → x.arm.todo = 0 →
    ∀ k : Issue, k.s = s.noteIssue x.id (x.pipe s) → k.tid = x.id.team → k.f = x.id.f → k.Current →
    ∀ k' : Issue, k'.s = k.s.fetched → k'.tid = k.tid → k'.f = k.f → k'.Current →
    let out := fun o => afterTurn (if x.lane s then startPasses (passes x.arm.active - 1) x.arm.inHandler o else o)
    let va := k.a.pc.toNat
    let c := k.t.geom.core
    let at0 := fetchWord k.s k.l c va
    (∀ w i, at0 = .word w → decode w none = .ok i → checkBody k.s k.l c va i = .unit i → step s = out (exec i k'.s)) ∧
    (∀ w w1 i, at0 = .word w → decode w none = .error .more → fetchWord k.s k.l c (va + 4) = .word w1 →
      decode w (some w1) = .ok i → checkBody k.s k.l c va i = .unit i → step s = out (exec i k'.s)) ∧
    (∀ w info, at0 = .word w → decode w none = .error (.illop info) → step s = out (.next (k'.afterTrap (unitLen w) 0x01 info))) ∧
    (∀ w w1 info, at0 = .word w → decode w none = .error .more → fetchWord k.s k.l c (va + 4) = .word w1 →
      decode w (some w1) = .error (.prefixBad info) → step s = out (.next (k'.afterTrap 8 0x16 info))) ∧
    (∀ w i n code info, at0 = .word w → decode w none = .ok i → checkBody k.s k.l c va i = .trap n code info →
      step s = out (.next (k'.afterTrap n code info))) ∧
    (at0 = .bounds → step s = out (.next (k'.afterTrap 4 0x07 k.a.pc))) ∧
    (at0 = .fatal → step s = out (.next (k'.afterTrap 4 0x0B k.a.pc))) ∧
    (at0 = .replay → step s = out (.next (k'.s.modArm k.tid k.f (fun a => { a with wait := .xlate [(va, false, false)] }))))) ∧
  (∀ (s : State) (l : Launch) (c va : Nat) (i : Instr), (∀ g n, i ≠ .loop g n) → checkBody s l c va i = .unit i) ∧
  (∀ (s : State) (x : Seat), s.sched.agenda = [] → s.anyChoice = some x → x.arm.todo ≠ 0 → step s = .next (stopIdle
    ((s.noteIssue x.id (x.pipe s)).modArm x.id.team x.id.f (fun a => { a with todo := a.todo - 1 })))) ∧
  (∀ s : State, s.sched.agenda = [] → s.anyChoice = none → step s = .next (stopIdle (nextCycle s))) ∧
  (∀ (s : State) (x : Seat), s.anyChoice = some x → x.yields s = false ∧ ∃ pipe, s.choice pipe = some x) ∧
  (∀ (s : State) (pipe : Nat) (x : Seat), s.choice pipe = some x →
    pipe ∉ s.sched.issued ∧ x ∈ s.seats ∧ x.pipe s = pipe ∧ x.ready s = true ∧
    ∀ y ∈ candidates s s.seats pipe,
      let n := 7 * residents s pipe
      (n ≤ y.arm.age → n ≤ x.arm.age ∧ y.arm.age ≤ x.arm.age ∧
        (y.arm.age = x.arm.age → x.team.geom.slot ≤ y.team.geom.slot)) ∧
      ((∀ z ∈ candidates s s.seats pipe, z.arm.age < n) → y.launch.prio ≤ x.launch.prio ∧
        (y.launch.prio = x.launch.prio → x.arm.last ≤ y.arm.last))) ∧
  (∀ (s : State) (tid : Nat) (t : Team) (l : Launch) (a : Arm), s.team? tid = some t → s.launch? t.geom.launch = some l →
    t.armT = some a → ∃ t', (nextCycle s).team? tid = some t' ∧
      ((∃ since watch, a.wait = .paused since watch ∧ since + (if watch.isSome then 4096 else 64) ≤ s.sched.cycle) →
        t'.armT = some { a.wake with age := 0 }) ∧
      ((∀ since watch, a.wait = .paused since watch → s.sched.cycle < since + (if watch.isSome then 4096 else 64)) →
        t'.armT = some { a with age := if (⟨⟨tid, false⟩, t, a, l⟩ : Seat).ready s then a.age + 1 else 0 })) ∧
  (∀ s : State, (∀ x ∈ s.seats, x.launch.isStopping = false) → stopIdle s = s) ∧
  (∀ (s : State) (r : List Turn), let s' : State := { s with sched := { s.sched with agenda := r } }
    (∀ a x, s.sched.agenda = .issue a :: r → s'.seats.find? (fun y => y.id = a) = some x → (s'.choice (x.pipe s')).map (·.id) = some a →
      x.yields s' = false → step s = afterTurn (issueSeat s' x)) ∧
    (∀ i, s.sched.agenda = .event i :: r → i.isUnit = false → step s = afterTurn (exec i s')) ∧
    (s.sched.agenda = .cycle :: r → s'.anyChoice = none → step s = .next (stopIdle (nextCycle s'))) ∧
    (∀ ticks, s.sched.agenda = .elapse ticks :: r → s.sched.gtc % 128 + ticks ≤ 128 → s.sched.gtc % 128 ≠ 0 →
      step s = .next (stopIdle { s' with sched := { s'.sched with gtc := s.sched.gtc + ticks } })))

/-- R17, R20, R21, R29: words written out in the spec decode to what they stand for. -/
def Obligations.WordsOfTheSpecDecode : Prop :=
  decode 0x6E050422 none = .ok (.ld ⟨0, 5, 1, 2, .si, .w32⟩) ∧
  decode 0x4A440830 none = .ok (.ffma ⟨1, 4, 2, 3, .f64, false, false⟩) ∧
  decode 0xDE400042 none = .ok (.trap 1 0x42) ∧
  decode 0xC0030002 none = .ok (.loop 3 2) ∧
  decode 0xD605_0200 none = .ok (.getc 0 5 .gtc) ∧
  decode 0xE2070830 none = .ok (.dlaunch ⟨0, 7, 2, 3⟩) ∧
  decode 0xCC000028 none = .ok (.fence 0 .gang .acqRel false)

/-- R17 to R32, R248, R249: the decoder reads back every well-formed unit from its words, whatever its operands. -/
def Obligations.DecodingReadsBackEveryUnit : Prop :=
  ∀ i : Instr, i.WellFormed → i.isUnit = true → decodeWords (encode i) = .ok i

/-- R83, R316, R355, R361 (what the spec leaves unsaid of reset is the model's own choice, logs 1 and 2): a team starts with its
registers full and zero, predicates false, join records and walkers empty, stacks empty,
flags clear, as one arm of all its lanes; the part starts in Stage A with PWRCAP 3,000 and FTHRESH 8, and memory in its canonical
form. -/
def Obligations.ResetAndTeamStart : Prop :=
  (∀ (g : TeamGeom) (pc vec seed : Word) (chip : Nat), let t := Team.start g pc vec seed chip
    (∀ r, t.vMark r = .full ∧ t.gMark r = .full ∧ t.greg r = 0 ∧ ∀ L, (t.lane L).reg r = 0) ∧
    (∀ p, p ≠ 0 → t.qpred p = false ∧ ∀ L, (t.lane L).pred p = false) ∧
    (∀ j, (t.join j).pending = 0 ∧ (t.join j).parkedT = 0 ∧ (t.join j).parkedF = 0 ∧ (t.join j).pc = none) ∧
    (∀ w, t.walker? w = none) ∧
    (∀ L, (t.lane L).fpctl = 0 ∧ (t.lane L).fpflags = 0) ∧
    t.engfail = false ∧ t.nolane = false ∧ t.lostjoin = false ∧ t.armF = none ∧ t.trap.vec = vec ∧
    ∃ a, t.armT = some a ∧ a.pc = pc ∧ a.active = firstLanes g.lanes ∧ a.loops = [] ∧ a.stack = [] ∧ a.wait = .ready ∧
      a.inHandler = false) ∧
  State.reset.regRead 0x20 = 3000 ∧ State.reset.regRead 0 = 1 ∧ (State.reset.bar0 0x300040).extractLsb' 0 4 = 8 ∧
  State.reset.MemCanonical ∧ State.reset.alloc.teams = [] ∧ State.reset.sched.gtc = 0

/-- Memory keeps its canonical form (log 2): keys strictly rising, no byte listed that equals what an unlisted byte reads as. An
invariant of the model's own memory. -/
def Obligations.EveryStepKeepsMemoryCanonical : Prop :=
  ∀ s s' : State, s.MemCanonical → step s = .next s' → s'.MemCanonical

end
end

