-- ==== Sys2Proof/Laws/Store.lean ====
section
/-! SUPPORT. Sparse tables and memory: read after write, and the canonical form kept by every operation. -/

namespace Sys2Proof.Machine

variable {α : Type}

theorem sget_sdel_same (d : α) (m : Store α) (k : Nat) : sget d (sdel m k) k = d := by
  induction m with
  | nil => rfl
  | cons x r ih =>
    unfold sdel
    split
    · exact ih
    · next h => simp [sget, h, ih]

theorem sget_sdel_other (d : α) (m : Store α) (k j : Nat) (h : j ≠ k) : sget d (sdel m k) j = sget d m j := by
  induction m with
  | nil => rfl
  | cons x r ih =>
    unfold sdel
    split
    · next hk => rw [ih]; simp [sget, ← hk, h]
    · simp [sget, ih]

theorem sget_sins_same (d : α) (m : Store α) (k : Nat) (v : α) (h : ∀ x ∈ m, x.1 ≠ k) : sget d (sins m k v) k = v := by
  induction m with
  | nil => simp [sins, sget]
  | cons x r ih =>
    unfold sins
    split
    · simp [sget]
    · have hx : k ≠ x.1 := fun e => h x (by simp) e.symm
      simp [sget, hx, ih (fun y hy => h y (by simp [hy]))]

theorem sget_sins_other (d : α) (m : Store α) (k j : Nat) (v : α) (h : j ≠ k) : sget d (sins m k v) j = sget d m j := by
  induction m with
  | nil => simp [sins, sget, h]
  | cons x r ih =>
    unfold sins
    split
    · simp [sget, h]
    · simp [sget, ih]

theorem sdel_absent (m : Store α) (k : Nat) : ∀ x ∈ sdel m k, x.1 ≠ k := by
  induction m with
  | nil => simp [sdel]
  | cons x r ih =>
    unfold sdel
    split
    · exact ih
    · next hk =>
      intro y hy
      rcases List.mem_cons.mp hy with rfl | hy
      · exact fun e => hk e.symm
      · exact ih y hy

theorem sdel_of_absent (m : Store α) (k : Nat) (h : ∀ x ∈ m, x.1 ≠ k) : sdel m k = m := by
  induction m with
  | nil => rfl
  | cons x r ih =>
    have hx : ¬ k = x.1 := fun e => h x (by simp) e.symm
    simp [sdel, hx, ih (fun y hy => h y (by simp [hy]))]

theorem sdel_sins (m : Store α) (k : Nat) (v : α) : sdel (sins m k v) k = sdel m k := by
  induction m with
  | nil => simp [sins, sdel]
  | cons x r ih =>
    unfold sins
    split
    · simp [sdel]
    · simp [sdel, ih]

theorem mem_sdel (m : Store α) (k : Nat) (x : Nat × α) (h : x ∈ sdel m k) : x ∈ m := by
  induction m with
  | nil => simp [sdel] at h
  | cons y r ih =>
    unfold sdel at h
    split at h
    · exact List.mem_cons_of_mem _ (ih h)
    · rcases List.mem_cons.mp h with rfl | h
      · simp
      · exact List.mem_cons_of_mem _ (ih h)

theorem mem_sins (m : Store α) (k : Nat) (v : α) (x : Nat × α) (h : x ∈ sins m k v) : x = (k, v) ∨ x ∈ m := by
  induction m with
  | nil => simpa [sins] using h
  | cons y r ih =>
    unfold sins at h
    split at h
    · simpa using h
    · rcases List.mem_cons.mp h with rfl | h
      · exact .inr (by simp)
      · rcases ih h with h | h
        · exact .inl h
        · exact .inr (List.mem_cons_of_mem _ h)

variable [DecidableEq α]

/-- A table reads back what was written. -/
@[simp] theorem sget_sset_same (d : α) (m : Store α) (k : Nat) (v : α) : sget d (sset d m k v) k = v := by
  unfold sset
  split
  · next h => rw [sget_sdel_same, h]
  · exact sget_sins_same d _ k v (sdel_absent m k)

/-- A write leaves every other key alone. -/
theorem sget_sset_other (d : α) (m : Store α) (k j : Nat) (v : α) (h : j ≠ k) : sget d (sset d m k v) j = sget d m j := by
  unfold sset
  split
  · exact sget_sdel_other d m k j h
  · rw [sget_sins_other d _ k j v h, sget_sdel_other d m k j h]

theorem sget_sset (d : α) (m : Store α) (k j : Nat) (v : α) :
    sget d (sset d m k v) j = if j = k then v else sget d m j := by
  split
  · next h => rw [h, sget_sset_same]
  · next h => exact sget_sset_other d m k j v h

/-- The last of two writes of one key stands. -/
@[simp] theorem sset_sset_same (d : α) (m : Store α) (k : Nat) (v w : α) : sset d (sset d m k v) k w = sset d m k w := by
  have e : sdel (sset d m k v) k = sdel m k := by
    unfold sset
    split
    · exact sdel_of_absent _ k (sdel_absent m k)
    · rw [sdel_sins, sdel_of_absent _ k (sdel_absent m k)]
  show (if w = d then sdel (sset d m k v) k else sins (sdel (sset d m k v) k) k w) = sset d m k w
  rw [e]
  rfl

/-! ### The canonical form -/

theorem swf_tail (d : α) (x : Nat × α) (r : Store α) (h : swf d (x :: r) = true) : swf d r = true := by
  simp [swf] at h
  exact h.2

theorem swf_head (d : α) (k : Nat) (v : α) (r : Store α) (h : swf d ((k, v) :: r) = true) : v ≠ d := by
  simp [swf] at h
  exact h.1.1

/-- Every key after the head of a canonical table is larger. -/
theorem swf_lt (d : α) (k : Nat) (v : α) (r : Store α) (h : swf d ((k, v) :: r) = true) : ∀ x ∈ r, k < x.1 := by
  induction r generalizing k v with
  | nil => simp
  | cons y r ih =>
    have h2 : k < y.1 := by simp [swf] at h; exact h.1.2
    have h3 := ih y.1 y.2 (swf_tail d _ _ h)
    intro x hx
    rcases List.mem_cons.mp hx with rfl | hx
    · exact h2
    · exact Nat.lt_trans h2 (h3 x hx)

theorem swf_cons (d : α) (k : Nat) (v : α) (r : Store α) (hv : v ≠ d) (hr : swf d r = true) (hk : ∀ x ∈ r, k < x.1) :
    swf d ((k, v) :: r) = true := by
  cases r with
  | nil => simp [swf, hv]
  | cons y r =>
    have := hk y (by simp)
    simp only [swf, Bool.and_eq_true, decide_eq_true_eq] at hr ⊢
    exact ⟨⟨hv, this⟩, hr⟩

theorem sdel_swf (d : α) (m : Store α) (k : Nat) (h : swf d m = true) : swf d (sdel m k) = true := by
  induction m with
  | nil => exact h
  | cons x r ih =>
    unfold sdel
    split
    · exact ih (swf_tail d _ _ h)
    · exact swf_cons d _ _ _ (swf_head d _ _ _ h) (ih (swf_tail d _ _ h))
        (fun y hy => swf_lt d _ _ _ h y (mem_sdel r k y hy))

theorem sins_swf (d : α) (m : Store α) (k : Nat) (v : α) (hv : v ≠ d) (h : swf d m = true) (ha : ∀ x ∈ m, x.1 ≠ k) :
    swf d (sins m k v) = true := by
  induction m with
  | nil => simp [sins, swf, hv]
  | cons x r ih =>
    have hx := ha x (by simp)
    have hlt := swf_lt d _ _ _ h
    unfold sins
    split
    · next hk =>
      refine swf_cons d _ _ _ hv h (fun y hy => ?_)
      rcases List.mem_cons.mp hy with rfl | hy
      · exact hk
      · exact Nat.lt_trans hk (hlt y hy)
    · next hk =>
      refine swf_cons d _ _ _ (swf_head d _ _ _ h) (ih (swf_tail d _ _ h) (fun y hy => ha y (by simp [hy]))) (fun y hy => ?_)
      rcases mem_sins r k v y hy with rfl | hy
      · simp only; omega
      · exact hlt y hy

/-- A write keeps the canonical form. -/
theorem sset_swf (d : α) (m : Store α) (k : Nat) (v : α) (h : swf d m = true) : swf d (sset d m k v) = true := by
  unfold sset
  split
  · exact sdel_swf d m k h
  · next hv => exact sins_swf d _ k v hv (sdel_swf d m k h) (sdel_absent m k)

/-- Leaving entries out keeps the canonical form. -/
theorem filter_swf (d : α) (m : Store α) (p : Nat × α → Bool) (h : swf d m = true) : swf d (m.filter p) = true := by
  induction m with
  | nil => exact h
  | cons x r ih =>
    have hr := ih (swf_tail d _ _ h)
    by_cases hp : p x = true
    · rw [List.filter_cons_of_pos hp]
      exact swf_cons d _ _ _ (swf_head d _ _ _ h) hr
        (fun y hy => swf_lt d _ _ _ h y (List.mem_of_mem_filter hy))
    · rw [List.filter_cons_of_neg hp]
      exact hr

/-! ### Memory -/

@[simp] theorem mem_get_put_same (m : Memory) (k : Nat) (b : Byte) : Memory.get (Memory.put m k b) k = b :=
  sget_sset_same 0 m k b

theorem mem_get_put_other (m : Memory) (k j : Nat) (b : Byte) (h : j ≠ k) :
    Memory.get (Memory.put m k b) j = Memory.get m j := sget_sset_other 0 m k j b h

theorem mem_put_wf (m : Memory) (k : Nat) (b : Byte) (h : Memory.wf m = true) : Memory.wf (Memory.put m k b) = true :=
  sset_swf 0 m k b h

theorem mem_putAll_wf (m : Memory) (cells : List (Nat × Byte)) (h : Memory.wf m = true) :
    Memory.wf (Memory.putAll m cells) = true := by
  induction cells generalizing m with
  | nil => exact h
  | cons c r ih => exact ih _ (mem_put_wf m c.1 c.2 h)

/-- A byte that no cell names is as before. -/
theorem mem_get_putAll_other (m : Memory) (cells : List (Nat × Byte)) (k : Nat) (h : ∀ c ∈ cells, c.1 ≠ k) :
    Memory.get (Memory.putAll m cells) k = Memory.get m k := by
  induction cells generalizing m with
  | nil => rfl
  | cons c r ih =>
    have hc : k ≠ c.1 := fun e => h c (by simp) e.symm
    have hr : ∀ x ∈ r, x.1 ≠ k := fun x hx => h x (by simp [hx])
    exact (ih _ hr).trans (mem_get_put_other m c.1 k c.2 hc)

/-- A byte that a cell names, and no later one, reads as that cell. -/
theorem mem_get_putAll_last (m : Memory) (cells rest : List (Nat × Byte)) (k : Nat) (b : Byte)
    (h : ∀ c ∈ rest, c.1 ≠ k) : Memory.get (Memory.putAll m (cells ++ (k, b) :: rest)) k = b := by
  induction cells generalizing m with
  | nil => exact (mem_get_putAll_other _ rest k h).trans (mem_get_put_same m k b)
  | cons c r ih => exact ih _

end Sys2Proof.Machine
end

