-- ==== Sys2Proof/Laws/State.lean ====
section
/-! SUPPORT. What each update of the state, of a team and of a lane leaves of every field. -/

namespace Sys2Proof.Machine

/-! ### Updates of the state -/

section
variable (s : State) (t : Nat) (x : Team)
@[simp] theorem setTeam_sched : (s.setTeam t x).sched = s.sched := rfl
@[simp] theorem setTeam_mem : (s.setTeam t x).mem = s.mem := rfl
@[simp] theorem setTeam_coh : (s.setTeam t x).coh = s.coh := rfl
@[simp] theorem setTeam_eng : (s.setTeam t x).eng = s.eng := rfl
@[simp] theorem setTeam_pod : (s.setTeam t x).pod = s.pod := rfl
@[simp] theorem setTeam_atrium : (s.setTeam t x).atrium = s.atrium := rfl
@[simp] theorem setTeam_easel : (s.setTeam t x).easel = s.easel := rfl
@[simp] theorem setTeam_mgmt : (s.setTeam t x).mgmt = s.mgmt := rfl
@[simp] theorem setTeam_out : (s.setTeam t x).out = s.out := rfl
@[simp] theorem setTeam_launches : (s.setTeam t x).alloc.launches = s.alloc.launches := rfl
@[simp] theorem setTeam_insts : (s.setTeam t x).alloc.insts = s.alloc.insts := rfl
@[simp] theorem setTeam_placed : (s.setTeam t x).alloc.placed = s.alloc.placed := rfl
@[simp] theorem setTeam_lastRing : (s.setTeam t x).alloc.lastRing = s.alloc.lastRing := rfl
@[simp] theorem setTeam_aborts : (s.setTeam t x).alloc.aborts = s.alloc.aborts := rfl
end

section
variable (s : State) (t : Nat)
@[simp] theorem delTeam_sched : (s.delTeam t).sched = s.sched := rfl
@[simp] theorem delTeam_mem : (s.delTeam t).mem = s.mem := rfl
@[simp] theorem delTeam_coh : (s.delTeam t).coh = s.coh := rfl
@[simp] theorem delTeam_eng : (s.delTeam t).eng = s.eng := rfl
@[simp] theorem delTeam_pod : (s.delTeam t).pod = s.pod := rfl
@[simp] theorem delTeam_atrium : (s.delTeam t).atrium = s.atrium := rfl
@[simp] theorem delTeam_easel : (s.delTeam t).easel = s.easel := rfl
@[simp] theorem delTeam_mgmt : (s.delTeam t).mgmt = s.mgmt := rfl
@[simp] theorem delTeam_out : (s.delTeam t).out = s.out := rfl
@[simp] theorem delTeam_launches : (s.delTeam t).alloc.launches = s.alloc.launches := rfl
@[simp] theorem delTeam_insts : (s.delTeam t).alloc.insts = s.alloc.insts := rfl
@[simp] theorem delTeam_placed : (s.delTeam t).alloc.placed = s.alloc.placed := rfl
@[simp] theorem delTeam_lastRing : (s.delTeam t).alloc.lastRing = s.alloc.lastRing := rfl
@[simp] theorem delTeam_aborts : (s.delTeam t).alloc.aborts = s.alloc.aborts := rfl
end

section
variable (s : State) (l : Nat) (x : Option Launch)
@[simp] theorem setLaunch_sched : (s.setLaunch l x).sched = s.sched := rfl
@[simp] theorem setLaunch_mem : (s.setLaunch l x).mem = s.mem := rfl
@[simp] theorem setLaunch_coh : (s.setLaunch l x).coh = s.coh := rfl
@[simp] theorem setLaunch_eng : (s.setLaunch l x).eng = s.eng := rfl
@[simp] theorem setLaunch_pod : (s.setLaunch l x).pod = s.pod := rfl
@[simp] theorem setLaunch_atrium : (s.setLaunch l x).atrium = s.atrium := rfl
@[simp] theorem setLaunch_easel : (s.setLaunch l x).easel = s.easel := rfl
@[simp] theorem setLaunch_mgmt : (s.setLaunch l x).mgmt = s.mgmt := rfl
@[simp] theorem setLaunch_out : (s.setLaunch l x).out = s.out := rfl
@[simp] theorem setLaunch_teams : (s.setLaunch l x).alloc.teams = s.alloc.teams := rfl
@[simp] theorem setLaunch_insts : (s.setLaunch l x).alloc.insts = s.alloc.insts := rfl
@[simp] theorem setLaunch_placed : (s.setLaunch l x).alloc.placed = s.alloc.placed := rfl
@[simp] theorem setLaunch_lastRing : (s.setLaunch l x).alloc.lastRing = s.alloc.lastRing := rfl
@[simp] theorem setLaunch_aborts : (s.setLaunch l x).alloc.aborts = s.alloc.aborts := rfl
end

section
variable (s : State) (m : OutMsg)
@[simp] theorem emit_sched : (s.emit m).sched = s.sched := rfl
@[simp] theorem emit_mem : (s.emit m).mem = s.mem := rfl
@[simp] theorem emit_alloc : (s.emit m).alloc = s.alloc := rfl
@[simp] theorem emit_coh : (s.emit m).coh = s.coh := rfl
@[simp] theorem emit_eng : (s.emit m).eng = s.eng := rfl
@[simp] theorem emit_pod : (s.emit m).pod = s.pod := rfl
@[simp] theorem emit_atrium : (s.emit m).atrium = s.atrium := rfl
@[simp] theorem emit_easel : (s.emit m).easel = s.easel := rfl
@[simp] theorem emit_mgmt : (s.emit m).mgmt = s.mgmt := rfl
end

section
variable (s : State) (off : Nat) (v : Word)
@[simp] theorem setBar0_sched : (s.setBar0 off v).sched = s.sched := rfl
@[simp] theorem setBar0_mem : (s.setBar0 off v).mem = s.mem := rfl
@[simp] theorem setBar0_alloc : (s.setBar0 off v).alloc = s.alloc := rfl
@[simp] theorem setBar0_coh : (s.setBar0 off v).coh = s.coh := rfl
@[simp] theorem setBar0_eng : (s.setBar0 off v).eng = s.eng := rfl
@[simp] theorem setBar0_pod : (s.setBar0 off v).pod = s.pod := rfl
@[simp] theorem setBar0_atrium : (s.setBar0 off v).atrium = s.atrium := rfl
@[simp] theorem setBar0_easel : (s.setBar0 off v).easel = s.easel := rfl
@[simp] theorem setBar0_out : (s.setBar0 off v).out = s.out := rfl
end

section
variable (s : State) (c : List (Nat × Byte))
@[simp] theorem putCells_sched : (s.putCells c).sched = s.sched := rfl
@[simp] theorem putCells_alloc : (s.putCells c).alloc = s.alloc := rfl
@[simp] theorem putCells_coh : (s.putCells c).coh = s.coh := rfl
@[simp] theorem putCells_eng : (s.putCells c).eng = s.eng := rfl
@[simp] theorem putCells_pod : (s.putCells c).pod = s.pod := rfl
@[simp] theorem putCells_atrium : (s.putCells c).atrium = s.atrium := rfl
@[simp] theorem putCells_easel : (s.putCells c).easel = s.easel := rfl
@[simp] theorem putCells_mgmt : (s.putCells c).mgmt = s.mgmt := rfl
@[simp] theorem putCells_out : (s.putCells c).out = s.out := rfl
end

section
variable (s : State) (c sec : Nat) (x : Option L1Sec)
@[simp] theorem setL1_sched : (s.setL1 c sec x).sched = s.sched := rfl
@[simp] theorem setL1_mem : (s.setL1 c sec x).mem = s.mem := rfl
@[simp] theorem setL1_alloc : (s.setL1 c sec x).alloc = s.alloc := rfl
@[simp] theorem setL1_eng : (s.setL1 c sec x).eng = s.eng := rfl
@[simp] theorem setL1_pod : (s.setL1 c sec x).pod = s.pod := rfl
@[simp] theorem setL1_atrium : (s.setL1 c sec x).atrium = s.atrium := rfl
@[simp] theorem setL1_easel : (s.setL1 c sec x).easel = s.easel := rfl
@[simp] theorem setL1_mgmt : (s.setL1 c sec x).mgmt = s.mgmt := rfl
@[simp] theorem setL1_out : (s.setL1 c sec x).out = s.out := rfl
end

section
variable (s : State) (sec : Nat) (d : DirEnt)
@[simp] theorem setDir_sched : (s.setDir sec d).sched = s.sched := rfl
@[simp] theorem setDir_mem : (s.setDir sec d).mem = s.mem := rfl
@[simp] theorem setDir_alloc : (s.setDir sec d).alloc = s.alloc := rfl
@[simp] theorem setDir_eng : (s.setDir sec d).eng = s.eng := rfl
@[simp] theorem setDir_pod : (s.setDir sec d).pod = s.pod := rfl
@[simp] theorem setDir_atrium : (s.setDir sec d).atrium = s.atrium := rfl
@[simp] theorem setDir_easel : (s.setDir sec d).easel = s.easel := rfl
@[simp] theorem setDir_mgmt : (s.setDir sec d).mgmt = s.mgmt := rfl
@[simp] theorem setDir_out : (s.setDir sec d).out = s.out := rfl
end

section
variable (s : State) (k : Nat) (b : Barrier)
@[simp] theorem setBarrier_sched : (s.setBarrier k b).sched = s.sched := rfl
@[simp] theorem setBarrier_mem : (s.setBarrier k b).mem = s.mem := rfl
@[simp] theorem setBarrier_alloc : (s.setBarrier k b).alloc = s.alloc := rfl
@[simp] theorem setBarrier_coh : (s.setBarrier k b).coh = s.coh := rfl
@[simp] theorem setBarrier_pod : (s.setBarrier k b).pod = s.pod := rfl
@[simp] theorem setBarrier_atrium : (s.setBarrier k b).atrium = s.atrium := rfl
@[simp] theorem setBarrier_easel : (s.setBarrier k b).easel = s.easel := rfl
@[simp] theorem setBarrier_mgmt : (s.setBarrier k b).mgmt = s.mgmt := rfl
@[simp] theorem setBarrier_out : (s.setBarrier k b).out = s.out := rfl
end

section
variable (s : State) (k : Nat) (x : Option Tile)
@[simp] theorem setTile_sched : (s.setTile k x).sched = s.sched := rfl
@[simp] theorem setTile_mem : (s.setTile k x).mem = s.mem := rfl
@[simp] theorem setTile_alloc : (s.setTile k x).alloc = s.alloc := rfl
@[simp] theorem setTile_coh : (s.setTile k x).coh = s.coh := rfl
@[simp] theorem setTile_pod : (s.setTile k x).pod = s.pod := rfl
@[simp] theorem setTile_atrium : (s.setTile k x).atrium = s.atrium := rfl
@[simp] theorem setTile_easel : (s.setTile k x).easel = s.easel := rfl
@[simp] theorem setTile_mgmt : (s.setTile k x).mgmt = s.mgmt := rfl
@[simp] theorem setTile_out : (s.setTile k x).out = s.out := rfl
end

section
variable (s : State) (c : Nat) (x : Option Cmd)
@[simp] theorem setCmd_sched : (s.setCmd c x).sched = s.sched := rfl
@[simp] theorem setCmd_mem : (s.setCmd c x).mem = s.mem := rfl
@[simp] theorem setCmd_alloc : (s.setCmd c x).alloc = s.alloc := rfl
@[simp] theorem setCmd_coh : (s.setCmd c x).coh = s.coh := rfl
@[simp] theorem setCmd_pod : (s.setCmd c x).pod = s.pod := rfl
@[simp] theorem setCmd_atrium : (s.setCmd c x).atrium = s.atrium := rfl
@[simp] theorem setCmd_easel : (s.setCmd c x).easel = s.easel := rfl
@[simp] theorem setCmd_mgmt : (s.setCmd c x).mgmt = s.mgmt := rfl
@[simp] theorem setCmd_out : (s.setCmd c x).out = s.out := rfl
end

section
variable (s : State) (i : Nat) (x : Option Inst)
@[simp] theorem setInst_sched : (s.setInst i x).sched = s.sched := rfl
@[simp] theorem setInst_mem : (s.setInst i x).mem = s.mem := rfl
@[simp] theorem setInst_coh : (s.setInst i x).coh = s.coh := rfl
@[simp] theorem setInst_eng : (s.setInst i x).eng = s.eng := rfl
@[simp] theorem setInst_pod : (s.setInst i x).pod = s.pod := rfl
@[simp] theorem setInst_atrium : (s.setInst i x).atrium = s.atrium := rfl
@[simp] theorem setInst_easel : (s.setInst i x).easel = s.easel := rfl
@[simp] theorem setInst_mgmt : (s.setInst i x).mgmt = s.mgmt := rfl
@[simp] theorem setInst_out : (s.setInst i x).out = s.out := rfl
end

section
variable (s : State) (i : Nat) (x : Site)
@[simp] theorem setSite_sched : (s.setSite i x).sched = s.sched := rfl
@[simp] theorem setSite_mem : (s.setSite i x).mem = s.mem := rfl
@[simp] theorem setSite_alloc : (s.setSite i x).alloc = s.alloc := rfl
@[simp] theorem setSite_coh : (s.setSite i x).coh = s.coh := rfl
@[simp] theorem setSite_eng : (s.setSite i x).eng = s.eng := rfl
@[simp] theorem setSite_pod : (s.setSite i x).pod = s.pod := rfl
@[simp] theorem setSite_atrium : (s.setSite i x).atrium = s.atrium := rfl
@[simp] theorem setSite_mgmt : (s.setSite i x).mgmt = s.mgmt := rfl
@[simp] theorem setSite_out : (s.setSite i x).out = s.out := rfl
end

section
variable (s : State) (k : Nat) (r : Option Remote)
@[simp] theorem setRemote_sched : (s.setRemote k r).sched = s.sched := rfl
@[simp] theorem setRemote_mem : (s.setRemote k r).mem = s.mem := rfl
@[simp] theorem setRemote_alloc : (s.setRemote k r).alloc = s.alloc := rfl
@[simp] theorem setRemote_coh : (s.setRemote k r).coh = s.coh := rfl
@[simp] theorem setRemote_eng : (s.setRemote k r).eng = s.eng := rfl
@[simp] theorem setRemote_atrium : (s.setRemote k r).atrium = s.atrium := rfl
@[simp] theorem setRemote_easel : (s.setRemote k r).easel = s.easel := rfl
@[simp] theorem setRemote_mgmt : (s.setRemote k r).mgmt = s.mgmt := rfl
@[simp] theorem setRemote_out : (s.setRemote k r).out = s.out := rfl
end

/-! ### Teams and launches by name -/

@[simp] theorem team?_setTeam_same (s : State) (t : Nat) (x : Team) : (s.setTeam t x).team? t = some x :=
  sget_sset_same none s.alloc.teams t (some x)

theorem team?_setTeam_other (s : State) (t j : Nat) (x : Team) (h : j ≠ t) : (s.setTeam t x).team? j = s.team? j :=
  sget_sset_other none s.alloc.teams t j (some x) h

@[simp] theorem launch?_setTeam (s : State) (t l : Nat) (x : Team) : (s.setTeam t x).launch? l = s.launch? l := rfl

@[simp] theorem setTeam_setTeam (s : State) (t : Nat) (x y : Team) : (s.setTeam t x).setTeam t y = s.setTeam t y := by
  simp [State.setTeam]

@[simp] theorem modTeam_setTeam (s : State) (t : Nat) (x : Team) (g : Team → Team) :
    (s.setTeam t x).modTeam t g = s.setTeam t (g x) := by
  simp [State.modTeam]

@[simp] theorem modArm_setTeam (s : State) (t : Nat) (x : Team) (f : Bool) (g : Arm → Arm) :
    (s.setTeam t x).modArm t f g = s.setTeam t (x.modArm f g) := by
  simp [State.modArm]

theorem modTeam_of_team? (s : State) (t : Nat) (x : Team) (g : Team → Team) (h : s.team? t = some x) :
    s.modTeam t g = s.setTeam t (g x) := by
  simp [State.modTeam, h]

/-! ### Arms of a team -/

@[simp] theorem arm?_setArm_same (t : Team) (f : Bool) (a : Option Arm) : (t.setArm f a).arm? f = a := by
  cases f <;> rfl

@[simp] theorem arm?_setArm_not (t : Team) (f : Bool) (a : Option Arm) : (t.setArm (!f) a).arm? f = t.arm? f := by
  cases f <;> rfl

section
variable (t : Team) (f : Bool) (a : Option Arm) (h : Arm → Arm)
@[simp] theorem setArm_geom : (t.setArm f a).geom = t.geom := by cases f <;> rfl
@[simp] theorem modArm_geom : (t.modArm f h).geom = t.geom := setArm_geom t f _
@[simp] theorem setArm_live : (t.setArm f a).live = t.live := by cases f <;> rfl
@[simp] theorem modArm_live : (t.modArm f h).live = t.live := setArm_live t f _
@[simp] theorem setArm_lanes : (t.setArm f a).lanes = t.lanes := by cases f <;> rfl
@[simp] theorem modArm_lanes : (t.modArm f h).lanes = t.lanes := setArm_lanes t f _
@[simp] theorem setArm_g : (t.setArm f a).g = t.g := by cases f <;> rfl
@[simp] theorem modArm_g : (t.modArm f h).g = t.g := setArm_g t f _
@[simp] theorem setArm_q : (t.setArm f a).q = t.q := by cases f <;> rfl
@[simp] theorem modArm_q : (t.modArm f h).q = t.q := setArm_q t f _
@[simp] theorem setArm_vmark : (t.setArm f a).vmark = t.vmark := by cases f <;> rfl
@[simp] theorem modArm_vmark : (t.modArm f h).vmark = t.vmark := setArm_vmark t f _
@[simp] theorem setArm_gmark : (t.setArm f a).gmark = t.gmark := by cases f <;> rfl
@[simp] theorem modArm_gmark : (t.modArm f h).gmark = t.gmark := setArm_gmark t f _
@[simp] theorem setArm_joins : (t.setArm f a).joins = t.joins := by cases f <;> rfl
@[simp] theorem modArm_joins : (t.modArm f h).joins = t.joins := setArm_joins t f _
@[simp] theorem setArm_nextInst : (t.setArm f a).nextInst = t.nextInst := by cases f <;> rfl
@[simp] theorem modArm_nextInst : (t.modArm f h).nextInst = t.nextInst := setArm_nextInst t f _
@[simp] theorem setArm_walkers : (t.setArm f a).walkers = t.walkers := by cases f <;> rfl
@[simp] theorem modArm_walkers : (t.modArm f h).walkers = t.walkers := setArm_walkers t f _
@[simp] theorem setArm_slots : (t.setArm f a).slots = t.slots := by cases f <;> rfl
@[simp] theorem modArm_slots : (t.modArm f h).slots = t.slots := setArm_slots t f _
@[simp] theorem setArm_trap : (t.setArm f a).trap = t.trap := by cases f <;> rfl
@[simp] theorem modArm_trap : (t.modArm f h).trap = t.trap := setArm_trap t f _
@[simp] theorem setArm_srseed : (t.setArm f a).srseed = t.srseed := by cases f <;> rfl
@[simp] theorem modArm_srseed : (t.modArm f h).srseed = t.srseed := setArm_srseed t f _
@[simp] theorem setArm_engfail : (t.setArm f a).engfail = t.engfail := by cases f <;> rfl
@[simp] theorem modArm_engfail : (t.modArm f h).engfail = t.engfail := setArm_engfail t f _
@[simp] theorem setArm_nolane : (t.setArm f a).nolane = t.nolane := by cases f <;> rfl
@[simp] theorem modArm_nolane : (t.modArm f h).nolane = t.nolane := setArm_nolane t f _
@[simp] theorem setArm_lostjoin : (t.setArm f a).lostjoin = t.lostjoin := by cases f <;> rfl
@[simp] theorem modArm_lostjoin : (t.modArm f h).lostjoin = t.lostjoin := setArm_lostjoin t f _
@[simp] theorem setArm_engcode : (t.setArm f a).engcode = t.engcode := by cases f <;> rfl
@[simp] theorem modArm_engcode : (t.modArm f h).engcode = t.engcode := setArm_engcode t f _
@[simp] theorem setArm_batchNo : (t.setArm f a).batchNo = t.batchNo := by cases f <;> rfl
@[simp] theorem modArm_batchNo : (t.modArm f h).batchNo = t.batchNo := setArm_batchNo t f _
@[simp] theorem setArm_batches : (t.setArm f a).batches = t.batches := by cases f <;> rfl
@[simp] theorem modArm_batches : (t.modArm f h).batches = t.batches := setArm_batches t f _
@[simp] theorem setArm_conv : (t.setArm f a).conv = t.conv := by cases f <;> rfl
@[simp] theorem modArm_conv : (t.modArm f h).conv = t.conv := setArm_conv t f _
@[simp] theorem setArm_batchGen : (t.setArm f a).batchGen = t.batchGen := by cases f <;> rfl
@[simp] theorem modArm_batchGen : (t.modArm f h).batchGen = t.batchGen := setArm_batchGen t f _
@[simp] theorem setArm_peers : (t.setArm f a).peers = t.peers := by cases f <;> rfl
@[simp] theorem modArm_peers : (t.modArm f h).peers = t.peers := setArm_peers t f _
@[simp] theorem setArm_closes : (t.setArm f a).closes = t.closes := by cases f <;> rfl
@[simp] theorem modArm_closes : (t.modArm f h).closes = t.closes := setArm_closes t f _
@[simp] theorem setArm_barPhase : (t.setArm f a).barPhase = t.barPhase := by cases f <;> rfl
@[simp] theorem modArm_barPhase : (t.modArm f h).barPhase = t.barPhase := setArm_barPhase t f _
@[simp] theorem setArm_collSeq : (t.setArm f a).collSeq = t.collSeq := by cases f <;> rfl
@[simp] theorem modArm_collSeq : (t.modArm f h).collSeq = t.collSeq := setArm_collSeq t f _
end

section
variable (t : Team) (r : Nat) (x : Word)
@[simp] theorem setG_armT : (t.setG r x).armT = t.armT := rfl
@[simp] theorem setG_armF : (t.setG r x).armF = t.armF := rfl
@[simp] theorem setG_geom : (t.setG r x).geom = t.geom := rfl
@[simp] theorem setG_live : (t.setG r x).live = t.live := rfl
@[simp] theorem setG_lanes : (t.setG r x).lanes = t.lanes := rfl
@[simp] theorem setG_q : (t.setG r x).q = t.q := rfl
@[simp] theorem setG_vmark : (t.setG r x).vmark = t.vmark := rfl
@[simp] theorem setG_gmark : (t.setG r x).gmark = t.gmark := rfl
@[simp] theorem setG_joins : (t.setG r x).joins = t.joins := rfl
@[simp] theorem setG_nextInst : (t.setG r x).nextInst = t.nextInst := rfl
@[simp] theorem setG_walkers : (t.setG r x).walkers = t.walkers := rfl
@[simp] theorem setG_slots : (t.setG r x).slots = t.slots := rfl
@[simp] theorem setG_trap : (t.setG r x).trap = t.trap := rfl
@[simp] theorem setG_srseed : (t.setG r x).srseed = t.srseed := rfl
@[simp] theorem setG_engfail : (t.setG r x).engfail = t.engfail := rfl
@[simp] theorem setG_nolane : (t.setG r x).nolane = t.nolane := rfl
@[simp] theorem setG_lostjoin : (t.setG r x).lostjoin = t.lostjoin := rfl
@[simp] theorem setG_engcode : (t.setG r x).engcode = t.engcode := rfl
@[simp] theorem setG_batchNo : (t.setG r x).batchNo = t.batchNo := rfl
@[simp] theorem setG_batches : (t.setG r x).batches = t.batches := rfl
@[simp] theorem setG_conv : (t.setG r x).conv = t.conv := rfl
@[simp] theorem setG_batchGen : (t.setG r x).batchGen = t.batchGen := rfl
@[simp] theorem setG_peers : (t.setG r x).peers = t.peers := rfl
@[simp] theorem setG_closes : (t.setG r x).closes = t.closes := rfl
@[simp] theorem setG_barPhase : (t.setG r x).barPhase = t.barPhase := rfl
@[simp] theorem setG_collSeq : (t.setG r x).collSeq = t.collSeq := rfl
@[simp] theorem setG_arm? (f : Bool) : (t.setG r x).arm? f = t.arm? f := rfl
end

section
variable (t : Team) (r : Nat) (b : Bool)
@[simp] theorem setQ_armT : (t.setQ r b).armT = t.armT := rfl
@[simp] theorem setQ_armF : (t.setQ r b).armF = t.armF := rfl
@[simp] theorem setQ_geom : (t.setQ r b).geom = t.geom := rfl
@[simp] theorem setQ_live : (t.setQ r b).live = t.live := rfl
@[simp] theorem setQ_lanes : (t.setQ r b).lanes = t.lanes := rfl
@[simp] theorem setQ_g : (t.setQ r b).g = t.g := rfl
@[simp] theorem setQ_vmark : (t.setQ r b).vmark = t.vmark := rfl
@[simp] theorem setQ_gmark : (t.setQ r b).gmark = t.gmark := rfl
@[simp] theorem setQ_joins : (t.setQ r b).joins = t.joins := rfl
@[simp] theorem setQ_nextInst : (t.setQ r b).nextInst = t.nextInst := rfl
@[simp] theorem setQ_walkers : (t.setQ r b).walkers = t.walkers := rfl
@[simp] theorem setQ_slots : (t.setQ r b).slots = t.slots := rfl
@[simp] theorem setQ_trap : (t.setQ r b).trap = t.trap := rfl
@[simp] theorem setQ_srseed : (t.setQ r b).srseed = t.srseed := rfl
@[simp] theorem setQ_engfail : (t.setQ r b).engfail = t.engfail := rfl
@[simp] theorem setQ_nolane : (t.setQ r b).nolane = t.nolane := rfl
@[simp] theorem setQ_lostjoin : (t.setQ r b).lostjoin = t.lostjoin := rfl
@[simp] theorem setQ_engcode : (t.setQ r b).engcode = t.engcode := rfl
@[simp] theorem setQ_batchNo : (t.setQ r b).batchNo = t.batchNo := rfl
@[simp] theorem setQ_batches : (t.setQ r b).batches = t.batches := rfl
@[simp] theorem setQ_conv : (t.setQ r b).conv = t.conv := rfl
@[simp] theorem setQ_batchGen : (t.setQ r b).batchGen = t.batchGen := rfl
@[simp] theorem setQ_peers : (t.setQ r b).peers = t.peers := rfl
@[simp] theorem setQ_closes : (t.setQ r b).closes = t.closes := rfl
@[simp] theorem setQ_barPhase : (t.setQ r b).barPhase = t.barPhase := rfl
@[simp] theorem setQ_collSeq : (t.setQ r b).collSeq = t.collSeq := rfl
@[simp] theorem setQ_arm? (f : Bool) : (t.setQ r b).arm? f = t.arm? f := rfl
end

section
variable (t : Team) (r : Nat) (m : Mark)
@[simp] theorem setVMark_armT : (t.setVMark r m).armT = t.armT := rfl
@[simp] theorem setVMark_armF : (t.setVMark r m).armF = t.armF := rfl
@[simp] theorem setVMark_geom : (t.setVMark r m).geom = t.geom := rfl
@[simp] theorem setVMark_live : (t.setVMark r m).live = t.live := rfl
@[simp] theorem setVMark_lanes : (t.setVMark r m).lanes = t.lanes := rfl
@[simp] theorem setVMark_g : (t.setVMark r m).g = t.g := rfl
@[simp] theorem setVMark_q : (t.setVMark r m).q = t.q := rfl
@[simp] theorem setVMark_gmark : (t.setVMark r m).gmark = t.gmark := rfl
@[simp] theorem setVMark_joins : (t.setVMark r m).joins = t.joins := rfl
@[simp] theorem setVMark_nextInst : (t.setVMark r m).nextInst = t.nextInst := rfl
@[simp] theorem setVMark_walkers : (t.setVMark r m).walkers = t.walkers := rfl
@[simp] theorem setVMark_slots : (t.setVMark r m).slots = t.slots := rfl
@[simp] theorem setVMark_trap : (t.setVMark r m).trap = t.trap := rfl
@[simp] theorem setVMark_srseed : (t.setVMark r m).srseed = t.srseed := rfl
@[simp] theorem setVMark_engfail : (t.setVMark r m).engfail = t.engfail := rfl
@[simp] theorem setVMark_nolane : (t.setVMark r m).nolane = t.nolane := rfl
@[simp] theorem setVMark_lostjoin : (t.setVMark r m).lostjoin = t.lostjoin := rfl
@[simp] theorem setVMark_engcode : (t.setVMark r m).engcode = t.engcode := rfl
@[simp] theorem setVMark_batchNo : (t.setVMark r m).batchNo = t.batchNo := rfl
@[simp] theorem setVMark_batches : (t.setVMark r m).batches = t.batches := rfl
@[simp] theorem setVMark_conv : (t.setVMark r m).conv = t.conv := rfl
@[simp] theorem setVMark_batchGen : (t.setVMark r m).batchGen = t.batchGen := rfl
@[simp] theorem setVMark_peers : (t.setVMark r m).peers = t.peers := rfl
@[simp] theorem setVMark_closes : (t.setVMark r m).closes = t.closes := rfl
@[simp] theorem setVMark_barPhase : (t.setVMark r m).barPhase = t.barPhase := rfl
@[simp] theorem setVMark_collSeq : (t.setVMark r m).collSeq = t.collSeq := rfl
@[simp] theorem setVMark_arm? (f : Bool) : (t.setVMark r m).arm? f = t.arm? f := rfl
end

section
variable (t : Team) (r : Nat) (m : Mark)
@[simp] theorem setGMark_armT : (t.setGMark r m).armT = t.armT := rfl
@[simp] theorem setGMark_armF : (t.setGMark r m).armF = t.armF := rfl
@[simp] theorem setGMark_geom : (t.setGMark r m).geom = t.geom := rfl
@[simp] theorem setGMark_live : (t.setGMark r m).live = t.live := rfl
@[simp] theorem setGMark_lanes : (t.setGMark r m).lanes = t.lanes := rfl
@[simp] theorem setGMark_g : (t.setGMark r m).g = t.g := rfl
@[simp] theorem setGMark_q : (t.setGMark r m).q = t.q := rfl
@[simp] theorem setGMark_vmark : (t.setGMark r m).vmark = t.vmark := rfl
@[simp] theorem setGMark_joins : (t.setGMark r m).joins = t.joins := rfl
@[simp] theorem setGMark_nextInst : (t.setGMark r m).nextInst = t.nextInst := rfl
@[simp] theorem setGMark_walkers : (t.setGMark r m).walkers = t.walkers := rfl
@[simp] theorem setGMark_slots : (t.setGMark r m).slots = t.slots := rfl
@[simp] theorem setGMark_trap : (t.setGMark r m).trap = t.trap := rfl
@[simp] theorem setGMark_srseed : (t.setGMark r m).srseed = t.srseed := rfl
@[simp] theorem setGMark_engfail : (t.setGMark r m).engfail = t.engfail := rfl
@[simp] theorem setGMark_nolane : (t.setGMark r m).nolane = t.nolane := rfl
@[simp] theorem setGMark_lostjoin : (t.setGMark r m).lostjoin = t.lostjoin := rfl
@[simp] theorem setGMark_engcode : (t.setGMark r m).engcode = t.engcode := rfl
@[simp] theorem setGMark_batchNo : (t.setGMark r m).batchNo = t.batchNo := rfl
@[simp] theorem setGMark_batches : (t.setGMark r m).batches = t.batches := rfl
@[simp] theorem setGMark_conv : (t.setGMark r m).conv = t.conv := rfl
@[simp] theorem setGMark_batchGen : (t.setGMark r m).batchGen = t.batchGen := rfl
@[simp] theorem setGMark_peers : (t.setGMark r m).peers = t.peers := rfl
@[simp] theorem setGMark_closes : (t.setGMark r m).closes = t.closes := rfl
@[simp] theorem setGMark_barPhase : (t.setGMark r m).barPhase = t.barPhase := rfl
@[simp] theorem setGMark_collSeq : (t.setGMark r m).collSeq = t.collSeq := rfl
@[simp] theorem setGMark_arm? (f : Bool) : (t.setGMark r m).arm? f = t.arm? f := rfl
end

section
variable (t : Team) (r : Nat) (x : Join)
@[simp] theorem setJoin_armT : (t.setJoin r x).armT = t.armT := rfl
@[simp] theorem setJoin_armF : (t.setJoin r x).armF = t.armF := rfl
@[simp] theorem setJoin_geom : (t.setJoin r x).geom = t.geom := rfl
@[simp] theorem setJoin_live : (t.setJoin r x).live = t.live := rfl
@[simp] theorem setJoin_lanes : (t.setJoin r x).lanes = t.lanes := rfl
@[simp] theorem setJoin_g : (t.setJoin r x).g = t.g := rfl
@[simp] theorem setJoin_q : (t.setJoin r x).q = t.q := rfl
@[simp] theorem setJoin_vmark : (t.setJoin r x).vmark = t.vmark := rfl
@[simp] theorem setJoin_gmark : (t.setJoin r x).gmark = t.gmark := rfl
@[simp] theorem setJoin_nextInst : (t.setJoin r x).nextInst = t.nextInst := rfl
@[simp] theorem setJoin_walkers : (t.setJoin r x).walkers = t.walkers := rfl
@[simp] theorem setJoin_slots : (t.setJoin r x).slots = t.slots := rfl
@[simp] theorem setJoin_trap : (t.setJoin r x).trap = t.trap := rfl
@[simp] theorem setJoin_srseed : (t.setJoin r x).srseed = t.srseed := rfl
@[simp] theorem setJoin_engfail : (t.setJoin r x).engfail = t.engfail := rfl
@[simp] theorem setJoin_nolane : (t.setJoin r x).nolane = t.nolane := rfl
@[simp] theorem setJoin_lostjoin : (t.setJoin r x).lostjoin = t.lostjoin := rfl
@[simp] theorem setJoin_engcode : (t.setJoin r x).engcode = t.engcode := rfl
@[simp] theorem setJoin_batchNo : (t.setJoin r x).batchNo = t.batchNo := rfl
@[simp] theorem setJoin_batches : (t.setJoin r x).batches = t.batches := rfl
@[simp] theorem setJoin_conv : (t.setJoin r x).conv = t.conv := rfl
@[simp] theorem setJoin_batchGen : (t.setJoin r x).batchGen = t.batchGen := rfl
@[simp] theorem setJoin_peers : (t.setJoin r x).peers = t.peers := rfl
@[simp] theorem setJoin_closes : (t.setJoin r x).closes = t.closes := rfl
@[simp] theorem setJoin_barPhase : (t.setJoin r x).barPhase = t.barPhase := rfl
@[simp] theorem setJoin_collSeq : (t.setJoin r x).collSeq = t.collSeq := rfl
@[simp] theorem setJoin_arm? (f : Bool) : (t.setJoin r x).arm? f = t.arm? f := rfl
end

section
variable (t : Team) (r : Nat) (x : Option Walker)
@[simp] theorem setWalker_armT : (t.setWalker r x).armT = t.armT := rfl
@[simp] theorem setWalker_armF : (t.setWalker r x).armF = t.armF := rfl
@[simp] theorem setWalker_geom : (t.setWalker r x).geom = t.geom := rfl
@[simp] theorem setWalker_live : (t.setWalker r x).live = t.live := rfl
@[simp] theorem setWalker_lanes : (t.setWalker r x).lanes = t.lanes := rfl
@[simp] theorem setWalker_g : (t.setWalker r x).g = t.g := rfl
@[simp] theorem setWalker_q : (t.setWalker r x).q = t.q := rfl
@[simp] theorem setWalker_vmark : (t.setWalker r x).vmark = t.vmark := rfl
@[simp] theorem setWalker_gmark : (t.setWalker r x).gmark = t.gmark := rfl
@[simp] theorem setWalker_joins : (t.setWalker r x).joins = t.joins := rfl
@[simp] theorem setWalker_nextInst : (t.setWalker r x).nextInst = t.nextInst := rfl
@[simp] theorem setWalker_slots : (t.setWalker r x).slots = t.slots := rfl
@[simp] theorem setWalker_trap : (t.setWalker r x).trap = t.trap := rfl
@[simp] theorem setWalker_srseed : (t.setWalker r x).srseed = t.srseed := rfl
@[simp] theorem setWalker_engfail : (t.setWalker r x).engfail = t.engfail := rfl
@[simp] theorem setWalker_nolane : (t.setWalker r x).nolane = t.nolane := rfl
@[simp] theorem setWalker_lostjoin : (t.setWalker r x).lostjoin = t.lostjoin := rfl
@[simp] theorem setWalker_engcode : (t.setWalker r x).engcode = t.engcode := rfl
@[simp] theorem setWalker_batchNo : (t.setWalker r x).batchNo = t.batchNo := rfl
@[simp] theorem setWalker_batches : (t.setWalker r x).batches = t.batches := rfl
@[simp] theorem setWalker_conv : (t.setWalker r x).conv = t.conv := rfl
@[simp] theorem setWalker_batchGen : (t.setWalker r x).batchGen = t.batchGen := rfl
@[simp] theorem setWalker_peers : (t.setWalker r x).peers = t.peers := rfl
@[simp] theorem setWalker_closes : (t.setWalker r x).closes = t.closes := rfl
@[simp] theorem setWalker_barPhase : (t.setWalker r x).barPhase = t.barPhase := rfl
@[simp] theorem setWalker_collSeq : (t.setWalker r x).collSeq = t.collSeq := rfl
@[simp] theorem setWalker_arm? (f : Bool) : (t.setWalker r x).arm? f = t.arm? f := rfl
end

section
variable (t : Team) 
@[simp] theorem setNolane_armT : (t.setNolane ).armT = t.armT := rfl
@[simp] theorem setNolane_armF : (t.setNolane ).armF = t.armF := rfl
@[simp] theorem setNolane_geom : (t.setNolane ).geom = t.geom := rfl
@[simp] theorem setNolane_live : (t.setNolane ).live = t.live := rfl
@[simp] theorem setNolane_lanes : (t.setNolane ).lanes = t.lanes := rfl
@[simp] theorem setNolane_g : (t.setNolane ).g = t.g := rfl
@[simp] theorem setNolane_q : (t.setNolane ).q = t.q := rfl
@[simp] theorem setNolane_vmark : (t.setNolane ).vmark = t.vmark := rfl
@[simp] theorem setNolane_gmark : (t.setNolane ).gmark = t.gmark := rfl
@[simp] theorem setNolane_joins : (t.setNolane ).joins = t.joins := rfl
@[simp] theorem setNolane_nextInst : (t.setNolane ).nextInst = t.nextInst := rfl
@[simp] theorem setNolane_walkers : (t.setNolane ).walkers = t.walkers := rfl
@[simp] theorem setNolane_slots : (t.setNolane ).slots = t.slots := rfl
@[simp] theorem setNolane_trap : (t.setNolane ).trap = t.trap := rfl
@[simp] theorem setNolane_srseed : (t.setNolane ).srseed = t.srseed := rfl
@[simp] theorem setNolane_engfail : (t.setNolane ).engfail = t.engfail := rfl
@[simp] theorem setNolane_lostjoin : (t.setNolane ).lostjoin = t.lostjoin := rfl
@[simp] theorem setNolane_engcode : (t.setNolane ).engcode = t.engcode := rfl
@[simp] theorem setNolane_batchNo : (t.setNolane ).batchNo = t.batchNo := rfl
@[simp] theorem setNolane_batches : (t.setNolane ).batches = t.batches := rfl
@[simp] theorem setNolane_conv : (t.setNolane ).conv = t.conv := rfl
@[simp] theorem setNolane_batchGen : (t.setNolane ).batchGen = t.batchGen := rfl
@[simp] theorem setNolane_peers : (t.setNolane ).peers = t.peers := rfl
@[simp] theorem setNolane_closes : (t.setNolane ).closes = t.closes := rfl
@[simp] theorem setNolane_barPhase : (t.setNolane ).barPhase = t.barPhase := rfl
@[simp] theorem setNolane_collSeq : (t.setNolane ).collSeq = t.collSeq := rfl
@[simp] theorem setNolane_arm? (f : Bool) : (t.setNolane ).arm? f = t.arm? f := rfl
end

/-! ### Registers -/

@[simp] theorem greg_setG_same (t : Team) (r : Nat) (x : Word) : (t.setG r x).greg r = x := sget_sset_same 0 t.g r x

theorem greg_setG_other (t : Team) (r j : Nat) (x : Word) (h : j ≠ r) : (t.setG r x).greg j = t.greg j :=
  sget_sset_other 0 t.g r j x h

@[simp] theorem reg_setReg_same (l : Lane) (r : Nat) (x : Word) : (l.setReg r x).reg r = x := sget_sset_same 0 l.v r x

theorem reg_setReg_other (l : Lane) (r j : Nat) (x : Word) (h : j ≠ r) : (l.setReg r x).reg j = l.reg j :=
  sget_sset_other 0 l.v r j x h

@[simp] theorem vMark_setVMark_same (t : Team) (r : Nat) (m : Mark) : (t.setVMark r m).vMark r = m :=
  sget_sset_same Mark.full t.vmark r m

theorem vMark_setVMark_other (t : Team) (r j : Nat) (m : Mark) (h : j ≠ r) : (t.setVMark r m).vMark j = t.vMark j :=
  sget_sset_other Mark.full t.vmark r j m h

@[simp] theorem gMark_setGMark_same (t : Team) (r : Nat) (m : Mark) : (t.setGMark r m).gMark r = m :=
  sget_sset_same Mark.full t.gmark r m

@[simp] theorem join_setJoin_same (t : Team) (j : Nat) (x : Join) : (t.setJoin j x).join j = x :=
  sget_sset_same Join.init t.joins j x

theorem join_setJoin_other (t : Team) (j i : Nat) (x : Join) (h : i ≠ j) : (t.setJoin j x).join i = t.join i :=
  sget_sset_other Join.init t.joins j i x h

section
variable (l : Lane) (r : Nat) (x : Word) (b : Bool) (n : Nat)
@[simp] theorem setReg_p : (l.setReg r x).p = l.p := rfl
@[simp] theorem setReg_fpctl : (l.setReg r x).fpctl = l.fpctl := rfl
@[simp] theorem setReg_fpflags : (l.setReg r x).fpflags = l.fpflags := rfl
@[simp] theorem setReg_gen : (l.setReg r x).gen = l.gen := rfl
@[simp] theorem setPred_v : (l.setPred r b).v = l.v := rfl
@[simp] theorem setPred_fpctl : (l.setPred r b).fpctl = l.fpctl := rfl
@[simp] theorem setPred_fpflags : (l.setPred r b).fpflags = l.fpflags := rfl
@[simp] theorem setPred_gen : (l.setPred r b).gen = l.gen := rfl
@[simp] theorem raise_v : (l.raise n).v = l.v := rfl
@[simp] theorem raise_p : (l.raise n).p = l.p := rfl
@[simp] theorem raise_fpctl : (l.raise n).fpctl = l.fpctl := rfl
@[simp] theorem raise_gen : (l.raise n).gen = l.gen := rfl
end

end Sys2Proof.Machine
end

