-- ==== Sys2Proof/Laws/Issue.lean ====
section
/-! SUPPORT. What the issue of a unit can do: it completes when its registers are ready, and otherwise traps, waits or parks. -/

namespace Sys2Proof.Machine

/-! ### The current arm -/

theorem curArm_of_current (k : Issue) (h : k.Current) : k.s.curArm = some (k.tid, k.f, k.t, k.a) := by
  simp [State.curArm, h.cur, h.team, h.arm]

theorem issuing_of_current (k : Issue) (h : k.Current) : k.s.issuing = some (k.tid, k.f, k.t, k.a, k.l) := by
  simp [State.issuing, curArm_of_current k h, h.launch, h.may]

theorem find?_none_of_any_false {α : Type} (p q : α → Bool) (l : List α) (h : l.any q = false)
    (hpq : ∀ x, p x = true → q x = true) : l.find? p = none := by
  rw [List.find?_eq_none]
  intro x hx hp
  have := List.any_eq_false.mp h x hx
  exact this (hpq x hp)

/-- A unit none of whose sources is empty does not trap EMPTY. -/
theorem emptyTrap_of_full (u : Use) (t : Team) (h : u.waits t = false) : u.emptyTrap t = none := by
  simp only [Use.waits, Bool.or_eq_false_iff] at h
  have h1 := find?_none_of_any_false (fun r : Nat × Bool => r.2 && t.vMark r.1 = .empty) _ u.vr h.1.1.1.1
    (fun x hx => by simp at hx; simpa using hx.2)
  have h2 := find?_none_of_any_false (fun r : Nat × Bool => r.2 && t.gMark r.1 = .empty) _ u.gr h.1.2
    (fun x hx => by simp at hx; simpa using hx.2)
  simp only [Use.emptyTrap, h1, h2]

/-- A walker's fetches and a team's record are apart. -/
theorem foldl_dropFetch_setTeam (tid : Nat) (els : List (Nat × List (Nat × Word))) (s : State) (t : Team) :
    els.foldl (fun s e => s.dropFetch tid (e.1 - 60)) (s.setTeam tid t) =
      (els.foldl (fun s e => s.dropFetch tid (e.1 - 60)) s).setTeam tid t := by
  induction els generalizing s with
  | nil => rfl
  | cons e r ih => exact ih (s.dropFetch tid (e.1 - 60))

/-- A unit that names no v register has no walker to read. -/
theorem read_plain (k : Issue) (u : Use) (h : k.Ready u) (hv : u.vr = []) : k.read = k.s := by
  have := h.walk
  rw [hv] at this
  simp [readWalkers] at this
  simp [Issue.read, this.2]

/-- A unit whose registers are ready has its effect. -/
theorem issueUnit_ready (i : Instr) (u : Use) (k : Issue) (eff : Ctx → State → Res) (eng : Bool) (h : k.Ready u) :
    issueUnit i u k.s eff eng = (eff (k.ctx u (unitBytes i)) (k.read.setTeam k.tid (k.team' u))).out k.s k.tid k.f k.a.pc
      (unitBytes i) := by
  have hm := h.marks
  have hw := h.walk
  cases hp : u.pg <;> simp only [Issue.ex, hp] at hm hw <;>
    simp [issueUnit, curArm_of_current k h.toCurrent, h.launch, h.may, h.legal, emptyTrap_of_full u k.t h.full, h.full, hp,
      hm, hw, h.guard, Issue.ctx, Issue.team', Issue.ex, Issue.read, foldl_dropFetch_setTeam]

/-- A register that does not exist traps ILLREG (R13, R304). -/
theorem issueUnit_illReg (i : Instr) (u : Use) (k : Issue) (eff : Ctx → State → Res) (eng : Bool) (h : k.Current)
    (hi : u.illReg k.t = true) :
    issueUnit i u k.s eff eng = .next (takeTrap k.s k.tid k.f k.a.pc (unitBytes i) Code.illreg (unitWords i)) := by
  simp [issueUnit, curArm_of_current k h, h.launch, h.may, hi, Res.out]

/-- An empty source with its trap-on-empty bit set traps EMPTY (R16). -/
theorem issueUnit_empty (i : Instr) (u : Use) (k : Issue) (eff : Ctx → State → Res) (info : Word) (h : k.Current)
    (hi : u.illReg k.t = false) (he : u.emptyTrap k.t = some info) :
    issueUnit i u k.s eff = .next (takeTrap k.s k.tid k.f k.a.pc (unitBytes i) Code.empty info) := by
  simp [issueUnit, curArm_of_current k h, h.launch, h.may, hi, he, Res.out]

/-- A unit with a register that is empty waits (R42). -/
theorem issueUnit_waits (i : Instr) (u : Use) (k : Issue) (eff : Ctx → State → Res) (h : k.Current)
    (hi : u.illReg k.t = false) (he : u.emptyTrap k.t = none) (hw : u.waits k.t = true) :
    issueUnit i u k.s eff = .next k.s.blocked := by
  simp [issueUnit, curArm_of_current k h, h.launch, h.may, hi, he, hw, Res.out]

/-- A source that holds lost or poisoned data traps its reader (R75, R318). -/
theorem issueUnit_mark (i : Instr) (u : Use) (k : Issue) (eff : Ctx → State → Res) (x : Nat × Word) (h : k.Current)
    (hi : u.illReg k.t = false) (hw : u.waits k.t = false) (hx : markTrap k.t (k.ex u) u.vr = some x) :
    issueUnit i u k.s eff = .next (takeTrap k.s k.tid k.f k.a.pc (unitBytes i) x.1 x.2) := by
  cases hp : u.pg <;> simp only [Issue.ex, hp] at hx <;>
    simp [issueUnit, curArm_of_current k h, h.launch, h.may, hi, emptyTrap_of_full u k.t hw, hw, hp, hx, Res.out]

/-! ### A unit that completes -/

@[simp] theorem finish_setTeam (s : State) (tid : Nat) (f : Bool) (len : Nat) (t : Team) :
    finish (s.setTeam tid t) tid f len = s.setTeam tid (t.modArm f (fun a => a.advance len)) := by
  simp [finish]

/-- An effect that only changes the arm's team. -/
theorem issueUnit_done (i : Instr) (u : Use) (k : Issue) (eff : Ctx → State → Res) (t : Team) (h : k.Ready u)
    (he : eff (k.ctx u (unitBytes i)) (k.read.setTeam k.tid (k.team' u)) = .done (k.read.setTeam k.tid t)) :
    issueUnit i u k.s eff = .next (k.done (unitBytes i) t) := by
  rw [issueUnit_ready i u k eff false h, he]
  simp [Res.out, Issue.done]

/-- An effect that sets where its arm continues. -/
theorem issueUnit_jump (i : Instr) (u : Use) (k : Issue) (eff : Ctx → State → Res) (s' : State) (h : k.Ready u)
    (he : eff (k.ctx u (unitBytes i)) (k.read.setTeam k.tid (k.team' u)) = .jump s') : issueUnit i u k.s eff = .next s' := by
  rw [issueUnit_ready i u k eff false h, he]
  rfl

/-- An effect at which the arm stays. -/
theorem issueUnit_stay (i : Instr) (u : Use) (k : Issue) (eff : Ctx → State → Res) (s' : State) (h : k.Ready u)
    (he : eff (k.ctx u (unitBytes i)) (k.read.setTeam k.tid (k.team' u)) = .stay s') : issueUnit i u k.s eff = .next s' := by
  rw [issueUnit_ready i u k eff false h, he]
  rfl

/-- A trap of the current arm: the handler is entered, or the launch aborts (R304). -/
theorem takeTrap_current (k : Issue) (h : k.Current) (len code : Nat) (info : Word) :
    takeTrap k.s k.tid k.f k.a.pc len code info = k.afterTrap len code info := by
  simp only [takeTrap, h.team, h.arm, Issue.afterTrap]
  by_cases hv : k.t.trap.vec = 0 <;> cases hh : k.a.inHandler <;> simp [Issue.trapped, Issue.aborted, Issue.trapRegs, hv, hh]

/-- An effect that traps leaves nothing but the trap. -/
theorem issueUnit_trap (i : Instr) (u : Use) (k : Issue) (eff : Ctx → State → Res) (code : Nat) (info : Word)
    (h : k.Ready u) (he : eff (k.ctx u (unitBytes i)) (k.read.setTeam k.tid (k.team' u)) = .trap code info) :
    issueUnit i u k.s eff = .next (k.afterTrap (unitBytes i) code info) := by
  rw [issueUnit_ready i u k eff false h, he]
  exact congrArg _ (takeTrap_current k h.toCurrent _ _ _)

/-- A unit that names no v register leaves the team as it found it. -/
theorem team'_plain (k : Issue) (u : Use) (h : k.Ready u) (hv : u.vr = []) (hw : u.vw = []) : k.team' u = k.t := by
  have := h.walk
  rw [hv] at this
  simp [readWalkers] at this
  simp [Issue.team', Use.clearMarks, hw, this.1]

theorem shareWriters_setTeam (s : State) (tid : Nat) (x t t' : Team) :
    (s.setTeam tid x).shareWriters tid t t' = (s.shareWriters tid t t').setTeam tid x := rfl

/-- Storing a team as it stands before its arms change makes no difference to the change. -/
theorem commitArms_setTeam (s : State) (tid : Nat) (w : Bool) (x t : Team) (h : s.team? tid = some x) :
    (s.setTeam tid x).commitArms tid w t = s.commitArms tid w t := by
  simp only [State.commitArms, team?_setTeam_same, h, shareWriters_setTeam, setTeam_setTeam]

/-! ### Lanes -/

theorem mapLanes_congr (m : LaneMask) (f g : Nat → Lane → Lane) (ls : List Lane) (i : Nat)
    (h : ∀ j l, ls[j]? = some l → f (i + j) l = g (i + j) l) : mapLanes m f i ls = mapLanes m g i ls := by
  induction ls generalizing i with
  | nil => rfl
  | cons l r ih =>
    have h0 := h 0 l (by simp)
    have hr := ih (i + 1) (fun j x hx => by
      have := h (j + 1) x (by simpa using hx)
      rwa [show i + (j + 1) = i + 1 + j by omega] at this)
    simp only [Nat.add_zero] at h0
    simp [mapLanes, h0, hr]

theorem mapLanes_length (m : LaneMask) (f : Nat → Lane → Lane) (ls : List Lane) (i : Nat) :
    (mapLanes m f i ls).length = ls.length := by
  induction ls generalizing i with
  | nil => rfl
  | cons l r ih => simp [mapLanes, ih]

/-- Lane j after a change of the lanes of a mask. -/
theorem getElem?_mapLanes (m : LaneMask) (f : Nat → Lane → Lane) (ls : List Lane) (i j : Nat) :
    (mapLanes m f i ls)[j]? = (ls[j]?).map (fun l => if m.getLsbD (i + j) then f (i + j) l else l) := by
  induction ls generalizing i j with
  | nil => simp [mapLanes]
  | cons l r ih =>
    cases j with
    | zero => simp [mapLanes]
    | succ j => simp [mapLanes, ih, show i + (j + 1) = i + 1 + j by omega]

theorem lane_of_getElem? (t : Team) (L : Nat) (x : Lane) (h : t.lanes[L]? = some x) : t.lane L = x := by
  simp [Team.lane, h]

@[simp] theorem clearMarks_lanes (u : Use) (t : Team) : (u.clearMarks t).lanes = t.lanes := by
  have : ∀ (l : List Nat) (t : Team), (l.foldl (fun t r => t.setVMark r .full) t).lanes = t.lanes := by
    intro l
    induction l with
    | nil => intro t; rfl
    | cons r l ih => intro t; exact (ih _).trans (setVMark_lanes t r .full)
  exact this u.vw t

@[simp] theorem team'_lanes (k : Issue) (u : Use) : (k.team' u).lanes = k.t'.lanes := by
  unfold Issue.team'
  split <;> simp

theorem lane_team' (k : Issue) (u : Use) (L : Nat) : (k.team' u).lane L = k.t'.lane L := by simp [Team.lane]

@[simp] theorem src_ctx (k : Issue) (u : Use) (len L r : Nat) : (k.ctx u len).src L (k.t'.lane L) r = k.src L r := rfl

@[simp] theorem src_ctx_fun (k : Issue) (u : Use) (len L : Nat) : (k.ctx u len).src L (k.t'.lane L) = k.src L :=
  funext (fun r => src_ctx k u len L r)

section
variable (k : Issue) (u : Use) (len : Nat)
@[simp] theorem ctx_tid : (k.ctx u len).tid = k.tid := rfl
@[simp] theorem ctx_f : (k.ctx u len).f = k.f := rfl
@[simp] theorem ctx_t : (k.ctx u len).t = k.team' u := rfl
@[simp] theorem ctx_a : (k.ctx u len).a = k.a := rfl
@[simp] theorem ctx_ex : (k.ctx u len).ex = k.ex u := rfl
@[simp] theorem ctx_s0 : (k.ctx u len).s0 = k.s := rfl
end

/-- A unit that changes every executing lane. -/
theorem issueUnit_mapLanes (i : Instr) (u : Use) (k : Issue) (eff : Ctx → State → Res) (fn : Ctx → Nat → Lane → Lane)
    (g : Nat → Lane → Lane) (h : k.Ready u)
    (he : ∀ c s, eff c s = .done (s.setTeam c.tid { c.t with lanes := mapLanes c.ex (fn c) 0 c.t.lanes }))
    (hg : ∀ L, fn (k.ctx u (unitBytes i)) L (k.t'.lane L) = g L (k.t'.lane L)) :
    issueUnit i u k.s eff =
      .next (k.done (unitBytes i) { k.team' u with lanes := mapLanes (k.ex u) g 0 (k.team' u).lanes }) := by
  refine issueUnit_done i u k eff _ h ?_
  rw [he]
  simp only [ctx_tid, ctx_t, ctx_ex, setTeam_setTeam]
  rw [mapLanes_congr _ (fn (k.ctx u (unitBytes i))) g]
  intro j l hl
  rw [team'_lanes] at hl
  rw [← lane_of_getElem? k.t' j l hl, Nat.zero_add, hg]

/-- Writing a lane register: the unit's shared effect. -/
theorem issueUnit_writeLanes (i : Instr) (u : Use) (k : Issue) (vd : Nat) (eff : Ctx → State → Res)
    (fn : Ctx → Nat → Lane → Word) (h : k.Ready u) (he : ∀ c s, eff c s = writeLanes c s vd (fn c)) :
    issueUnit i u k.s eff =
      .next (k.laneDone u vd (unitBytes i) (fun L => fn (k.ctx u (unitBytes i)) L (k.t'.lane L))) := by
  refine (issueUnit_done i u k eff _ h ?_).trans rfl
  rw [he]
  simp only [writeLanes, Issue.ctx, setTeam_setTeam]
  rw [mapLanes_congr]
  intro j l hl
  rw [team'_lanes] at hl
  simp [lane_of_getElem? k.t' j l hl]

/-- Writing a lane predicate. -/
theorem issueUnit_writePreds (i : Instr) (u : Use) (k : Issue) (pd : Nat) (eff : Ctx → State → Res)
    (fn : Ctx → Nat → Lane → Bool) (h : k.Ready u) (he : ∀ c s, eff c s = writePreds c s pd (fn c)) :
    issueUnit i u k.s eff =
      .next (k.predDone u pd (unitBytes i) (fun L => fn (k.ctx u (unitBytes i)) L (k.t'.lane L))) := by
  refine (issueUnit_done i u k eff _ h ?_).trans rfl
  rw [he]
  simp only [writePreds, Issue.ctx, setTeam_setTeam]
  rw [mapLanes_congr]
  intro j l hl
  rw [team'_lanes] at hl
  simp [lane_of_getElem? k.t' j l hl]

end Sys2Proof.Machine
end

