-- ==== Sys2Proof/Laws/Elements.lean ====
section
/-! SUPPORT. Elements of a register, and one lemma for each shared effect of the lane and uniform value instructions. -/

namespace Sys2Proof.Machine

theorem packNat_lt (w : Nat) (f : Nat → Nat) (n : Nat) : packNat w f n < 2 ^ (w * n) := by
  induction n with
  | zero => simp [packNat]
  | succ n ih =>
    have h1 : f n % 2 ^ w < 2 ^ w := Nat.mod_lt _ (Nat.two_pow_pos w)
    have h2 : 2 ^ (w * (n + 1)) = 2 ^ w * 2 ^ (w * n) := by rw [← Nat.pow_add]; ring_nf
    simp only [packNat]
    rw [h2]
    nlinarith [Nat.mul_le_mul_right (2 ^ (w * n)) (show f n % 2 ^ w + 1 ≤ 2 ^ w from h1)]

theorem bitsOf_packNat (w : Nat) (f : Nat → Nat) (n e : Nat) (h : e < n) :
    bitsOf (packNat w f n) (w * e) w = f e % 2 ^ w := by
  induction n with
  | zero => omega
  | succ n ih =>
    have hp : 0 < 2 ^ (w * e) := Nat.two_pow_pos _
    simp only [packNat, bitsOf]
    rcases Nat.lt_succ_iff_lt_or_eq.mp h with h | rfl
    · have : w * n = w * e + (w * (n - e - 1) + w) := by
        obtain ⟨d, rfl⟩ : ∃ d, n = e + 1 + d := ⟨n - e - 1, by omega⟩
        have : e + 1 + d - e - 1 = d := by omega
        rw [this]; ring
      rw [this, Nat.pow_add, Nat.pow_add]
      have ih := ih h
      simp only [bitsOf] at ih
      rw [show packNat w f n + f n % 2 ^ w * (2 ^ (w * e) * (2 ^ (w * (n - e - 1)) * 2 ^ w)) =
        packNat w f n + 2 ^ (w * e) * (f n % 2 ^ w * 2 ^ (w * (n - e - 1)) * 2 ^ w) by ring, Nat.add_mul_div_left _ _ hp,
        Nat.add_mul_mod_self_right, ih]
    · rw [Nat.add_mul_div_right _ _ hp, Nat.div_eq_of_lt (packNat_lt w f e), Nat.zero_add, Nat.mod_mod]

/-- A packed register's elements are the elements packed. -/
theorem part_packNat (w n : Nat) (f : Nat → Nat) (e : Nat) (he : e < n) (hn : w * n ≤ 64) :
    part w (BitVec.ofNat 64 (packNat w f n)) e = BitVec.ofNat w (f e) := by
  apply BitVec.eq_of_toNat_eq
  have hl : packNat w f n < 2 ^ 64 := Nat.lt_of_lt_of_le (packNat_lt w f _) (Nat.pow_le_pow_right (by decide) hn)
  have := bitsOf_packNat w f n e he
  simp only [part, BitVec.extractLsb'_toNat, BitVec.toNat_ofNat, Nat.mod_eq_of_lt hl, Nat.shiftRight_eq_div_pow]
  exact this

theorem part_pack (w : Nat) (f : Nat → Nat) (e : Nat) (he : e < 64 / w) : part w (pack w f) e = BitVec.ofNat w (f e) :=
  part_packNat w _ f e he (Nat.mul_div_le 64 w)

/-- An element as a number and as a bit vector. -/
theorem elem_part (w : Nat) (x : Word) (e : Nat) : elem w x e = (part w x e).toNat := by
  simp [elem, bitsOf, part, Nat.shiftRight_eq_div_pow]

theorem part_ew1 (w : Nat) (g : Nat → Nat) (r : BitVec w → BitVec w)
    (hg : ∀ a : BitVec w, BitVec.ofNat w (g a.toNat) = r a) (x : Word) (e : Nat) (he : e < 64 / w) :
    part w (ew1 w g x) e = r (part w x e) := by
  rw [ew1, part_pack _ _ _ he, elem_part, hg]

theorem part_ew2 (w : Nat) (g : Nat → Nat → Nat) (r : BitVec w → BitVec w → BitVec w)
    (hg : ∀ a b : BitVec w, BitVec.ofNat w (g a.toNat b.toNat) = r a b) (x y : Word) (e : Nat) (he : e < 64 / w) :
    part w (ew2 w g x y) e = r (part w x e) (part w y e) := by
  rw [ew2, part_pack _ _ _ he, elem_part, elem_part, hg]

theorem part_ew3 (w : Nat) (g : Nat → Nat → Nat → Nat) (r : BitVec w → BitVec w → BitVec w → BitVec w)
    (hg : ∀ a b d : BitVec w, BitVec.ofNat w (g a.toNat b.toNat d.toNat) = r a b d) (x y z : Word) (e : Nat)
    (he : e < 64 / w) : part w (ew3 w g x y z) e = r (part w x e) (part w y e) (part w z e) := by
  rw [ew3, part_pack _ _ _ he, elem_part, elem_part, elem_part, hg]

/-! ### The shared effects -/

/-- LR and LRF forms. -/
theorem laneBin_writes (i : Instr) (k : Issue) (pg : BitVec 3) (vd va vb : BitVec 6) (ta tb : Bool) (op : Word → Word → Word)
    (len w : Nat) (r : Nat → Nat → BitVec w) (hb : unitBytes i = len)
    (he : exec i k.s = laneBin i pg vd va vb ta tb op k.s) (h : k.Ready (use2 pg vd va vb ta tb))
    (ho : ∀ L e, e < 64 / w → part w (op (k.src L va.toNat) (k.src L vb.toNat)) e = r L e) :
    LaneWrites k (use2 pg vd va vb ta tb) i vd.toNat len w r := by
  refine ⟨fun L => op (k.src L va.toNat) (k.src L vb.toNat), ?_, fun L _ e => ho L e⟩
  rw [he, laneBin, ← hb]
  exact issueUnit_writeLanes i (use2 pg vd va vb ta tb) k vd.toNat _
    (fun c L x => op (c.src L x va.toNat) (c.src L x vb.toNat)) h (fun c s => rfl)

/-- The forms that read vd as well. -/
theorem laneTer_writes (i : Instr) (k : Issue) (pg : BitVec 3) (vd va vb : BitVec 6) (ta tb : Bool)
    (op : Word → Word → Word → Word) (len w : Nat) (r : Nat → Nat → BitVec w) (hb : unitBytes i = len)
    (he : exec i k.s = laneTer i pg vd va vb ta tb op k.s) (h : k.Ready (use3 pg vd va vb ta tb))
    (ho : ∀ L e, e < 64 / w → part w (op (k.src L va.toNat) (k.src L vb.toNat) (k.src L vd.toNat)) e = r L e) :
    LaneWrites k (use3 pg vd va vb ta tb) i vd.toNat len w r := by
  refine ⟨fun L => op (k.src L va.toNat) (k.src L vb.toNat) (k.src L vd.toNat), ?_, fun L _ e => ho L e⟩
  rw [he, laneTer, ← hb]
  exact issueUnit_writeLanes i (use3 pg vd va vb ta tb) k vd.toNat _
    (fun c L x => op (c.src L x va.toNat) (c.src L x vb.toNat) (c.src L x vd.toNat)) h (fun c s => rfl)

/-- LU and LI forms. -/
theorem laneUn_writes (i : Instr) (k : Issue) (pg : BitVec 3) (vd va : BitVec 6) (ta : Bool) (op : Word → Word) (len w : Nat)
    (r : Nat → Nat → BitVec w) (hb : unitBytes i = len) (he : exec i k.s = laneUn i pg vd va ta op k.s)
    (h : k.Ready (use1 pg vd va ta)) (ho : ∀ L e, e < 64 / w → part w (op (k.src L va.toNat)) e = r L e) :
    LaneWrites k (use1 pg vd va ta) i vd.toNat len w r := by
  refine ⟨fun L => op (k.src L va.toNat), ?_, fun L _ e => ho L e⟩
  rw [he, laneUn, ← hb]
  exact issueUnit_writeLanes i (use1 pg vd va ta) k vd.toNat _ (fun c L x => op (c.src L x va.toNat)) h (fun c s => rfl)

/-- Lane floating-point forms. -/
theorem laneFloat_next (i : Instr) (k : Issue) (pg : BitVec 3) (vd : BitVec 6) (vr : List (Nat × Bool)) (o : Option Rm)
    (w n : Nat) (g : FEnv → (Nat → Word) → Nat → Nat → FRes) (hb : unitBytes i = 4)
    (h : k.Ready { pg := some pg.toNat, vw := [vd.toNat], vr := vr }) :
    laneFloat i pg vd vr o w n g k.s =
      .next (k.floatDone { pg := some pg.toNat, vw := [vd.toNat], vr := vr } vd.toNat w n o (fun L v => g v (k.src L))) := by
  have := issueUnit_mapLanes i { pg := some pg.toNat, vw := [vd.toNat], vr := vr } k _
    (fun c L x => x.float vd.toNat w n (decide ((x.env.over o).rm = .rsr)) (g (x.env.over o) (c.src L x)))
    (fun L x => x.float vd.toNat w n (decide ((x.env.over o).rm = .rsr)) (g (x.env.over o) (k.src L))) h (fun c s => rfl)
    (fun L => by simp)
  rw [hb] at this
  exact this

/-- UR forms. -/
theorem uniBin_next (i : Instr) (k : Issue) (qg : BitVec 3) (gd ga gb : BitVec 6) (op : Word → Word → Word) (h : k.Ready
    { qg := qg.toNat, gw := [gd.toNat], gr := [(ga.toNat, false), (gb.toNat, false)] }) :
    uniBin i qg gd ga gb op k.s = .next (k.done (unitBytes i) (k.t.setG gd.toNat (op (k.t.greg ga.toNat) (k.t.greg gb.toNat)))) := by
  have hw : k.t' = k.t := by have := h.walk; simp [readWalkers] at this; exact this.1.symm
  have ht : k.team' { qg := qg.toNat, gw := [gd.toNat], gr := [(ga.toNat, false), (gb.toNat, false)] } = k.t := by
    simp [Issue.team', Use.clearMarks, hw]
  exact issueUnit_done i _ k _ _ h (by simp [writeG, Issue.ctx, ht])

/-- Unary and immediate uniform forms. -/
theorem uniUn_next (i : Instr) (k : Issue) (qg : BitVec 3) (gd ga : BitVec 6) (op : Word → Word) (h : k.Ready
    { qg := qg.toNat, gw := [gd.toNat], gr := [(ga.toNat, false)] }) :
    uniUn i qg gd ga op k.s = .next (k.done (unitBytes i) (k.t.setG gd.toNat (op (k.t.greg ga.toNat)))) := by
  have hw : k.t' = k.t := by have := h.walk; simp [readWalkers] at this; exact this.1.symm
  have ht : k.team' { qg := qg.toNat, gw := [gd.toNat], gr := [(ga.toNat, false)] } = k.t := by
    simp [Issue.team', Use.clearMarks, hw]
  exact issueUnit_done i _ k _ _ h (by simp [writeG, Issue.ctx, ht])

end Sys2Proof.Machine
end

