-- ==== Sys2Proof/Laws/Memory.lean ====
section
/-! SUPPORT. What each shared operation does to memory: `_mem` lemmas say that it leaves every byte, `_keeps`
    lemmas that
it keeps the canonical form. -/

namespace Sys2Proof.Machine

@[simp] theorem putAll_mem_wf (m : Memory) (cells : List (Nat × Byte)) (h : Memory.wf m = true) :
    Memory.wf (Memory.putAll m cells) = true :=
  mem_putAll_wf _ _ h

@[simp] theorem filter_mem_wf (m : Memory) (p : Nat × Byte → Bool) (h : Memory.wf m = true) :
    Memory.wf (List.filter p m) = true :=
  filter_swf _ _ _ h

@[simp] theorem foldl_mem {α : Type} (f : State → α → State) (hf : ∀ s x, (f s x).mem = s.mem) (l : List α)
    (s : State) :
    (l.foldl f s).mem = s.mem := by
  induction l generalizing s with
  | nil => rfl
  | cons x l ih => exact (ih _).trans (hf s x)

@[simp] theorem foldl_keeps {α : Type} (f : State → α → State) (hf : ∀ s x, Memory.wf s.mem = true → Memory.wf
    (f s x).mem = true) (l : List α)
    (s : State) (h : Memory.wf s.mem = true) : Memory.wf (l.foldl f s).mem = true := by
  induction l generalizing s with
  | nil => exact h
  | cons x l ih => exact ih _ (hf s x h)

@[simp] theorem foldl_snd_mem {α β : Type} (f : β × State → α → β × State) (hf : ∀ s x, (f s x).2.mem = s.2.mem)
    (l : List α) (s : β × State) :
    (l.foldl f s).2.mem = s.2.mem := by
  induction l generalizing s with
  | nil => rfl
  | cons x l ih => exact (ih _).trans (hf s x)

@[simp] theorem foldl_snd_keeps {α β : Type} (f : β × State → α → β × State)
    (hf : ∀ s x, Memory.wf s.2.mem = true → Memory.wf (f s x).2.mem = true) (l : List α)
    (s : β × State) (h : Memory.wf s.2.mem = true) : Memory.wf (l.foldl f s).2.mem = true := by
  induction l generalizing s with
  | nil => exact h
  | cons x l ih => exact ih _ (hf s x h)

@[simp] theorem ite_mem (c : Prop) [Decidable c] (a b : State) (m : Memory) (ha : a.mem = m) (hb : b.mem = m) :
    (if c then a else b).mem = m := by
  split <;> assumption

@[simp] theorem ite_keeps (c : Prop) [Decidable c] (a b : State) (ha : Memory.wf a.mem = true)
    (hb : Memory.wf b.mem = true) :
    Memory.wf (if c then a else b).mem = true := by
  split <;> assumption

/-! ### The operations, in the order of the files that define them -/

@[simp] theorem setTeam_keeps (s : State) (t : Nat) (x : Team) (h : Memory.wf s.mem = true) : Memory.wf
    (State.setTeam s t x).mem = true := by
  simp [State.setTeam, h]
@[simp] theorem delTeam_keeps (s : State) (t : Nat) (h : Memory.wf s.mem = true) : Memory.wf (State.delTeam s
    t).mem = true := by
  simp [State.delTeam, h]
@[simp] theorem modTeam_mem (s : State) (t : Nat) (f : Team → Team) : (State.modTeam s t f).mem = s.mem := by
  unfold State.modTeam
  split <;> simp 
@[simp] theorem setLaunch_keeps (s : State) (l : Nat) (x : Option Launch) (h : Memory.wf s.mem = true) : Memory.wf
    (State.setLaunch s l x).mem = true := by
  simp [State.setLaunch, h]
@[simp] theorem modLaunch_mem (s : State) (l : Nat) (f : Launch → Launch) : (State.modLaunch s l f).mem = s.mem := by
  unfold State.modLaunch
  split <;> simp 
@[simp] theorem modArm_mem (s : State) (t : Nat) (f : Bool) (g : Arm → Arm) : (State.modArm s t f g).mem = s.mem := by
  simp [State.modArm]
@[simp] theorem newId_mem (s : State) : (State.newId s).2.mem = s.mem := by
  simp [State.newId]
@[simp] theorem freeWord_mem (s : State) : (State.freeWord s).2.mem = s.mem := by
  simp [State.freeWord]
@[simp] theorem emit_keeps (s : State) (m : OutMsg) (h : Memory.wf s.mem = true) : Memory.wf (State.emit s m).mem =
    true := by
  simp [State.emit, h]
@[simp] theorem setBar0_keeps (s : State) (off : Nat) (v : Word) (h : Memory.wf s.mem = true) : Memory.wf
    (State.setBar0 s off v).mem = true := by
  simp [State.setBar0, h]
@[simp] theorem putCells_keeps (s : State) (cells : List (Nat × Byte)) (h : Memory.wf s.mem = true) :
    Memory.wf (s.putCells cells).mem = true := mem_putAll_wf _ _ h
@[simp] theorem rekey_mem (s : State) (p : Nat) : (s.rekey p).mem = s.mem := by
  unfold State.rekey
  (repeat' split) <;> rfl
@[simp] theorem sendFlit_mem (s : State) (p : Nat) : (State.sendFlit s p).mem = s.mem := by
  simp [State.sendFlit]
@[simp] theorem sendOut_mem (s : State) (chip sec : Nat) (m : OutMsg) : (State.sendOut s chip sec m).mem = s.mem := by
  unfold State.sendOut
  (repeat' split) <;> simp 
@[simp] theorem endNotices_mem (s : State) (tid : Nat) (t : Team) : (State.endNotices s tid t).mem = s.mem := by
  simp [State.endNotices]
@[simp] theorem dropLaunch_mem (s : State) (l code : Nat) : (State.dropLaunch s l code).mem = s.mem := by
  simp [State.dropLaunch]
@[simp] theorem haltLaunch_mem (s : State) (l code : Nat) : (State.haltLaunch s l code).mem = s.mem := by
  simp [State.haltLaunch]
@[simp] theorem abortLaunch_mem (s : State) (nested : Bool) (code : Nat) (pc info : Word) (g : TeamGeom) (f : Bool)
    : (State.abortLaunch s nested code pc info g f).mem = s.mem := by
  simp [State.abortLaunch]
@[simp] theorem takeTrap_mem (s : State) (tid : Nat) (f : Bool) (pc : Word) (len code : Nat) (info : Word) :
    (takeTrap s tid f pc len code info).mem = s.mem := by
  unfold takeTrap
  (repeat' split) <;> simp 
@[simp] theorem blocked_mem (s : State) : (State.blocked s).mem = s.mem := by
  simp [State.blocked]
@[simp] theorem finish_mem (s : State) (tid : Nat) (f : Bool) (len : Nat) : (finish s tid f len).mem = s.mem := by
  simp [finish]
@[simp] theorem parkArm_mem (s : State) (tid : Nat) (f : Bool) (ps : List (Nat × Bool × Bool)) : (parkArm s tid f
    ps).mem = s.mem := by
  simp [parkArm]
@[simp] theorem wakeSector_mem (s : State) (sec : Nat) : (State.wakeSector s sec).mem = s.mem := by
  simp [State.wakeSector]
@[simp] theorem mergeEarly_keeps (s : State) (sec : Nat) (h : Memory.wf s.mem = true) : Memory.wf (State.mergeEarly
    s sec).mem = true := by
  simp [State.mergeEarly, h]
@[simp] theorem tlbPut_mem (s : State) (e : TlbEnt) : (State.tlbPut s e).mem = s.mem := by
  simp [State.tlbPut]
@[simp] theorem tlbInsert_mem (s : State) (u ctx va : Nat) (w : Walk) : (State.tlbInsert s u ctx va w).mem = s.mem
    := by
  unfold State.tlbInsert
  split <;> simp 
@[simp] theorem publishNow_keeps (s : State) (sec : Nat) (h : Memory.wf s.mem = true) :
    Memory.wf (State.publishNow s sec).mem = true := by
  unfold State.publishNow
  dsimp only
  (repeat' split) <;> simp [h]
@[simp] theorem walked_keeps (s : State) (u ctx va : Nat) (h : Memory.wf s.mem = true) : Memory.wf (s.walked u ctx
    va).mem = true := by
  unfold State.walked
  split
  · exact h
  · simp only [tlbInsert_mem]
    exact foldl_keeps _ (fun s x hx => publishNow_keeps s x hx) _ _ h
@[simp] theorem dropFetch_mem (s : State) (tid n : Nat) : (State.dropFetch s tid n).mem = s.mem := by
  simp [State.dropFetch]
@[simp] theorem sendRemote_mem (s : State) (key : Nat) (r : Remote) : (State.sendRemote s key r).mem = s.mem := by
  unfold State.sendRemote
  dsimp only
  (repeat' split) <;> simp 
@[simp] theorem flushRemotes_mem (s : State) : (State.flushRemotes s).mem = s.mem := by
  unfold State.flushRemotes
  (try dsimp only)
  repeat' split
  all_goals first
    | (simp; done)
    | (refine foldl_mem _ (fun s x => ?_) _ _; (try dsimp only); (repeat' split) <;> simp)
    | (refine (foldl_mem _ (fun s x => ?_) _ _).trans ?_ <;> (try dsimp only) <;> (repeat' split) <;> simp)
@[simp] theorem freshOp_mem (s : State) (k : OpKind) (tid : Nat) (f : Bool) (spans : List Span) : (State.freshOp s
    k tid f spans).2.mem = s.mem := by
  simp [State.freshOp]
@[simp] theorem newOp_mem (s : State) (k : OpKind) (tid : Nat) (f : Bool) (spans : List Span) : (State.newOp s k
    tid f spans).2.mem = s.mem := by
  simp [State.newOp]
@[simp] theorem dropOp_mem (s : State) (o : Nat) : (State.dropOp s o).mem = s.mem := by
  simp [State.dropOp]
@[simp] theorem send_mem (s : State) (toHome : Bool) (core sec : Nat) (b : MsgBody) (after : List Nat) :
    (State.send s toHome core sec b after).mem = s.mem := by
  simp [State.send]
@[simp] theorem takeMsg_mem (s : State) (id : Nat) : (State.takeMsg s id).mem = s.mem := by
  simp [State.takeMsg]
@[simp] theorem setL1_keeps (s : State) (c sec : Nat) (x : Option L1Sec) (h : Memory.wf s.mem = true) : Memory.wf
    (State.setL1 s c sec x).mem = true := by
  simp [State.setL1, h]
@[simp] theorem setDir_keeps (s : State) (sec : Nat) (d : DirEnt) (h : Memory.wf s.mem = true) : Memory.wf
    (State.setDir s sec d).mem = true := by
  simp [State.setDir, h]
@[simp] theorem modPart_mem (s : State) (load part : Nat) (g : Load → Part → Part) : (State.modPart s load part
    g).mem = s.mem := by
  unfold State.modPart
  (repeat' split) <;> simp 
@[simp] theorem readyPart_mem (s : State) (load part : Nat) (data : List Byte) : (State.readyPart s load part
    data).mem = s.mem := by
  simp [State.readyPart]
@[simp] theorem readyOld_mem (s : State) (load part : Nat) (old : Nat) : (State.readyOld s load part old).mem =
    s.mem := by
  simp [State.readyOld]
@[simp] theorem readyOlds_mem (s : State) (load part : Nat) (olds : List Nat) (bad : Bool) : (State.readyOlds s
    load part olds bad).mem = s.mem := by
  simp [State.readyOlds]
@[simp] theorem takeReply_mem (s : State) (b : MsgBody) : (State.takeReply s b).mem = s.mem := by
  unfold State.takeReply
  split <;> simp 
@[simp] theorem losePart_mem (s : State) (load part chip : Nat) : (State.losePart s load part chip).mem = s.mem := by
  simp [State.losePart]
@[simp] theorem noInstall_mem (s : State) (c sec : Nat) : (State.noInstall s c sec).mem = s.mem := by
  simp [State.noInstall]
@[simp] theorem countTile_mem (s : State) (key n : Nat) : (State.countTile s key n).mem = s.mem := by
  unfold State.countTile
  split <;> simp 
@[simp] theorem countDelivery_mem (s : State) (cls ctx : Nat) (keys : List Nat) : (State.countDelivery s cls ctx
    keys).mem = s.mem := by
  simp [State.countDelivery]
@[simp] theorem bankWrite_keeps (s : State) (cells : List (Nat × Byte)) (counted : Bool) (h : Memory.wf s.mem =
    true) : Memory.wf (State.bankWrite s cells counted).mem = true := by
  simp [State.bankWrite, h]
@[simp] theorem podEmit_mem (s : State) (m : OutMsg) : (State.podEmit s m).mem = s.mem := by
  simp [State.podEmit]
@[simp] theorem setBatch_mem (s : State) (b : BatchRec) : (State.setBatch s b).mem = s.mem := by
  unfold State.setBatch
  split <;> simp 
@[simp] theorem openRecord_mem (s : State) (chip : Nat) (tag : Option (Nat × Nat)) : (State.openRecord s chip
    tag).mem = s.mem := by
  unfold State.openRecord
  split <;> simp 
@[simp] theorem countBatch_mem (s : State) (chip : Nat) (tag : Option (Nat × Nat)) (e : RemoteEnd) :
    (State.countBatch s chip tag e).mem = s.mem := by
  unfold State.countBatch
  split <;> simp 
@[simp] theorem answerAgain_mem (s : State) (chip seq : Nat) (x : Served) : (State.answerAgain s chip seq x).mem =
    s.mem := by
  simp [State.answerAgain]
@[simp] theorem answerCopy_mem (s : State) (r : Nat × Nat × Option (Nat × Nat)) (e : RemoteEnd) : (State.answerCopy
    s r e).mem = s.mem := by
  simp [State.answerCopy]
@[simp] theorem finishOp_mem (s : State) (o : Nat) (wrote : Bool) : (State.finishOp s o wrote).mem = s.mem := by
  unfold State.finishOp
  dsimp only
  (repeat' split) <;> simp 
@[simp] theorem settleLoad_mem (s : State) (load : Nat) (l : Load) : (State.settleLoad s load l).mem = s.mem := by
  simp [State.settleLoad]
@[simp] theorem arriveDead_mem (s : State) (tid : Nat) : (State.arriveDead s tid).mem = s.mem := by
  unfold State.arriveDead
  split <;> simp 
@[simp] theorem answerChip_mem (s : State) (chip seq : Nat) (e : RemoteEnd) : (State.answerChip s chip seq e).mem =
    s.mem := by
  unfold State.answerChip
  dsimp only
  (repeat' split) <;> simp 
@[simp] theorem answerAgent_mem (s : State) (sec id expiry : Nat) : (State.answerAgent s sec id expiry).mem = s.mem
    := by
  simp [State.answerAgent]
@[simp] theorem answerData_mem (s : State) (sec : Nat) (r : HomeReq) : (State.answerData s sec r).mem = s.mem := by
  unfold State.answerData
  split <;> simp 
@[simp] theorem grantLease_mem (s : State) (sec : Nat) (r : HomeReq) (len : Nat) : (State.grantLease s sec r
    len).mem = s.mem := by
  unfold State.grantLease
  split <;> simp 
@[simp] theorem sendInval_mem (s : State) (sec c : Nat) : (State.sendInval s sec c).mem = s.mem := by
  simp [State.sendInval]
@[simp] theorem commit_keeps (s : State) (sec : Nat) (cells : List (Nat × Byte)) (counted : Bool) (ctx : Nat) (vas
    : List Nat) (h : Memory.wf s.mem = true) : Memory.wf (State.commit s sec cells counted ctx vas).mem = true := by
  simp [State.commit, h]
@[simp] theorem finishAt_mem (s : State) (op sec : Nat) : (State.finishAt s op sec).mem = s.mem := by
  unfold State.finishAt
  (repeat' split) <;> simp 
@[simp] theorem chipHolds_mem (s : State) (chip seq sec : Nat) : (State.chipHolds s chip seq sec).mem = s.mem := by
  unfold State.chipHolds
  split <;> simp 
@[simp] theorem homePerform_keeps (s : State) (sec : Nat) (r : HomeReq) (h : Memory.wf s.mem = true) : Memory.wf
    (State.homePerform s sec r).mem = true := by
  unfold State.homePerform
  dsimp only
  (repeat' split) <;> simp [h]
@[simp] theorem recallOwner_mem (s : State) (sec : Nat) : (State.recallOwner s sec).mem = s.mem := by
  unfold State.recallOwner
  dsimp only
  (repeat' split) <;> simp 
@[simp] theorem serveFree_keeps (s : State) (sec : Nat) (r : HomeReq) (pend : Bool) (h : Memory.wf s.mem = true) :
    Memory.wf (State.serveFree s sec r pend).mem = true := by
  unfold State.serveFree
  (repeat' split) <;> simp [h]
@[simp] theorem holdAcquire_mem (s : State) (sec : Nat) (r : HomeReq) : (State.holdAcquire s sec r).mem = s.mem := by
  simp [State.holdAcquire]
@[simp] theorem invalidateFor_mem (s : State) (sec : Nat) (a : Agent) : (State.invalidateFor s sec a).mem = s.mem
    := by
  simp [State.invalidateFor]
theorem serveQueue_keeps (sec n : Nat) (s : State) (h : Memory.wf s.mem = true) :
    Memory.wf (s.serveQueue sec n).mem = true := by
  induction n generalizing s with
  | zero => exact h
  | succ n ih =>
    unfold State.serveQueue
    dsimp only
    (repeat' split) <;> first | (simp [h]; done) | (apply ih; simp [h])
@[simp] theorem serveAll_keeps (s : State) (sec : Nat) (h : Memory.wf s.mem = true) :
    Memory.wf (s.serveAll sec).mem = true := serveQueue_keeps _ _ _ h
@[simp] theorem homeEnter_keeps (s : State) (sec : Nat) (r : HomeReq) (h : Memory.wf s.mem = true) : Memory.wf
    (State.homeEnter s sec r).mem = true := by
  unfold State.homeEnter
  dsimp only
  (repeat' split) <;> simp [h]
@[simp] theorem homeArrive_keeps (s : State) (sec : Nat) (r : HomeReq) (h : Memory.wf s.mem = true) : Memory.wf
    (State.homeArrive s sec r).mem = true := by
  simp [State.homeArrive, h]
@[simp] theorem releaseHold_keeps (s : State) (sec : Nat) (h : Memory.wf s.mem = true) : Memory.wf (s.releaseHold
    sec).mem = true := by
  simp [State.releaseHold, h]
@[simp] theorem takeHold_keeps (s : State) (sec : Nat) (op : Nat) (h : Memory.wf s.mem = true) : Memory.wf
    (State.takeHold s sec op).mem = true := by
  simp [State.takeHold, h]
@[simp] theorem agentWrite_keeps (s : State) (k : OpKind) (pa : Nat) (data : List Byte) (h : Memory.wf s.mem =
    true) : Memory.wf (State.agentWrite s k pa data).2.mem = true := by
  simp [State.agentWrite, h]
@[simp] theorem askHome_keeps (s : State) (who : ReadAgent) (lease : Option Nat) (sec : Nat) (h : Memory.wf s.mem =
    true) : Memory.wf (State.askHome s who lease sec).mem = true := by
  simp [State.askHome, h]
@[simp] theorem dropReads_mem (s : State) (who : ReadAgent) (p : Nat → Bool) : (State.dropReads s who p).mem =
    s.mem := by
  simp [State.dropReads]
@[simp] theorem agentAsk_keeps (s : State) (who : ReadAgent) (lease : Option Nat) (secs : List Nat) (h : Memory.wf
    s.mem = true) : Memory.wf (State.agentAsk s who lease secs).2.mem = true := by
  unfold State.agentAsk
  (try dsimp only)
  repeat' split
  all_goals first
    | (simp [h]; done)
    | (refine foldl_keeps _ (fun s x hx => ?_) _ _ (by simp [h]); (try dsimp only); (repeat' split) <;> simp [hx])
    | (refine foldl_keeps _ (fun s x hx => ?_) _ _ ?_ <;> (try dsimp only) <;> (repeat' split) <;> simp [*])
@[simp] theorem agentReads_keeps (s : State) (who : ReadAgent) (lease : Option Nat) (secs : List Nat) (h :
    Memory.wf s.mem = true) :
    Memory.wf (s.agentReads who lease secs).2.mem = true := by
  have ha := agentAsk_keeps s who lease secs h
  unfold State.agentReads
  split
  all_goals rename_i heq
  all_goals rw [heq] at ha
  · simpa using ha
  · exact ha

@[simp] theorem askOwn_mem (s : State) (q : Req) (sec : Nat) (act : OwnAct) : (State.askOwn s q sec act).mem =
    s.mem := by
  unfold State.askOwn
  split <;> simp 
@[simp] theorem l1Load_mem (s : State) (q : Req) (sec pol lease load part : Nat) : (State.l1Load s q sec pol lease
    load part).mem = s.mem := by
  unfold State.l1Load
  (repeat' split) <;> simp 
@[simp] theorem l1Perform_mem (s : State) (q : Req) (sec : Nat) (cells : List (Nat × Byte)) : (State.l1Perform s q
    sec cells).mem = s.mem := by
  unfold State.l1Perform
  split <;> simp 
@[simp] theorem l1Store_mem (s : State) (q : Req) (sec pol op : Nat) (cells : List (Nat × Byte)) : (State.l1Store s
    q sec pol op cells).mem = s.mem := by
  unfold State.l1Store
  split <;> simp 
@[simp] theorem l1Atomic_mem (s : State) (q : Req) (sec pol op load part : Nat) (aop : AOp) (wide : Bool) (off :
    Nat) (b c : Word) : (State.l1Atomic s q sec pol op load part aop wide off b c).mem = s.mem := by
  unfold State.l1Atomic
  split <;> simp 
@[simp] theorem l1PerformOp_mem (s : State) (c sec op tid : Nat) (f : Bool) (cells : List (Nat × Byte)) :
    (State.l1PerformOp s c sec op tid f cells).mem = s.mem := by
  simp [State.l1PerformOp]
@[simp] theorem sendDrop_mem (s : State) (c sec : Nat) : (State.sendDrop s c sec).mem = s.mem := by
  simp [State.sendDrop]
@[simp] theorem writeBackOps_mem (s : State) (writers : List (Nat × Bool)) : (State.writeBackOps s writers).2.mem =
    s.mem := by
  simp [State.writeBackOps]
@[simp] theorem evictSector_mem (s : State) (c sec : Nat) : (State.evictSector s c sec).mem = s.mem := by
  unfold State.evictSector
  (repeat' split) <;> simp 
@[simp] theorem makeRoom_mem (s : State) (c sec : Nat) : (State.makeRoom s c sec).mem = s.mem := by
  simp [State.makeRoom]
@[simp] theorem install_mem (s : State) (c sec : Nat) (x : L1Sec) : (State.install s c sec x).mem = s.mem := by
  simp [State.install]
@[simp] theorem publishSectors_mem (s : State) (c : Nat) (p : L1Sec → Bool) : (State.publishSectors s c p).2.mem =
    s.mem := by
  simp [State.publishSectors]
@[simp] theorem dropLeases_mem (s : State) (c : Nat) : (State.dropLeases s c).mem = s.mem := by
  simp [State.dropLeases]
@[simp] theorem splitWriters_mem (s : State) (tid : Nat) : (splitWriters s tid).mem = s.mem := by
  simp [splitWriters]
@[simp] theorem shareWriters_mem (s : State) (tid : Nat) (t t' : Team) : (s.shareWriters tid t t').mem = s.mem := rfl
@[simp] theorem commitArms_mem (s : State) (tid : Nat) (wasSplit : Bool) (t : Team) : (State.commitArms s tid
    wasSplit t).mem = s.mem := by
  unfold State.commitArms
  (repeat' split) <;> simp 
@[simp] theorem elapse_mem (s : State) (ticks : Nat) : (elapse s ticks).mem = s.mem := by
  simp [elapse]
@[simp] theorem fetchStop_mem (s : State) (r : UnitRes) : (fetchStop s r).mem = s.mem := by
  unfold fetchStop fetchStop.parkArm'
  (repeat' split) <;> simp
@[simp] theorem placeWord_keeps (s : State) (nbits w : Nat) (h : Memory.wf s.mem = true) :
    Memory.wf (placeWord s nbits w).mem = true := by
  unfold placeWord
  dsimp only
  exact mem_putAll_wf _ _ h
@[simp] theorem bankArrive_keeps (s : State) (c sec : Nat) (b : HomeBody) (h : Memory.wf s.mem = true) : Memory.wf
    (bankArrive s c sec b).mem = true := by
  unfold bankArrive
  split <;> simp [h]
@[simp] theorem reqArrive_keeps (s : State) (m : Msg) (h : Memory.wf s.mem = true) : Memory.wf (reqArrive s m).mem
    = true := by
  unfold reqArrive
  split <;> simp [h]
@[simp] theorem sharerGone_keeps (s : State) (m : Msg) (h : Memory.wf s.mem = true) : Memory.wf (sharerGone s
    m).mem = true := by
  simp [sharerGone, h]
@[simp] theorem ownerGone_keeps (s : State) (sec core : Nat) (h : Memory.wf s.mem = true) : Memory.wf (ownerGone s
    sec core).mem = true := by
  unfold ownerGone
  dsimp only
  (repeat' split) <;> simp [h]
@[simp] theorem mergeBack_keeps (s : State) (sec : Nat) (cells : List (Nat × Byte)) (h : Memory.wf s.mem = true) :
    Memory.wf (mergeBack s sec cells).mem = true := by
  simp [mergeBack, h]
@[simp] theorem ackAll_mem (s : State) (c sec : Nat) (ops : List Nat) : (ackAll s c sec ops).mem = s.mem := by
  simp [ackAll]
@[simp] theorem holderGone_keeps (s : State) (m : Msg) (h : Memory.wf s.mem = true) : Memory.wf (holderGone s
    m).mem = true := by
  unfold holderGone
  dsimp only
  split
  · exact serveAll_keeps _ _ (by simp [h])
  · simp [h]
@[simp] theorem holderReports_mem (s : State) (m : Msg) : (holderReports s m).mem = s.mem := by
  simp [holderReports]
@[simp] theorem fillPart_mem (s : State) (load part : Nat) (l : Load) (p : Part) : (fillPart s load part l p).mem =
    s.mem := by
  simp [fillPart]
@[simp] theorem handOn_mem (s : State) (a b : Nat) : (State.handOn s a b).mem = s.mem := by
  unfold State.handOn
  (repeat' split) <;> simp 
@[simp] theorem reportFault_mem (s : State) (ctx page die : Nat) (write : Bool) (team : Nat) : (State.reportFault s
    ctx page die write team).mem = s.mem := by
  unfold State.reportFault
  split <;> simp 
@[simp] theorem exportWalked_keeps (s : State) (e off : Nat) (h : Memory.wf s.mem = true) :
    Memory.wf (s.exportWalked e off).mem = true := by
  unfold State.exportWalked
  split <;> simp [h]

@[simp] theorem settleClose_mem (s : State) (tid tag : Nat) (c : Close) : (s.settleClose tid tag c).mem = s.mem := by
  unfold State.settleClose
  exact modTeam_mem _ _ _
@[simp] theorem loseClose_mem (s : State) (chip tid tag : Nat) (c : Close) : (State.loseClose s chip tid tag c).mem
    = s.mem := by
  simp [State.loseClose]
@[simp] theorem notePeer_mem (s : State) (q : Sender) (chip : Nat) (lost : Bool) : (State.notePeer s q chip
    lost).mem = s.mem := by
  unfold State.notePeer
  split <;> simp 
@[simp] theorem unreachable_mem (s : State) (q : Sender) (chip : Nat) (op : RemoteOp) (opId load part : Nat) :
    (State.unreachable s q chip op opId load part).mem = s.mem := by
  simp [State.unreachable]
@[simp] theorem failCmdOp_mem (s : State) (opId code chip : Nat) : (State.failCmdOp s opId code chip).mem = s.mem
    := by
  unfold State.failCmdOp
  (repeat' split) <;> simp 
@[simp] theorem remoteSend_mem (s : State) (q : Sender) (chip exp off n : Nat) (op : RemoteOp) (acq : Bool) (opId
    load part : Nat) (count : Option (Nat × Nat)) : (State.remoteSend s q chip exp off n op acq opId load part
        count).mem = s.mem := by
  simp [State.remoteSend]
@[simp] theorem mcastSend_mem (s : State) (q : Sender) (g exp off : Nat) (cells : List (Nat × Byte)) (rtype rop
    base : Nat)
    (op : State → Nat × State) (count : Option (Nat × Nat)) (ho : ∀ s, (op s).2.mem = s.mem) :
    (s.mcastSend q g exp off cells rtype rop base op count).mem = s.mem := by
  unfold State.mcastSend
  dsimp only
  refine (foldl_mem _ (fun s x => ?_) _ _).trans (by simp)
  (repeat' split) <;> simp [ho]
@[simp] theorem sendLoads_mem (s : State) : (State.sendLoads s).mem = s.mem := by
  unfold State.sendLoads
  (try dsimp only)
  repeat' split
  all_goals first
    | (simp; done)
    | (refine foldl_mem _ (fun s x => ?_) _ _; (try dsimp only); (repeat' split) <;> simp)
    | (refine (foldl_mem _ (fun s x => ?_) _ _).trans ?_ <;> (try dsimp only) <;> (repeat' split) <;> simp)
@[simp] theorem reduceSend_mem (s : State) (g exp off n rop rtype load part : Nat) : (State.reduceSend s g exp off
    n rop rtype load part).mem = s.mem := by
  unfold State.reduceSend
  split <;> simp 
@[simp] theorem passHolds_mem (s : State) (tid : Nat) (f : Bool) (load : Bool) : (State.passHolds s tid f load).mem
    = s.mem := by
  unfold State.passHolds
  (repeat' split) <;> simp 
@[simp] theorem addHold_mem (s : State) (tid : Nat) (f : Bool) (h : Hold) : (State.addHold s tid f h).mem = s.mem
    := by
  simp [State.addHold]
@[simp] theorem wideRelease_mem (s : State) (core tid : Nat) (f : Bool) : (State.wideRelease s core tid f).2.mem =
    s.mem := by
  simp [State.wideRelease]
@[simp] theorem loadPart_mem (k : Ctx) (e : PalEntry) (s : State) (q : Req) (pol n load part base : Nat) (offs :
    List (Nat × Nat)) : (loadPart k e s q pol n load part base offs).mem = s.mem := by
  unfold loadPart
  dsimp only
  (repeat' split) <;> simp 
@[simp] theorem startLoad_mem (k : Ctx) (e : PalEntry) (s : State) (vd n pol : Nat) (sx : Bool) (ord : Order) (keys
    : List (Nat × Nat)) (spans : List Span) : (startLoad k e s vd n pol sx ord keys spans).mem = s.mem := by
  simp [startLoad]
@[simp] theorem narrowNotices_mem (k : Ctx) (s : State) (e : PalEntry) (ord : Order) (secs after : List Nat) :
    (narrowNotices k s e ord secs after).mem = s.mem := by
  simp [narrowNotices]
@[simp] theorem storeSector_keeps (k : Ctx) (e : PalEntry) (q : Req) (pol : Nat) (s : State) (base : Nat) (cells :
    List (Nat × Byte)) (spans : List Span) (h : Memory.wf s.mem = true) : Memory.wf (storeSector k e q pol s base
        cells spans).mem = true := by
  unfold storeSector
  (repeat' split) <;> simp [h]
@[simp] theorem storeAll_keeps (k : Ctx) (e : PalEntry) (q : Req) (pol : Nat) (s : State) (cells : List (Nat ×
    Byte)) (spans : Nat → List Span) (h : Memory.wf s.mem = true) : Memory.wf (storeAll k e q pol s cells
        spans).mem = true := by
  unfold storeAll
  (try dsimp only)
  repeat' split
  all_goals first
    | (simp [h]; done)
    | (refine foldl_keeps _ (fun s x hx => ?_) _ _ (by simp [h]); (try dsimp only); (repeat' split) <;> simp [hx])
    | (refine foldl_keeps _ (fun s x hx => ?_) _ _ ?_ <;> (try dsimp only) <;> (repeat' split) <;> simp [*])
@[simp] theorem stmCopies_mem (k : Ctx) (l : Launch) (e : PalEntry) (vals : List (Nat × List Byte)) (s : State)
    (dest : Nat) : (stmCopies k l e vals s dest).mem = s.mem := by
  simp [stmCopies]
@[simp] theorem atomicLane_keeps (k : Ctx) (f : LA) (wide : Bool) (e : PalEntry) (q : Req) (load part : Nat) (s :
    State) (L key : Nat) (spans : List Span) (h : Memory.wf s.mem = true) : Memory.wf (atomicLane k f wide e q load
        part s L key spans).mem = true := by
  simp [atomicLane, h]
@[simp] theorem atomicPod_mem (k : Ctx) (f : LA) (wide : Bool) (e : PalEntry) (q : Req) (load part : Nat) (s :
    State) (p : AtomPart) (spans : List Span) : (atomicPod k f wide e q load part s p spans).mem = s.mem := by
  simp [atomicPod]
@[simp] theorem atomicPart_keeps (k : Ctx) (f : LA) (wide : Bool) (e : PalEntry) (q : Req) (load part : Nat) (s :
    State) (p : AtomPart) (spans : List (List Span)) (h : Memory.wf s.mem = true) : Memory.wf (atomicPart k f wide
        e q load part s p spans).mem = true := by
  unfold atomicPart
  (try dsimp only)
  repeat' split
  all_goals first
    | (simp [h]; done)
    | (refine foldl_keeps _ (fun s x hx => ?_) _ _ (by simp [h]); (try dsimp only); (repeat' split) <;> simp [hx])
    | (refine foldl_keeps _ (fun s x hx => ?_) _ _ ?_ <;> (try dsimp only) <;> (repeat' split) <;> simp [*])
@[simp] theorem startAtomic_keeps (k : Ctx) (f : LA) (wide : Bool) (e : PalEntry) (ord : Order) (after : List Nat)
    (s : State)
    (keys : List (Nat × Nat)) (spans : List (List Span)) (h : Memory.wf s.mem = true) :
    Memory.wf (startAtomic k f wide e ord after s keys spans).mem = true := by
  unfold startAtomic
  dsimp only
  split
  · rw [addHold_mem]
    exact foldl_keeps _ (fun s x hx => by simp [hx]) _ _ (by simp [h])
  · exact foldl_keeps _ (fun s x hx => by simp [hx]) _ _ (by simp [h])
@[simp] theorem fenceRelease_mem (k : Ctx) (s : State) (scope : Nat) (eng : Bool) : (fenceRelease k s scope
    eng).mem = s.mem := by
  unfold fenceRelease
  split <;> simp 
@[simp] theorem fenceAcquire_mem (k : Ctx) (s : State) (scope : Nat) (eng : Bool) : (fenceAcquire k s scope
    eng).mem = s.mem := by
  simp [fenceAcquire]
@[simp] theorem fenceSc_mem (k : Ctx) (s : State) (eng : Bool) : (fenceSc k s eng).mem = s.mem := by
  simp [fenceSc]
@[simp] theorem setBarrier_keeps (s : State) (key : Nat) (b : Barrier) (h : Memory.wf s.mem = true) : Memory.wf
    (State.setBarrier s key b).mem = true := by
  simp [State.setBarrier, h]
@[simp] theorem releaseBarrier_mem (s : State) (key phase : Nat) (gang : Bool) : (State.releaseBarrier s key phase
    gang).mem = s.mem := by
  simp [State.releaseBarrier]
@[simp] theorem settleBarrier_mem (s : State) (key : Nat) (teams : List Nat) (gang : Bool) : (State.settleBarrier s
    key teams gang).mem = s.mem := by
  simp [State.settleBarrier]
@[simp] theorem arrive_mem (k : Ctx) (s : State) (key num : Nat) (cnt : Option Word) (teams : List Nat) (gang :
    Bool) : (arrive k s key num cnt teams gang).mem = s.mem := by
  simp [arrive]
@[simp] theorem prefetch_mem (k : Ctx) (e : PalEntry) (s : State) (sec base : Nat) : (prefetch k e s sec base).mem
    = s.mem := by
  unfold prefetch
  split <;> simp 
@[simp] theorem cacheOps_mem (k : Ctx) (s : State) (x : L1Sec) (span : List Span) : (cacheOps k s x span).2.mem =
    s.mem := by
  simp [cacheOps]
@[simp] theorem cacheSector_mem (k : Ctx) (op : CacheOp) (e : PalEntry) (ctx : Nat) (s : State) (sec base : Nat) :
    (cacheSector k op e ctx s sec base).mem = s.mem := by
  unfold cacheSector
  dsimp only
  (repeat' split) <;> simp 
@[simp] theorem rangeWalked_keeps (s : State) (l : Launch) (c : Nat) (e : PalEntry) (off len : Nat) (h : Memory.wf
    s.mem = true) :
    Memory.wf (rangeWalked s l c e off len).mem = true :=
  foldl_keeps _ (fun s x hx => walked_keeps s _ _ _ hx) _ _ h
@[simp] theorem parkPause_mem (k : Ctx) (s : State) (watch : Option Nat) : (parkPause k s watch).mem = s.mem := by
  simp [parkPause]
@[simp] theorem setTile_keeps (s : State) (key : Nat) (t : Option Tile) (h : Memory.wf s.mem = true) : Memory.wf
    (State.setTile s key t).mem = true := by
  simp [State.setTile, h]
@[simp] theorem setCmd_keeps (s : State) (c : Nat) (x : Option Cmd) (h : Memory.wf s.mem = true) : Memory.wf
    (State.setCmd s c x).mem = true := by
  simp [State.setCmd, h]
@[simp] theorem modCmd_mem (s : State) (c : Nat) (f : Cmd → Cmd) : (State.modCmd s c f).mem = s.mem := by
  simp [State.modCmd]
@[simp] theorem addLocks_mem (s : State) (launch c core : Nat) (write : Bool) (ps : List Span) : (State.addLocks s
    launch c core write ps).mem = s.mem := by
  simp [State.addLocks]
@[simp] theorem enterCmd_mem (s : State) (k : Ctx) (c : Cmd) (stat : Stat) : (State.enterCmd s k c stat).2.mem =
    s.mem := by
  unfold State.enterCmd
  (repeat' split) <;> simp 
@[simp] theorem markTile_mem (s : State) (code key : Nat) : (State.markTile s code key).mem = s.mem := by
  simp [State.markTile]
@[simp] theorem settleSlice_mem (c : Cmd) (gres : Nat) (extra : List Nat) (s : State) (x : Slice) : (settleSlice c
    gres extra s x).mem = s.mem := by
  unfold settleSlice
  (repeat' split) <;> simp 
@[simp] theorem addFlags_mem (s : State) (tid lane : Nat) (fl : BitVec 8) : (addFlags s tid lane fl).mem = s.mem := by
  simp [addFlags]
@[simp] theorem markBatch_mem (s : State) (cid : Nat) (c : Cmd) : (markBatch s cid c).mem = s.mem := by
  unfold markBatch
  split <;> simp 
@[simp] theorem completeCmd_mem (s : State) (cid gres : Nat) (extra : List Nat) : (State.completeCmd s cid gres
    extra).mem = s.mem := by
  unfold State.completeCmd
  split <;> simp 
@[simp] theorem settleJoin_mem (s : State) (cid : Nat) : (State.settleJoin s cid).mem = s.mem := by
  unfold State.settleJoin
  split <;> simp 
@[simp] theorem askRemote_mem (s : State) (cid sl : Nat) (c : Cmd) (e : PalEntry) (a n : Nat) : (askRemote s cid sl
    c e a n).mem = s.mem := by
  simp [askRemote]
@[simp] theorem parkCmd_mem (s : State) (l : Launch) (cid : Nat) (c : Cmd) (page : Nat) (w : Bool) (team : Nat) :
    (parkCmd s l cid c page w team).mem = s.mem := by
  simp [parkCmd]
@[simp] theorem keepBytes_mem (s : State) (cid i : Nat) (e : PalEntry) (off : Nat) (d : List Byte) :
    (State.keepBytes s cid i e off d).mem = s.mem := by
  simp [State.keepBytes]
@[simp] theorem takeRemote_mem (s : State) (cid : Nat) (c : Cmd) (d : Region) : (takeRemote s cid c d).mem = s.mem
    := by
  simp [takeRemote]
@[simp] theorem releaseRemote_mem (s : State) (cid : Nat) (c : Cmd) (d : Region) (w : List Byte) : (releaseRemote s
    cid c d w).mem = s.mem := by
  simp [releaseRemote]
@[simp] theorem endVersion_keeps (s : State) (cid : Nat) (c : Cmd) (h : Memory.wf s.mem = true) : Memory.wf
    (endVersion s cid c).mem = true := by
  unfold endVersion
  (repeat' split) <;> simp [h]
@[simp] theorem takeGroupOp_mem (s : State) (g : Nat) : (State.takeGroupOp s g).2.mem = s.mem := by
  simp [State.takeGroupOp]
@[simp] theorem startNet_mem (s : State) (cid : Nat) (c : Cmd) : (startNet s cid c).mem = s.mem := by
  have hw : ∀ (s : State) (k : OpKind), ((s.freshOp k 0 false).2.modCmd cid (fun c => c.writing (s.freshOp k 0
      false).1)).mem = s.mem :=
    fun s k => by simp
  have hs : (if c.slices.any (fun x => onNet x.dst) then
      (s.freshOp (.cmdWrite cid none) 0 false).2.modCmd cid (fun c => c.writing (s.freshOp (.cmdWrite cid none) 0
          false).1) else s).mem = s.mem := by
    split
    · exact hw _ _
    · rfl
  unfold startNet
  dsimp only
  split
  · refine (foldl_mem _ (fun s x => ?_) _ _).trans ((hw _ _).trans hs)
    split
    · split
      · apply foldl_mem
        intros
        rfl
      · rfl
    · rfl
  · exact hs
@[simp] theorem startCmd_mem (s : State) (cid : Nat) (c : Cmd) : (startCmd s cid c).mem = s.mem := by
  simp [startCmd]
@[simp] theorem stopCmd_mem (s : State) (cid : Nat) : (State.stopCmd s cid).mem = s.mem := by
  unfold State.stopCmd
  split <;> simp 
@[simp] theorem setCredit_mem (s : State) (cluster lid bytes : Nat) : (setCredit s cluster lid bytes).mem = s.mem
    := by
  simp [setCredit]
@[simp] theorem bankPut_keeps (l : Launch) (g : TeamGeom) (e : PalEntry) (s : State) (off : Nat) (data : List Byte)
    (h : Memory.wf s.mem = true) : Memory.wf (bankPut l g e s off data).mem = true := by
  simp [bankPut, h]
@[simp] theorem putRows_keeps (l : Launch) (g : TeamGeom) (t : Tile) (s : State) (rows : List (List Byte × List
    Byte × Nat)) (h : Memory.wf s.mem = true) : Memory.wf (putRows l g t s rows).mem = true := by
  unfold putRows
  (try dsimp only)
  repeat' split
  all_goals first
    | (simp [h]; done)
    | (refine foldl_keeps _ (fun s x hx => ?_) _ _ (by simp [h]); (try dsimp only); (repeat' split) <;> simp [hx])
    | (refine foldl_keeps _ (fun s x hx => ?_) _ _ ?_ <;> (try dsimp only) <;> (repeat' split) <;> simp [*])
@[simp] theorem setAcc_mem (s : State) (launch core a : Nat) (x : AccSet) : (State.setAcc s launch core a x).mem =
    s.mem := by
  simp [State.setAcc]
@[simp] theorem clearSet_mem (s : State) (c : Cmd) (a : Nat) (clr : Bool) : (clearSet s c a clr).mem = s.mem := by
  simp [clearSet]
@[simp] theorem mepiDone_keeps (s : State) (l : Launch) (cid : Nat) (c : Cmd) (a : Nat) (t : Tile) (put : Bool) (tt
    : Option Tile)
    (gs : Word) (clr unsc rsr : Bool) (h' : Nat) (seed : Word) (hbase : Nat) (h : Memory.wf s.mem = true) :
    Memory.wf (mepiDone s l cid c a t put tt gs clr unsc rsr h' seed hbase).mem = true := by
  unfold mepiDone
  dsimp only
  simp only [modCmd_mem, clearSet_mem]
  split
  · exact putRows_keeps _ _ _ _ _ (by split <;> simp [h])
  · split <;> simp [h]

@[simp] theorem noteAccepted_mem (s : State) (cid : Nat) (off : Nat) : (noteAccepted s cid off).mem = s.mem := by
  unfold noteAccepted
  dsimp only
  (repeat' split) <;> simp 
@[simp] theorem walkPart_mem (core tid : Nat) (e : PalEntry) (n load : Nat) (s : State) (part base : Nat) (offs :
    List (Nat × Nat)) : (walkPart core tid e n load s part base offs).mem = s.mem := by
  unfold walkPart
  split <;> simp 
@[simp] theorem startFetch_mem (s : State) (a b : Nat) (t : Team) (w : Walker) (keys : List (Nat × Nat)) :
    (startFetch s a b t w keys).mem = s.mem := by
  simp [startFetch]
@[simp] theorem loseCopy_mem (s : State) (key : Nat) (r : Remote) (code chip : Nat) : (State.loseCopy s key r code
    chip).mem = s.mem := by
  unfold State.loseCopy
  dsimp only
  (repeat' split) <;> simp 
@[simp] theorem failGroup_mem (s : State) (g chip : Nat) : (State.failGroup s g chip).mem = s.mem := by
  unfold State.failGroup
  split <;> simp 
@[simp] theorem raiseGroupError_mem (s : State) (g chip : Nat) : (State.raiseGroupError s g chip).mem = s.mem := by
  simp [State.raiseGroupError]
@[simp] theorem signalNode_mem (s : State) (g : Nat) (n : TreeNode) : (State.signalNode s g n).mem = s.mem := by
  simp [State.signalNode]
@[simp] theorem sendSec_mem (s : State) (chip : Nat) (x : GroupSec) : (State.sendSec s chip x).mem = s.mem := by
  simp [State.sendSec]
@[simp] theorem rootDeliver_mem (s : State) (n : TreeNode) (x : GroupSec) : (State.rootDeliver s n x).mem = s.mem
    := by
  unfold State.rootDeliver
  split <;> simp 
@[simp] theorem refuseResult_mem (s : State) (x : GroupSec) (e : RemoteEnd) : (State.refuseResult s x e).mem =
    s.mem := by
  simp [State.refuseResult]
@[simp] theorem noteResult_mem (s : State) (x : GroupSec) (live : Option Nat) : (State.noteResult s x live).mem =
    s.mem := by
  unfold State.noteResult
  dsimp only
  (repeat' split) <;> simp 
@[simp] theorem noteWait_mem (s : State) (g op : Nat) : (State.noteWait s g op).mem = s.mem := by
  simp [State.noteWait]
@[simp] theorem endWait_mem (s : State) (g op : Nat) : (State.endWait s g op).mem = s.mem := by
  simp [State.endWait]
@[simp] theorem valueUp_mem (s : State) (q : GroupLoad) (a b up : Nat) (v : LoadVal) : (State.valueUp s q a b up
    v).mem = s.mem := by
  simp [State.valueUp]
@[simp] theorem takeLoadVal_mem (s : State) (b : Nat) (r : RLoad) (v : LoadVal) : (State.takeLoadVal s b r v).mem =
    s.mem := by
  unfold State.takeLoadVal
  split <;> simp 
@[simp] theorem putTree_mem (s : State) (g : Nat) (w : List Word) : (State.putTree s g w).mem = s.mem := by
  unfold State.putTree
  (try dsimp only)
  repeat' split
  all_goals first
    | (simp; done)
    | (refine foldl_mem _ (fun s x => ?_) _ _; (try dsimp only); (repeat' split) <;> simp)
    | (refine (foldl_mem _ (fun s x => ?_) _ _).trans ?_ <;> (try dsimp only) <;> (repeat' split) <;> simp)
@[simp] theorem treeWrite_mem (s : State) (a : Nat) (b : List Word) : (State.treeWrite s a b).mem = s.mem := by
  unfold State.treeWrite
  dsimp only
  (repeat' split) <;> simp 
@[simp] theorem faultEntry_mem (s : State) (kind unit place len : Nat) : (State.faultEntry s kind unit place
    len).mem = s.mem := by
  simp [State.faultEntry]
@[simp] theorem setSite_keeps (s : State) (i : Nat) (x : Site) (h : Memory.wf s.mem = true) : Memory.wf
    (State.setSite s i x).mem = true := by
  simp [State.setSite, h]
@[simp] theorem attested_mem (s : State) (i q : Nat) : (State.attested s i q).mem = s.mem := by
  simp [State.attested]
@[simp] theorem modPacket_mem (s : State) (p : Packet) (f : Packet → Packet) : (State.modPacket s p f).mem = s.mem
    := by
  simp [State.modPacket]
@[simp] theorem endPacket_mem (s : State) (p : Packet) (fail : Option Nat) (gres : Nat) : (State.endPacket s p fail
    gres).mem = s.mem := by
  unfold State.endPacket
  dsimp only
  (repeat' split) <;> simp 
@[simp] theorem withdrawFaults_mem (s : State) (p : Packet) : (State.withdrawFaults s p).mem = s.mem := by
  unfold State.withdrawFaults
  (try dsimp only)
  repeat' split
  all_goals first
    | (simp; done)
    | (refine foldl_mem _ (fun s x => ?_) _ _; (try dsimp only); (repeat' split) <;> simp)
    | (refine (foldl_mem _ (fun s x => ?_) _ _).trans ?_ <;> (try dsimp only) <;> (repeat' split) <;> simp)
@[simp] theorem stopPacket_mem (s : State) (p : Packet) : (State.stopPacket s p).mem = s.mem := by
  unfold State.stopPacket
  split <;> simp 
@[simp] theorem resumePacket_mem (s : State) (p : Packet) : (State.resumePacket s p).mem = s.mem := by
  simp [State.resumePacket]
@[simp] theorem dropPort_keeps (s : State) (site : Nat) (h : Memory.wf s.mem = true) : Memory.wf (State.dropPort s
    site).mem = true := by
  unfold State.dropPort
  (try dsimp only)
  repeat' split
  all_goals first
    | (simp [h]; done)
    | (refine foldl_keeps _ (fun s x hx => ?_) _ _ (by simp [h]); (try dsimp only); (repeat' split) <;> simp [hx])
    | (refine foldl_keeps _ (fun s x hx => ?_) _ _ ?_ <;> (try dsimp only) <;> (repeat' split) <;> simp [*])
@[simp] theorem isolate_keeps (s : State) (site cause : Nat) (h : Memory.wf s.mem = true) : Memory.wf
    (State.isolate s site cause).mem = true := by
  simp [State.isolate, h]
@[simp] theorem sendWork_mem (k : Ctx) (f : CEasel) (l : Launch) (img : List Byte) (slot : Nat) (s : State) :
    (sendWork k f l img slot s).mem = s.mem := by
  simp [sendWork]
@[simp] theorem placeLaunch_mem (s : State) (lid : Nat) (l : Launch) (o : Nat × Nat) (ps : List CorePlan) (pal :
    Store PalEntry) : (placeLaunch s lid l o ps pal).mem = s.mem := by
  simp [placeLaunch]
@[simp] theorem failLaunch_mem (s : State) (lid code : Nat) : (State.failLaunch s lid code).mem = s.mem := by
  simp [State.failLaunch]
@[simp] theorem stopLaunch_mem (s : State) (v : Nat × Launch) : (stopLaunch s v).mem = s.mem := by
  simp [stopLaunch]
@[simp] theorem emptyL1_mem (s : State) (core : Nat) : (emptyL1 s core).mem = s.mem := by
  simp [emptyL1]
@[simp] theorem suspendLaunch_mem (s : State) (lid : Nat) (l : Launch) : (suspendLaunch s lid l).mem = s.mem := by
  simp [suspendLaunch]
@[simp] theorem resumeLaunch_keeps (s : State) (lid : Nat) (l : Launch) (h : Memory.wf s.mem = true) :
    Memory.wf (resumeLaunch s lid l).mem = true := by
  unfold resumeLaunch
  simp [h]
@[simp] theorem endBlock_mem (s : State) (g : TeamGeom) : (endBlock s g).mem = s.mem := by
  simp [endBlock]
@[simp] theorem settleEnd_mem (s : State) (l : Launch) (g : TeamGeom) : (settleEnd s l g).mem = s.mem := by
  simp [settleEnd]
@[simp] theorem endTeam_mem (s : State) (tid : Nat) (t : Team) : (endTeam s tid t).mem = s.mem := by
  unfold endTeam
  dsimp only
  split
  · exact (endBlock_mem _ _).trans ((settleEnd_mem _ _ _).trans (endNotices_mem _ _ _))
  · exact endNotices_mem _ _ _
@[simp] theorem setInst_keeps (s : State) (i : Nat) (x : Option Inst) (h : Memory.wf s.mem = true) : Memory.wf
    (State.setInst s i x).mem = true := by
  simp [State.setInst, h]
@[simp] theorem modInst_mem (s : State) (i : Nat) (f : Inst → Inst) : (State.modInst s i f).mem = s.mem := by
  unfold State.modInst
  split <;> simp 
@[simp] theorem doorbell_mem (s : State) (a : Nat) (b : BitVec 32) : (State.doorbell s a b).mem = s.mem := by
  unfold State.doorbell
  dsimp only
  (repeat' split) <;> simp 
@[simp] theorem Virt.st_ok {α : Type} (x : α) (s : State) : (Virt.ok x s).st = s := rfl
@[simp] theorem Virt.st_replay {α : Type} (p : Nat) (s : State) : (Virt.replay p s : Virt α).st = s := rfl
@[simp] theorem Virt.st_fatal {α : Type} (s : State) : (Virt.fatal s : Virt α).st = s := rfl
@[simp] theorem Virt.st_busy {α : Type} (s : State) : (Virt.busy s : Virt α).st = s := rfl

theorem Virt.bind_keeps {α β : Type} (x : Virt α) (go : α → State → Virt β) (hx : Memory.wf x.st.mem = true)
    (hg : ∀ a s, Memory.wf s.mem = true → Memory.wf (go a s).st.mem = true) : Memory.wf (x.bind go).st.mem = true
        := by
  cases x
  · exact hg _ _ hx
  all_goals exact hx
theorem physOne_keeps (s : State) (ctx va : Nat) (acc : Acc) (h : Memory.wf s.mem = true) :
    Memory.wf (physOne s ctx va acc).st.mem = true := by
  have hw := walked_keeps s (dieUnit 0) ctx va h
  unfold physOne
  generalize s.walked (dieUnit 0) ctx va = s1 at hw ⊢
  dsimp only
  split <;> simpa using hw
theorem physOf_keeps (ctx : Nat) (acc : Acc) (l : List Nat) (s : State) (h : Memory.wf s.mem = true) :
    Memory.wf (physOf ctx acc l s).st.mem = true := by
  induction l generalizing s with
  | nil => exact h
  | cons va r ih => exact Virt.bind_keeps _ _ (physOne_keeps s ctx va acc h) (fun _ s hs => Virt.bind_keeps _ _ (ih
      s hs) (fun _ _ h => h))
theorem readVirt_keeps (s : State) (who : ReadAgent) (ctx va n : Nat) (h : Memory.wf s.mem = true) :
    Memory.wf (readVirt s who ctx va n).st.mem = true := by
  refine Virt.bind_keeps _ _ (physOf_keeps _ _ _ s h) (fun pas s hs => ?_)
  have ha := agentAsk_keeps s who none (pas.map (· / 64)) hs
  dsimp only
  split <;> simpa using ha
theorem writeVirt_keeps (s : State) (ctx va : Nat) (d : List Byte) (kind last : Nat → OpKind) (h : Memory.wf s.mem
    = true) :
    Memory.wf (writeVirt s ctx va d kind last).st.mem = true := by
  refine Virt.bind_keeps _ _ (physOf_keeps _ _ _ s h) (fun pas s hs => ?_)
  dsimp only
  split
  · exact foldl_snd_keeps (β := List Nat) _ (fun a p ha => agentWrite_keeps _ _ _ _ ha) _ ([], s) hs
  · exact hs
@[simp] theorem settleInst_keeps (s : State) (i : Nat) (h : Memory.wf s.mem = true) : Memory.wf (s.settleInst
    i).mem = true := by
  unfold State.settleInst
  split
  · exact h
  · next x hx =>
    split
    · exact h
    · split
      · simp [h]
      · have hw := writeVirt_keeps s x.ctx x.doneAt (leBytes 8 x.doneWord.toNat) (fun _ => .nodeWrite i 0 none)
          (fun _ => .doneWrite i) h
        split
        all_goals rename_i heq
        all_goals rw [heq] at hw
        · simpa using hw
        · simpa using hw
        · exact setInst_keeps _ _ _ hw
        · exact hw

@[simp] theorem cutNode_mem (s : State) (i n : Nat) : (State.cutNode s i n).mem = s.mem := by
  simp [State.cutNode]
@[simp] theorem failNode_keeps (s : State) (i n code : Nat) (h : Memory.wf s.mem = true) : Memory.wf
    (State.failNode s i n code).mem = true := by
  simp [State.failNode, h]
@[simp] theorem failPoison_keeps (s : State) (i n : Nat) (h : Memory.wf s.mem = true) : Memory.wf (State.failPoison
    s i n).mem = true := by
  simp [State.failPoison, h]
@[simp] theorem nodeState_mem (s : State) (i n : Nat) (st : NodeState) : (State.nodeState s i n st).mem = s.mem := by
  simp [State.nodeState]
@[simp] theorem nodeDone_keeps (s : State) (i n : Nat) (succ : List Nat) (h : Memory.wf s.mem = true) : Memory.wf
    (State.nodeDone s i n succ).mem = true := by
  simp [State.nodeDone, h]
@[simp] theorem complStore_keeps (s : State) (i n : Nat) (x : Inst) (d : Node) (succ : List Nat) (h : Memory.wf
    s.mem = true) :
    Memory.wf (s.complStore i n x d succ).mem = true := by
  unfold State.complStore
  split
  · simp [h]
  · have hw := writeVirt_keeps s x.ctx d.compl (leBytes 8 x.seq.toNat) (fun _ => .nodeWrite i n none) (fun _ =>
      .nodeWrite i n none) h
    split
    all_goals rename_i heq
    all_goals rw [heq] at hw
    all_goals (first | (split <;> simp_all [Virt.st]; done) | simp_all [Virt.st])

@[simp] theorem flushLaunch_mem (s : State) (lid : Nat) : (flushLaunch s lid).mem = s.mem := by
  simp [flushLaunch]
@[simp] theorem clearRing_keeps (s : State) (r : Nat) (h : Memory.wf s.mem = true) : Memory.wf (s.clearRing r).mem
    = true := by
  unfold State.clearRing
  dsimp only
  simp only [setBar0_mem]
  refine foldl_keeps _ (fun s x hx => ?_) _ _ (by simp [h])
  simp [hx]
@[simp] theorem modPort_mem (s : State) (p : Nat) (f : Port → Port) : (State.modPort s p f).mem = s.mem := by
  simp [State.modPort]
@[simp] theorem setRemote_keeps (s : State) (key : Nat) (r : Option Remote) (h : Memory.wf s.mem = true) :
    Memory.wf (State.setRemote s key r).mem = true := by
  simp [State.setRemote, h]
@[simp] theorem askAgain_mem (s : State) : s.askAgain.mem = s.mem := by
  unfold State.askAgain
  refine foldl_mem _ (fun s t => foldl_mem _ (fun s c => foldl_mem _ (fun s a => ?_) _ _) _ _) _ _
  split <;> simp
@[simp] theorem sendAgain_mem (s : State) : s.sendAgain.mem = s.mem := by
  simp [State.sendAgain]
@[simp] theorem dropPortLink_mem (s : State) (p : Nat) : (State.dropPortLink s p).mem = s.mem := by
  simp [State.dropPortLink]
@[simp] theorem setWaiting_mem (s : State) (r : RemoteReq) (w : Bool) : (State.setWaiting s r w).mem = s.mem := by
  simp [State.setWaiting]
@[simp] theorem serveBank_keeps (s : State) (r : RemoteReq) (key : Nat) (h : Memory.wf s.mem = true) : Memory.wf
    (State.serveBank s r key).mem = true := by
  unfold State.serveBank
  split <;> simp [h]
@[simp] theorem letGo_keeps (s : State) (r : RemoteReq) (cells : List (Nat × Byte)) (h : Memory.wf s.mem = true) :
    Memory.wf (State.letGo s r cells).mem = true := by
  unfold State.letGo
  dsimp only
  (repeat' split) <;> simp [h]
@[simp] theorem serveRemote_keeps (s : State) (r : RemoteReq) (h : Memory.wf s.mem = true) :
    Memory.wf (s.serveRemote r).mem = true := by
  have he := exportWalked_keeps s r.exp r.off h
  unfold State.serveRemote
  dsimp only
  generalize s.exportWalked r.exp r.off = x at he
  (repeat' split) <;> first | (simp [he]; done) | exact homeArrive_keeps _ _ _ (by simp [he])
@[simp] theorem retryServed_keeps (s : State) (h : Memory.wf s.mem = true) : Memory.wf s.retryServed.mem = true := by
  unfold State.retryServed
  exact foldl_keeps _ (fun s x hx => by split <;> simp [hx]) _ _ h

@[simp] theorem remoteBytes_mem (s : State) (r : Remote) (data : List Byte) : (State.remoteBytes s r data).mem =
    s.mem := by
  unfold State.remoteBytes
  (repeat' split) <;> simp 
@[simp] theorem remoteData_mem (s : State) (r : Remote) (data : List Byte) (lease : Nat) : (State.remoteData s r
    data lease).mem = s.mem := by
  simp [State.remoteData]
@[simp] theorem remotePoison_mem (s : State) (r : Remote) (data : List Byte) : (State.remotePoison s r data).mem =
    s.mem := by
  simp [State.remotePoison]
@[simp] theorem remoteWritten_mem (s : State) (r : Remote) : (State.remoteWritten s r).mem = s.mem := by
  unfold State.remoteWritten
  split <;> simp 
@[simp] theorem remoteOlds_mem (s : State) (r : Remote) (aop : AOp) (wide : Bool) (lanes : List (Nat × Word ×
    Word)) (data : List Byte) (bad : Bool) : (State.remoteOlds s r aop wide lanes data bad).mem = s.mem := by
  simp [State.remoteOlds]
@[simp] theorem remoteHeld_mem (s : State) (r : Remote) (data : List Byte) : (State.remoteHeld s r data).mem =
    s.mem := by
  unfold State.remoteHeld
  (repeat' split) <;> simp 
@[simp] theorem endRemote_mem (s : State) (chip : Nat) (key : Nat) (r : Remote) : (State.endRemote s chip key
    r).mem = s.mem := by
  unfold State.endRemote
  split <;> simp 
@[simp] theorem declareDead_keeps (s : State) (chip : Nat) (h : Memory.wf s.mem = true) : Memory.wf (s.declareDead
    chip).mem = true := by
  unfold State.declareDead
  dsimp only
  refine foldl_keeps _ (fun s g hg => by split <;> simp [hg]) _ _ (foldl_keeps _ (fun s g hg => by simp [hg]) _ _ ?_)
  refine foldl_keeps _ (fun s t ht => foldl_keeps _ (fun s c hc => by simp [hc]) _ _ ht) _ _ (foldl_keeps _ (fun s
      x hx => ?_) _ _ (by simp [h]))
  split <;> simp [hx]
@[simp] theorem endNet_mem (s : State) (cid : Nat) (o : Option Nat) : (State.endNet s cid o).mem = s.mem := by
  unfold State.endNet
  split <;> simp 
@[simp] theorem fatalWaiters_mem (s : State) (ws : List (ArmId × Nat × Nat × Bool)) : (State.fatalWaiters s ws).mem
    = s.mem := by
  simp [State.fatalWaiters]
@[simp] theorem endFault_mem (s : State) (ctx page : Nat) : (State.endFault s ctx page).mem = s.mem := by
  simp [State.endFault]
@[simp] theorem resolveGuests_mem (s : State) (ctx page res : Nat) : (s.resolveGuests ctx page res).mem = s.mem := by
  unfold State.resolveGuests
  refine foldl_mem _ (fun s p => ?_) _ _
  refine Eq.trans (foldl_mem _ (fun s x => ?_) _ _) (modPacket_mem _ _ _)
  rfl
@[simp] theorem retryAll_keeps (s : State) (h : Memory.wf s.mem = true) : Memory.wf s.retryAll.mem = true :=
  foldl_keeps _ (fun s x hx => settleInst_keeps s _ hx) _ _ (retryServed_keeps s h)

@[simp] theorem xinvWrite_mem (s : State) (a : Word) : (State.xinvWrite s a).mem = s.mem := by
  unfold State.xinvWrite
  (try dsimp only)
  repeat' split
  all_goals first
    | (simp; done)
    | (refine foldl_mem _ (fun s x => ?_) _ _; (try dsimp only); (repeat' split) <;> simp)
    | (refine (foldl_mem _ (fun s x => ?_) _ _).trans ?_ <;> (try dsimp only) <;> (repeat' split) <;> simp)
@[simp] theorem heard_mem (s : State) (site : Nat) : (State.heard s site).mem = s.mem := by
  simp [State.heard]
@[simp] theorem closePacket_mem (s : State) (p : Packet) (fail : Option Nat) (gres : Nat) : (State.closePacket s p
    fail gres).mem = s.mem := by
  unfold State.closePacket
  split <;> simp 
@[simp] theorem portRead_keeps (s : State) (q : GuestPkt) (lease : Option Nat) (pa : Nat) (h : Memory.wf s.mem =
    true) :
    Memory.wf (portRead s q lease pa).mem = true := by
  have ha := agentReads_keeps s (.guest q.site q.queue q.seq) lease [pa / 64] h
  unfold portRead
  split
  all_goals rename_i heq
  all_goals rw [heq] at ha
  · split <;> exact ha
  · exact ha

@[simp] theorem hostPiece_keeps (s : State) (x : Nat × List Byte) (h : Memory.wf s.mem = true) : Memory.wf
    (State.hostPiece s x).mem = true := by
  simp [State.hostPiece, h]
@[simp] theorem mailbox_keeps (s : State) (go : State → State) (hg : ∀ s, Memory.wf s.mem = true → Memory.wf (go
    s).mem = true)
    (h : Memory.wf s.mem = true) : Memory.wf (s.mailbox go).mem = true := by
  unfold State.mailbox
  dsimp only
  split
  · simp [h]
  · exact hg _ (by simp [h])
@[simp] theorem clearAbort_mem (s : State) (die : Nat) : (State.clearAbort s die).mem = s.mem := by
  unfold State.clearAbort
  split <;> simp 
@[simp] theorem timectlWrite_mem (s : State) (v : Word) : (State.timectlWrite s v).mem = s.mem := by
  unfold State.timectlWrite
  dsimp only
  (repeat' split) <;> simp 
@[simp] theorem pwrcapWrite_mem (s : State) (v : Word) : (State.pwrcapWrite s v).mem = s.mem := by
  simp [State.pwrcapWrite]
@[simp] theorem fthreshWrite_mem (s : State) (v : Word) : (State.fthreshWrite s v).mem = s.mem := by
  unfold State.fthreshWrite
  dsimp only
  (repeat' split) <;> simp 
@[simp] theorem ringWrite_keeps (s : State) (r o : Nat) (v : Word) (h : Memory.wf s.mem = true) : Memory.wf
    (State.ringWrite s r o v).mem = true := by
  unfold State.ringWrite
  (repeat' split) <;> simp [h]
@[simp] theorem poolWrite_mem (s : State) (off : Nat) (v : Word) : (State.poolWrite s off v).mem = s.mem := by
  unfold State.poolWrite
  (repeat' split) <;> simp 
@[simp] theorem regWrite_keeps (s : State) (off : Nat) (v : Word) (h : Memory.wf s.mem = true) : Memory.wf
    (State.regWrite s off v).mem = true := by
  unfold State.regWrite
  dsimp only
  (repeat' split) <;> simp [h]
@[simp] theorem unpowered_keeps (s : State) (h : Memory.wf s.mem = true) : Memory.wf s.unpowered.mem = true :=
  filter_swf _ _ _ h
@[simp] theorem trip_keeps (s : State) (place : Nat) (h : Memory.wf s.mem = true) : Memory.wf (State.trip s
    place).mem = true := by
  simp [State.trip, h]
@[simp] theorem restart_keeps (s : State) (h : Memory.wf s.mem = true) : Memory.wf s.restart.mem = true :=
    unpowered_keeps s h
@[simp] theorem stageFails_mem (s : State) (code stage : Nat) : (State.stageFails s code stage).mem = s.mem := by
  simp [State.stageFails]
@[simp] theorem attestSite_mem (s : State) (i : Nat) (g : Option Nat) : (State.attestSite s i g).mem = s.mem := by
  unfold State.attestSite
  split <;> simp 
@[simp] theorem fencedToHome_keeps (s : State) (m : Msg) (h : Memory.wf s.mem = true) : Memory.wf (fencedToHome s
    m).mem = true := by
  unfold fencedToHome
  split <;> simp [h]
@[simp] theorem fencedToCore_mem (s : State) (m : Msg) : (fencedToCore s m).mem = s.mem := by
  unfold fencedToCore
  split <;> simp 
@[simp] theorem settleNet_keeps (s : State) (c : Nat) (h : Memory.wf s.mem = true) : Memory.wf (s.settleNet c).mem
    = true := by
  unfold State.settleNet
  dsimp only
  refine foldl_keeps _ (fun s m hx => ?_) _ _ h
  split <;> simp [hx]
@[simp] theorem poisonSector_mem (s : State) (sec : Nat) : (State.poisonSector s sec).mem = s.mem := by
  simp [State.poisonSector]
@[simp] theorem enterPoison_mem (s : State) (unit sec : Nat) : (State.enterPoison s unit sec).mem = s.mem := by
  simp [State.enterPoison]
@[simp] theorem salvage_keeps (s : State) (c : Nat) (unread : List Nat) (h : Memory.wf s.mem = true) :
    Memory.wf (s.salvage c unread).mem = true := by
  unfold State.salvage
  refine foldl_keeps _ (fun s x hx => ?_) _ _ h
  dsimp only
  (repeat' split) <;> simp [hx]
@[simp] theorem leaveHome_keeps (s : State) (c sec : Nat) (h : Memory.wf s.mem = true) : Memory.wf (s.leaveHome c
    sec).mem = true := by
  unfold State.leaveHome
  dsimp only
  exact serveAll_keeps _ _ (holderGone_keeps _ _ (by simp [h]))

@[simp] theorem fenceLaunch_mem (s : State) (lid c code : Nat) : (State.fenceLaunch s lid c code).mem = s.mem := by
  simp [State.fenceLaunch]
@[simp] theorem fenceCore_keeps (s : State) (c : Nat) (unread : List Nat) (h : Memory.wf s.mem = true) :
    Memory.wf (s.fenceCore c unread).mem = true := by
  unfold State.fenceCore
  split
  · exact h
  · refine foldl_keeps _ (fun s x hx => leaveHome_keeps s c x hx) _ _ ?_
    refine foldl_keeps _ (fun s x hx => by simp [hx]) _ _ ?_
    refine foldl_keeps _ (fun s x hx => by simp [hx]) _ _ ?_
    exact salvage_keeps _ _ _ (settleNet_keeps _ _ (by simp [h]))

@[simp] theorem poisonPage_mem (s : State) (page : Nat) : (State.poisonPage s page).mem = s.mem := by
  simp [State.poisonPage]
@[simp] theorem fencePort_mem (s : State) (p : Nat) : (State.fencePort s p).mem = s.mem := by
  simp [State.fencePort]
@[simp] theorem fenceChip_mem (s : State) : (State.fenceChip s).mem = s.mem := by
  simp [State.fenceChip]
@[simp] theorem fenceUnit_keeps (s : State) (src : ErrSource) (unread : List Nat) (h : Memory.wf s.mem = true) :
    Memory.wf (State.fenceUnit s src unread).mem = true := by
  unfold State.fenceUnit
  split <;> simp [h]
@[simp] theorem countError_mem (s : State) (src : ErrSource) : (State.countError s src).mem = s.mem := by
  simp [State.countError]
@[simp] theorem errorEvent_keeps (s : State) (src : ErrSource) (unread : List Nat) (h : Memory.wf s.mem = true) :
    Memory.wf (State.errorEvent s src unread).mem = true := by
  simp [State.errorEvent, h]
@[simp] theorem trying_mem (s : State) (a : ArmId) : (State.trying s a).mem = s.mem := by
  simp [State.trying]
@[simp] theorem noteIssue_mem (s : State) (a : ArmId) (pipe : Nat) : (State.noteIssue s a pipe).mem = s.mem := by
  simp [State.noteIssue]
@[simp] theorem nextCycle_mem (s : State) : (nextCycle s).mem = s.mem := by
  simp [nextCycle]
@[simp] theorem stopIdle_mem (s : State) : (stopIdle s).mem = s.mem := by
  simp [stopIdle]

/-! ### Outcomes -/

/-- An enabled event gives the state it names. -/
theorem whenEnabled_next (name : String) (p : Bool) (s s' : State) (h : whenEnabled name p s = .next s') : s = s'
    := by
  unfold whenEnabled at h
  split at h <;> cases h
  rfl

/-- What a unit's answer leaves: memory stays canonical when the effect's state has it. -/
theorem out_keeps (r : Res) (s s' : State) (tid : Nat) (f : Bool) (pc : Word) (len : Nat) (h : Memory.wf s.mem = true)
    (hr : ∀ x, (r = .done x ∨ r = .jump x ∨ r = .stay x) → Memory.wf x.mem = true) (ho : r.out s tid f pc len =
        .next s') :
    Memory.wf s'.mem = true := by
  cases r with
  | done x =>
    have := hr x (.inl rfl)
    cases ho
    simp [this]
  | jump x =>
    have := hr x (.inr (.inl rfl))
    cases ho
    exact this
  | trap code info => cases ho; simp [h]
  | wait => cases ho; simp [h]
  | stay x =>
    have := hr x (.inr (.inr rfl))
    cases ho
    exact this
  | park ps => cases ho; simp [h]

/-- A unit keeps memory canonical when its effect does. -/
theorem issueUnit_keeps (i : Instr) (u : Use) (s s' : State) (eff : Ctx → State → Res) (eng : Bool)
    (h : Memory.wf s.mem = true)
    (he : ∀ k x y, Memory.wf x.mem = true → (eff k x = .done y ∨ eff k x = .jump y ∨ eff k x = .stay y) →
      Memory.wf y.mem = true)
    (ho : issueUnit i u s eff eng = .next s') : Memory.wf s'.mem = true := by
  unfold issueUnit at ho
  dsimp only at ho
  repeat' split at ho
  all_goals first
    | (cases ho; done)
    | (cases ho; simp [h]; done)
    | (refine out_keeps _ _ _ _ _ _ _ h (fun x hx => ?_) ho
       first
         | (exact he _ _ _ (by simp [h]) hx)
         | (rcases hx with hx | hx | hx <;> cases hx <;> simp [h])
         | (split at hx <;> first | (exact he _ _ _ (by simp [h]) hx) | (rcases hx with hx | hx | hx <;> cases hx
             <;> simp [h])))

end Sys2Proof.Machine
end

