-- ==== Sys2Proof/Laws/PerInstr.lean ====
section
/-! SUPPORT. For every instruction: the words its encoding lays down are 32-bit words (R9). -/

namespace Sys2Proof.Laws

theorem bit1_le (b : Bool) : bit1 b ≤ 1 := by cases b <;> decide

theorem mkWord_lt (s : Bool) {op rest : Nat} (h : op < 64) (hr : rest < 2 ^ 25) : mkWord s op rest < 2 ^ 32 := by
  cases s <;> simp only [mkWord, if_true, if_false, Bool.false_eq_true] <;> omega

theorem IW_code_lt (x : IW) : x.code < 4 := by cases x <;> decide
theorem FF_code_lt (x : FF) : x.code < 4 := by cases x <;> decide
theorem NF_code_lt (x : NF) : x.code < 16 := by cases x <;> decide
theorem Policy_code_lt (x : Policy) : x.code < 4 := by cases x <;> decide
theorem CC_code_lt (x : CC) : x.code < 8 := by cases x <;> decide
theorem FCC_code_lt (x : FCC) : x.code < 8 := by cases x <;> decide
theorem Cmb_code_lt (x : Cmb) : x.code < 4 := by cases x <;> decide
theorem AOp_code_lt (x : AOp) : x.code < 16 := by cases x <;> decide
theorem RedOp_code_lt (x : RedOp) : x.code < 16 := by cases x <;> decide
theorem Scope_code_lt (x : Scope) : x.code < 8 := by cases x <;> decide
theorem OrdKind_code_lt (x : OrdKind) : x.code < 4 := by cases x <;> decide
theorem FenceKind_code_lt (x : FenceKind) : x.code < 4 := by cases x <;> decide
theorem PalQ_code_lt (x : PalQ) : x.code < 16 := by cases x <;> decide
theorem CReg_code_lt (x : CReg) : x.code < 64 := by cases x <;> decide
theorem IW_szCode_lt (x : IW) : x.szCode < 4 := by cases x <;> decide
theorem rmCode_lt (x : Option Rm) : rmCode x < 8 := by
  cases x with
  | none => decide
  | some r => cases r <;> decide

theorem eStat_lt (x : Stat) : eStat x < 2 ^ 32 := by
  cases x with
  | none => decide
  | some g => have := g.isLt; simp only [eStat]; omega

theorem eBarCnt_lt (x : Option (BitVec 6)) : eBarCnt x < 2 ^ 15 := by
  cases x with
  | none => decide
  | some g => have := g.isLt; simp only [eBarCnt]; omega

/-- The status field of a command leaves bits [24:0] free and fits a word. -/
theorem stat_split (x : Stat) : eStat x + 2 ^ 25 ≤ 2 ^ 32 := by
  cases x with
  | none => decide
  | some g => have := g.isLt; simp only [eStat]; omega

theorem eUK_lt {qg sg a b c k : Nat} (h1 : qg < 8) (h2 : sg < 4) (h3 : a < 64) (h4 : b < 64) (h5 : c < 64) (h6 : k < 4) :
    eUK qg sg a b c k < 2 ^ 25 := by
  simp only [eUK]; omega

theorem eLR_lt (f : LR) : eLR f < 2 ^ 25 := by
  have := bit1_le f.ta
  have := bit1_le f.tb
  have := f.pg.isLt
  have := f.vd.isLt
  have := f.va.isLt
  have := f.vb.isLt
  have := IW_code_lt f.ty
  simp only [eLR]
  omega

theorem eFR_lt (f : FR) : eFR f < 2 ^ 25 := by
  have := bit1_le f.ta
  have := bit1_le f.tb
  have := f.pg.isLt
  have := f.vd.isLt
  have := f.va.isLt
  have := f.vb.isLt
  have := FF_code_lt f.ty
  simp only [eFR]
  omega

theorem eHR_lt (f : HR) : eHR f < 2 ^ 25 := by
  have := bit1_le f.bf
  have := bit1_le f.ta
  have := bit1_le f.tb
  have := f.pg.isLt
  have := f.vd.isLt
  have := f.va.isLt
  have := f.vb.isLt
  simp only [eHR]
  omega

theorem eLF_lt (f : LF) {fn : Nat} (hfn : fn < 4) : eLF f fn < 2 ^ 25 := by
  have := f.pg.isLt
  have := f.vd.isLt
  have := f.va.isLt
  have := f.vb.isLt
  have := IW_code_lt f.ty
  simp only [eLF]
  omega

theorem eLU_lt (f : LU) {fn : Nat} (hfn : fn < 16) : eLU f fn < 2 ^ 25 := by
  have := bit1_le f.ta
  have := f.pg.isLt
  have := f.vd.isLt
  have := f.va.isLt
  have := IW_code_lt f.ty
  simp only [eLU]
  omega

theorem eFU_lt (f : FU) {fn : Nat} (hfn : fn < 16) : eFU f fn < 2 ^ 25 := by
  have := bit1_le f.ta
  have := f.pg.isLt
  have := f.vd.isLt
  have := f.va.isLt
  have := FF_code_lt f.ty
  simp only [eFU]
  omega

theorem eLI_lt (f : LI) : eLI f < 2 ^ 25 := by
  have := f.pg.isLt
  have := f.vd.isLt
  have := f.va.isLt
  have := f.imm.isLt
  simp only [eLI]
  omega

theorem eLSh_lt (f : LSh) : eLSh f < 2 ^ 25 := by
  have := f.pg.isLt
  have := f.vd.isLt
  have := f.va.isLt
  have := f.c.isLt
  simp only [eLSh]
  omega

theorem eLMov_lt (f : LMov) : eLMov f < 2 ^ 25 := by
  have := f.pg.isLt
  have := f.vd.isLt
  have := f.imm.isLt
  simp only [eLMov]
  omega

theorem eLSel_lt (f : LSel) : eLSel f < 2 ^ 25 := by
  have := bit1_le f.inv
  have := f.pg.isLt
  have := f.vd.isLt
  have := f.va.isLt
  have := f.vb.isLt
  have := f.ps.isLt
  simp only [eLSel]
  omega

theorem eLC_lt (f : LC) : eLC f < 2 ^ 25 := by
  have := f.pg.isLt
  have := f.pd.isLt
  have := f.va.isLt
  have := f.vb.isLt
  have := CC_code_lt f.cc
  have := IW_code_lt f.ty
  have := Cmb_code_lt f.cmb
  simp only [eLC]
  omega

theorem eFC_lt (f : FC) : eFC f < 2 ^ 25 := by
  have := f.pg.isLt
  have := f.pd.isLt
  have := f.va.isLt
  have := f.vb.isLt
  have := FCC_code_lt f.cc
  have := FF_code_lt f.ty
  have := Cmb_code_lt f.cmb
  simp only [eFC]
  omega

theorem eLQ_lt (pg : BitVec 3) (pd : BitVec 3) (pa : BitVec 3) (pb : BitVec 3) {fn : Nat} (hfn : fn < 16) : eLQ pg pd pa pb fn < 2 ^ 25 := by
  have := pg.isLt
  have := pd.isLt
  have := pa.isLt
  have := pb.isLt
  simp only [eLQ]
  omega

theorem eLCvt_lt (f : LCvt) : eLCvt f < 2 ^ 25 := by
  have := bit1_le f.ta
  have := f.pg.isLt
  have := f.vd.isLt
  have := f.va.isLt
  have := FF_code_lt f.src
  have := FF_code_lt f.dst
  have := rmCode_lt f.rm
  simp only [eLCvt]
  omega

theorem eLCvtI_lt (f : LCvtI) : eLCvtI f < 2 ^ 25 := by
  have := bit1_le f.uns
  have := bit1_le f.ta
  have := f.pg.isLt
  have := f.vd.isLt
  have := f.va.isLt
  have := IW_code_lt f.iw
  have := FF_code_lt f.ff
  have := rmCode_lt f.rm
  simp only [eLCvtI]
  omega

theorem eLICvt_lt (f : LICvt) : eLICvt f < 2 ^ 25 := by
  have := bit1_le f.sat
  have := bit1_le f.sgn
  have := bit1_le f.ta
  have := f.pg.isLt
  have := f.vd.isLt
  have := f.va.isLt
  have := IW_code_lt f.src
  have := IW_code_lt f.dst
  simp only [eLICvt]
  omega

theorem eLN_lt (f : LN) : eLN f < 2 ^ 25 := by
  have := f.pg.isLt
  have := f.vd.isLt
  have := f.va.isLt
  have := f.vb.isLt
  have := NF_code_lt f.nf
  simp only [eLN]
  omega

theorem eLW_lt (f : LW) : eLW f < 2 ^ 25 := by
  have := bit1_le f.ta
  have := f.pg.isLt
  have := f.vd.isLt
  have := f.va.isLt
  have := NF_code_lt f.nf
  have := FF_code_lt f.ty
  simp only [eLW]
  omega

theorem eLX_lt (f : LX) : eLX f < 2 ^ 25 := by
  have := bit1_le f.ta
  have := f.pg.isLt
  have := f.vd.isLt
  have := f.va.isLt
  have := f.ty.isLt
  have := RedOp_code_lt f.op
  simp only [eLX]
  omega

theorem eLXS_lt (f : LXS) : eLXS f < 2 ^ 25 := by
  have := bit1_le f.ex
  have := bit1_le f.ta
  have := f.pg.isLt
  have := f.vd.isLt
  have := f.va.isLt
  have := f.ty.isLt
  have := RedOp_code_lt f.op
  simp only [eLXS]
  omega

theorem eLMv_lt (f : LMv) {fn : Nat} (hfn : fn < 16) : eLMv f fn < 2 ^ 25 := by
  have := bit1_le f.ta
  have := f.pg.isLt
  have := f.rd.isLt
  have := f.ra.isLt
  simp only [eLMv]
  omega

theorem eLM_lt (f : LM) : eLM f < 2 ^ 25 := by
  have := f.pg.isLt
  have := f.vd.isLt
  have := f.vo.isLt
  have := f.gh.isLt
  have := Policy_code_lt f.pol
  have := IW_szCode_lt f.sz
  simp only [eLM]
  omega

theorem eLA_lt (f : LA) : eLA f < 2 ^ 25 := by
  have := f.pg.isLt
  have := f.vd.isLt
  have := f.vo.isLt
  have := f.gh.isLt
  have := AOp_code_lt f.aop
  simp only [eLA]
  omega

theorem eUR_lt (f : UR) {fn : Nat} (hfn : fn < 16) : eUR f fn < 2 ^ 25 := by
  have := f.qg.isLt
  have := f.gd.isLt
  have := f.ga.isLt
  have := f.gb.isLt
  simp only [eUR]
  omega

theorem eUU_lt (f : UU) {fn : Nat} (hfn : fn < 16) : eUU f fn < 2 ^ 25 := by
  have := f.qg.isLt
  have := f.gd.isLt
  have := f.ga.isLt
  simp only [eUU]
  omega

theorem eUI_lt (f : UI) : eUI f < 2 ^ 25 := by
  have := f.qg.isLt
  have := f.gd.isLt
  have := f.ga.isLt
  have := f.imm.isLt
  simp only [eUI]
  omega

theorem eUSh_lt (f : USh) : eUSh f < 2 ^ 25 := by
  have := f.qg.isLt
  have := f.gd.isLt
  have := f.ga.isLt
  have := f.c.isLt
  simp only [eUSh]
  omega

theorem eUMov_lt (f : UMov) : eUMov f < 2 ^ 25 := by
  have := f.qg.isLt
  have := f.gd.isLt
  have := f.imm.isLt
  simp only [eUMov]
  omega

theorem eUC_lt (f : UC) : eUC f < 2 ^ 25 := by
  have := f.qg.isLt
  have := f.qd.isLt
  have := f.ga.isLt
  have := f.gb.isLt
  have := CC_code_lt f.cc
  have := Cmb_code_lt f.cmb
  simp only [eUC]
  omega

theorem eUSel_lt (f : USel) : eUSel f < 2 ^ 25 := by
  have := bit1_le f.inv
  have := f.qg.isLt
  have := f.gd.isLt
  have := f.ga.isLt
  have := f.gb.isLt
  have := f.qs.isLt
  simp only [eUSel]
  omega

theorem eUBar_lt (f : UBar) {fn : Nat} (hfn : fn < 4) : eUBar f fn < 2 ^ 25 := by
  have := f.qg.isLt
  have := f.b.isLt
  have := eBarCnt_lt f.cnt
  simp only [eUBar]
  omega

theorem eUCache_lt (f : UCache) {fn : Nat} (hfn : fn < 4) : eUCache f fn < 2 ^ 25 := by
  have := f.qg.isLt
  have := f.gh.isLt
  have := f.go.isLt
  have := f.gl.isLt
  simp only [eUCache]
  omega

end Sys2Proof.Laws

namespace Sys2Proof.Laws.Encoded

/-- Every word of the instruction's encoding is a 32-bit word. -/
def Statement (i : Instr) : Prop := ∀ w ∈ encode i, w < 2 ^ 32

theorem none_of {i : Instr} (h : encode i = []) : Statement i := by simp [Statement, h]

theorem one_of {i : Instr} {w : Nat} (h : encode i = [w]) (hw : w < 2 ^ 32) : Statement i := by
  simpa [Statement, h] using hw

theorem two_of {i : Instr} {w x : Nat} (h : encode i = [w, x]) (hw : w < 2 ^ 32) (hx : x < 2 ^ 32) : Statement i := by
  simpa [Statement, h] using ⟨hw, hx⟩

theorem access_lt (a : Access) : a.encode < 2 ^ 32 := by
  cases a with
  | ld f => exact mkWord_lt false (op := 0x37) (by decide) (eLM_lt f)
  | lds f => exact mkWord_lt false (op := 0x38) (by decide) (eLM_lt f)
  | st f => exact mkWord_lt false (op := 0x39) (by decide) (eLM_lt f)
  | atom32 f => exact mkWord_lt false (op := 0x3B) (by decide) (eLA_lt f)
  | atom64 f => exact mkWord_lt false (op := 0x3C) (by decide) (eLA_lt f)

theorem target_lt (t : ExtTarget) : t.encode < 2 ^ 32 := by
  cases t with
  | addi f => exact mkWord_lt false (op := 0x16) (by decide) (eLI_lt f)
  | muli f => exact mkWord_lt false (op := 0x17) (by decide) (eLI_lt f)
  | andi f => exact mkWord_lt false (op := 0x18) (by decide) (eLI_lt f)
  | ori f => exact mkWord_lt false (op := 0x19) (by decide) (eLI_lt f)
  | xori f => exact mkWord_lt false (op := 0x1A) (by decide) (eLI_lt f)
  | movi f => exact mkWord_lt false (op := 0x1E) (by decide) (eLMov_lt f)
  | gaddi f => exact mkWord_lt true (op := 0x0F) (by decide) (eUI_lt f)
  | gandi f => exact mkWord_lt true (op := 0x10) (by decide) (eUI_lt f)
  | gori f => exact mkWord_lt true (op := 0x11) (by decide) (eUI_lt f)
  | gxori f => exact mkWord_lt true (op := 0x12) (by decide) (eUI_lt f)
  | gmovi f => exact mkWord_lt true (op := 0x15) (by decide) (eUMov_lt f)
  | gmovh f => exact mkWord_lt true (op := 0x16) (by decide) (eUMov_lt f)

theorem add (f : LR) : Statement (.add f) := one_of rfl (mkWord_lt _ (by decide) (eLR_lt _))
theorem sub (f : LR) : Statement (.sub f) := one_of rfl (mkWord_lt _ (by decide) (eLR_lt _))
theorem mul (f : LR) : Statement (.mul f) := one_of rfl (mkWord_lt _ (by decide) (eLR_lt _))
theorem mad (f : LR) : Statement (.mad f) := one_of rfl (mkWord_lt _ (by decide) (eLR_lt _))
theorem min (f : LR) : Statement (.min f) := one_of rfl (mkWord_lt _ (by decide) (eLR_lt _))
theorem max (f : LR) : Statement (.max f) := one_of rfl (mkWord_lt _ (by decide) (eLR_lt _))
theorem minn (f : LR) : Statement (.minn f) := one_of rfl (mkWord_lt _ (by decide) (eLR_lt _))
theorem maxn (f : LR) : Statement (.maxn f) := one_of rfl (mkWord_lt _ (by decide) (eLR_lt _))
theorem and (f : LR) : Statement (.and f) := one_of rfl (mkWord_lt _ (by decide) (eLR_lt _))
theorem or (f : LR) : Statement (.or f) := one_of rfl (mkWord_lt _ (by decide) (eLR_lt _))
theorem xor (f : LR) : Statement (.xor f) := one_of rfl (mkWord_lt _ (by decide) (eLR_lt _))
theorem andn (f : LR) : Statement (.andn f) := one_of rfl (mkWord_lt _ (by decide) (eLR_lt _))
theorem shl (f : LR) : Statement (.shl f) := one_of rfl (mkWord_lt _ (by decide) (eLR_lt _))
theorem shr (f : LR) : Statement (.shr f) := one_of rfl (mkWord_lt _ (by decide) (eLR_lt _))
theorem sar (f : LR) : Statement (.sar f) := one_of rfl (mkWord_lt _ (by decide) (eLR_lt _))
theorem mulh (f : LF) : Statement (.mulh f) := one_of rfl (mkWord_lt _ (by decide) (eLF_lt _ (by decide)))
theorem mulhn (f : LF) : Statement (.mulhn f) := one_of rfl (mkWord_lt _ (by decide) (eLF_lt _ (by decide)))
theorem div (f : LF) : Statement (.div f) := one_of rfl (mkWord_lt _ (by decide) (eLF_lt _ (by decide)))
theorem divn (f : LF) : Statement (.divn f) := one_of rfl (mkWord_lt _ (by decide) (eLF_lt _ (by decide)))
theorem rem (f : LF) : Statement (.rem f) := one_of rfl (mkWord_lt _ (by decide) (eLF_lt _ (by decide)))
theorem remn (f : LF) : Statement (.remn f) := one_of rfl (mkWord_lt _ (by decide) (eLF_lt _ (by decide)))
theorem adds (f : LF) : Statement (.adds f) := one_of rfl (mkWord_lt _ (by decide) (eLF_lt _ (by decide)))
theorem subs (f : LF) : Statement (.subs f) := one_of rfl (mkWord_lt _ (by decide) (eLF_lt _ (by decide)))
theorem addsn (f : LF) : Statement (.addsn f) := one_of rfl (mkWord_lt _ (by decide) (eLF_lt _ (by decide)))
theorem subsn (f : LF) : Statement (.subsn f) := one_of rfl (mkWord_lt _ (by decide) (eLF_lt _ (by decide)))
theorem bfx (f : LF) : Statement (.bfx f) := one_of rfl (mkWord_lt _ (by decide) (eLF_lt _ (by decide)))
theorem bfxn (f : LF) : Statement (.bfxn f) := one_of rfl (mkWord_lt _ (by decide) (eLF_lt _ (by decide)))
theorem bfi (f : LF) : Statement (.bfi f) := one_of rfl (mkWord_lt _ (by decide) (eLF_lt _ (by decide)))
theorem prmb (f : LF) : Statement (.prmb f) := one_of rfl (mkWord_lt _ (by decide) (eLF_lt _ (by decide)))
theorem abs (f : LU) : Statement (.abs f) := one_of rfl (mkWord_lt _ (by decide) (eLU_lt _ (by decide)))
theorem neg (f : LU) : Statement (.neg f) := one_of rfl (mkWord_lt _ (by decide) (eLU_lt _ (by decide)))
theorem not (f : LU) : Statement (.not f) := one_of rfl (mkWord_lt _ (by decide) (eLU_lt _ (by decide)))
theorem popc (f : LU) : Statement (.popc f) := one_of rfl (mkWord_lt _ (by decide) (eLU_lt _ (by decide)))
theorem clz (f : LU) : Statement (.clz f) := one_of rfl (mkWord_lt _ (by decide) (eLU_lt _ (by decide)))
theorem ctz (f : LU) : Statement (.ctz f) := one_of rfl (mkWord_lt _ (by decide) (eLU_lt _ (by decide)))
theorem brev (f : LU) : Statement (.brev f) := one_of rfl (mkWord_lt _ (by decide) (eLU_lt _ (by decide)))
theorem sel (f : LSel) : Statement (.sel f) := one_of rfl (mkWord_lt _ (by decide) (eLSel_lt _))
theorem addi (f : LI) : Statement (.addi f) := one_of rfl (mkWord_lt _ (by decide) (eLI_lt _))
theorem muli (f : LI) : Statement (.muli f) := one_of rfl (mkWord_lt _ (by decide) (eLI_lt _))
theorem andi (f : LI) : Statement (.andi f) := one_of rfl (mkWord_lt _ (by decide) (eLI_lt _))
theorem ori (f : LI) : Statement (.ori f) := one_of rfl (mkWord_lt _ (by decide) (eLI_lt _))
theorem xori (f : LI) : Statement (.xori f) := one_of rfl (mkWord_lt _ (by decide) (eLI_lt _))
theorem shli (f : LSh) : Statement (.shli f) := one_of rfl (mkWord_lt _ (by decide) (eLSh_lt _))
theorem shri (f : LSh) : Statement (.shri f) := one_of rfl (mkWord_lt _ (by decide) (eLSh_lt _))
theorem sari (f : LSh) : Statement (.sari f) := one_of rfl (mkWord_lt _ (by decide) (eLSh_lt _))
theorem movi (f : LMov) : Statement (.movi f) := one_of rfl (mkWord_lt _ (by decide) (eLMov_lt _))
theorem cmp (f : LC) : Statement (.cmp f) := one_of rfl (mkWord_lt _ (by decide) (eLC_lt _))
theorem fcmp (f : FC) : Statement (.fcmp f) := one_of rfl (mkWord_lt _ (by decide) (eFC_lt _))
theorem pand (f : LQ) : Statement (.pand f) := one_of rfl (mkWord_lt _ (by decide) (eLQ_lt _ _ _ _ (by decide)))
theorem por (f : LQ) : Statement (.por f) := one_of rfl (mkWord_lt _ (by decide) (eLQ_lt _ _ _ _ (by decide)))
theorem pxor (f : LQ) : Statement (.pxor f) := one_of rfl (mkWord_lt _ (by decide) (eLQ_lt _ _ _ _ (by decide)))
theorem pandn (f : LQ) : Statement (.pandn f) := one_of rfl (mkWord_lt _ (by decide) (eLQ_lt _ _ _ _ (by decide)))
theorem pnot (pg pd pa : BitVec 3) : Statement (.pnot pg pd pa) := one_of rfl (mkWord_lt _ (by decide) (eLQ_lt _ _ _ _ (by decide)))
theorem pset (pg pd : BitVec 3) : Statement (.pset pg pd) := one_of rfl (mkWord_lt _ (by decide) (eLQ_lt _ _ _ _ (by decide)))
theorem pclr (pg pd : BitVec 3) : Statement (.pclr pg pd) := one_of rfl (mkWord_lt _ (by decide) (eLQ_lt _ _ _ _ (by decide)))
theorem fadd (f : FR) : Statement (.fadd f) := one_of rfl (mkWord_lt _ (by decide) (eFR_lt _))
theorem fsub (f : FR) : Statement (.fsub f) := one_of rfl (mkWord_lt _ (by decide) (eFR_lt _))
theorem fmul (f : FR) : Statement (.fmul f) := one_of rfl (mkWord_lt _ (by decide) (eFR_lt _))
theorem ffma (f : FR) : Statement (.ffma f) := one_of rfl (mkWord_lt _ (by decide) (eFR_lt _))
theorem fmin (f : FR) : Statement (.fmin f) := one_of rfl (mkWord_lt _ (by decide) (eFR_lt _))
theorem fmax (f : FR) : Statement (.fmax f) := one_of rfl (mkWord_lt _ (by decide) (eFR_lt _))
theorem fdiv (f : FR) : Statement (.fdiv f) := one_of rfl (mkWord_lt _ (by decide) (eFR_lt _))
theorem fdot (f : HR) : Statement (.fdot f) := one_of rfl (mkWord_lt _ (by decide) (eHR_lt _))
theorem fscl (f : FR) : Statement (.fscl f) := one_of rfl (mkWord_lt _ (by decide) (eFR_lt _))
theorem sqrt (f : FU) : Statement (.sqrt f) := one_of rfl (mkWord_lt _ (by decide) (eFU_lt _ (by decide)))
theorem rcp (f : FU) : Statement (.rcp f) := one_of rfl (mkWord_lt _ (by decide) (eFU_lt _ (by decide)))
theorem rsq (f : FU) : Statement (.rsq f) := one_of rfl (mkWord_lt _ (by decide) (eFU_lt _ (by decide)))
theorem exp2 (f : FU) : Statement (.exp2 f) := one_of rfl (mkWord_lt _ (by decide) (eFU_lt _ (by decide)))
theorem log2 (f : FU) : Statement (.log2 f) := one_of rfl (mkWord_lt _ (by decide) (eFU_lt _ (by decide)))
theorem sin (f : FU) : Statement (.sin f) := one_of rfl (mkWord_lt _ (by decide) (eFU_lt _ (by decide)))
theorem cos (f : FU) : Statement (.cos f) := one_of rfl (mkWord_lt _ (by decide) (eFU_lt _ (by decide)))
theorem tanh (f : FU) : Statement (.tanh f) := one_of rfl (mkWord_lt _ (by decide) (eFU_lt _ (by decide)))
theorem fabs (f : FU) : Statement (.fabs f) := one_of rfl (mkWord_lt _ (by decide) (eFU_lt _ (by decide)))
theorem fneg (f : FU) : Statement (.fneg f) := one_of rfl (mkWord_lt _ (by decide) (eFU_lt _ (by decide)))
theorem fclass (f : FU) : Statement (.fclass f) := one_of rfl (mkWord_lt _ (by decide) (eFU_lt _ (by decide)))
theorem fcvt (f : LCvt) : Statement (.fcvt f) := one_of rfl (mkWord_lt _ (by decide) (eLCvt_lt _))
theorem fcvtn (f : LN) : Statement (.fcvtn f) := one_of rfl (mkWord_lt _ (by decide) (eLN_lt _))
theorem fcvtw (f : LW) : Statement (.fcvtw f) := one_of rfl (mkWord_lt _ (by decide) (eLW_lt _))
theorem fcvtr (f : HR) : Statement (.fcvtr f) := one_of rfl (mkWord_lt _ (by decide) (eHR_lt _))
theorem fcvti (f : LCvtI) : Statement (.fcvti f) := one_of rfl (mkWord_lt _ (by decide) (eLCvtI_lt _))
theorem icvtf (f : LCvtI) : Statement (.icvtf f) := one_of rfl (mkWord_lt _ (by decide) (eLCvtI_lt _))
theorem icvt (f : LICvt) : Statement (.icvt f) := one_of rfl (mkWord_lt _ (by decide) (eLICvt_lt _))
theorem shfl (f : LF) : Statement (.shfl f) := one_of rfl (mkWord_lt _ (by decide) (eLF_lt _ (by decide)))
theorem shup (f : LF) : Statement (.shup f) := one_of rfl (mkWord_lt _ (by decide) (eLF_lt _ (by decide)))
theorem shdn (f : LF) : Statement (.shdn f) := one_of rfl (mkWord_lt _ (by decide) (eLF_lt _ (by decide)))
theorem shxor (f : LF) : Statement (.shxor f) := one_of rfl (mkWord_lt _ (by decide) (eLF_lt _ (by decide)))
theorem xred (f : LX) : Statement (.xred f) := one_of rfl (mkWord_lt _ (by decide) (eLX_lt _))
theorem xscan (f : LXS) : Statement (.xscan f) := one_of rfl (mkWord_lt _ (by decide) (eLXS_lt _))
theorem bcast (f : LMv) : Statement (.bcast f) := one_of rfl (mkWord_lt _ (by decide) (eLMv_lt _ (by decide)))
theorem getl (f : LMv) : Statement (.getl f) := one_of rfl (mkWord_lt _ (by decide) (eLMv_lt _ (by decide)))
theorem voteAny (f : LVote) : Statement (.voteAny f) := one_of rfl (mkWord_lt _ (by decide) (by have := f.pg.isLt; have := f.qd.isLt; have := f.pa.isLt; omega))
theorem voteAll (f : LVote) : Statement (.voteAll f) := one_of rfl (mkWord_lt _ (by decide) (by have := f.pg.isLt; have := f.qd.isLt; have := f.pa.isLt; omega))
theorem voteCnt (f : LVoteC) : Statement (.voteCnt f) := one_of rfl (mkWord_lt _ (by decide) (by have := f.pg.isLt; have := f.gd.isLt; have := f.pa.isLt; omega))
theorem laneix (pg : BitVec 3) (vd : BitVec 6) : Statement (.laneix pg vd) := one_of rfl (mkWord_lt _ (by decide) (by have := pg.isLt; have := vd.isLt; omega))
theorem ld (f : LM) : Statement (.ld f) := one_of rfl (mkWord_lt _ (by decide) (eLM_lt _))
theorem lds (f : LM) : Statement (.lds f) := one_of rfl (mkWord_lt _ (by decide) (eLM_lt _))
theorem st (f : LM) : Statement (.st f) := one_of rfl (mkWord_lt _ (by decide) (eLM_lt _))
theorem stm (f : LM) : Statement (.stm f) := one_of rfl (mkWord_lt _ (by decide) (eLM_lt _))
theorem atom32 (f : LA) : Statement (.atom32 f) := one_of rfl (mkWord_lt _ (by decide) (eLA_lt _))
theorem atom64 (f : LA) : Statement (.atom64 f) := one_of rfl (mkWord_lt _ (by decide) (eLA_lt _))
theorem ord (o : OrdKind) (sc : Scope) (a : Access) : Statement (.ord o sc a) := two_of rfl (mkWord_lt _ (by decide) (by have := OrdKind_code_lt o; have := Scope_code_lt sc; omega)) (access_lt a)
theorem ext (imm25 : BitVec 25) (t : ExtTarget) : Statement (.ext imm25 t) := two_of rfl (mkWord_lt _ (by decide) (by have := imm25.isLt; omega)) (target_lt t)
theorem nop : Statement (.nop) := one_of rfl (mkWord_lt _ (by decide) (by omega))
theorem gadd (f : UR) : Statement (.gadd f) := one_of rfl (mkWord_lt _ (by decide) (eUR_lt _ (by decide)))
theorem gsub (f : UR) : Statement (.gsub f) := one_of rfl (mkWord_lt _ (by decide) (eUR_lt _ (by decide)))
theorem gmul (f : UR) : Statement (.gmul f) := one_of rfl (mkWord_lt _ (by decide) (eUR_lt _ (by decide)))
theorem gmin (f : UR) : Statement (.gmin f) := one_of rfl (mkWord_lt _ (by decide) (eUR_lt _ (by decide)))
theorem gmax (f : UR) : Statement (.gmax f) := one_of rfl (mkWord_lt _ (by decide) (eUR_lt _ (by decide)))
theorem gminn (f : UR) : Statement (.gminn f) := one_of rfl (mkWord_lt _ (by decide) (eUR_lt _ (by decide)))
theorem gmaxn (f : UR) : Statement (.gmaxn f) := one_of rfl (mkWord_lt _ (by decide) (eUR_lt _ (by decide)))
theorem gand (f : UR) : Statement (.gand f) := one_of rfl (mkWord_lt _ (by decide) (eUR_lt _ (by decide)))
theorem gor (f : UR) : Statement (.gor f) := one_of rfl (mkWord_lt _ (by decide) (eUR_lt _ (by decide)))
theorem gxor (f : UR) : Statement (.gxor f) := one_of rfl (mkWord_lt _ (by decide) (eUR_lt _ (by decide)))
theorem gshl (f : UR) : Statement (.gshl f) := one_of rfl (mkWord_lt _ (by decide) (eUR_lt _ (by decide)))
theorem gshr (f : UR) : Statement (.gshr f) := one_of rfl (mkWord_lt _ (by decide) (eUR_lt _ (by decide)))
theorem gsar (f : UR) : Statement (.gsar f) := one_of rfl (mkWord_lt _ (by decide) (eUR_lt _ (by decide)))
theorem gmulh (f : UR) : Statement (.gmulh f) := one_of rfl (mkWord_lt _ (by decide) (eUR_lt _ (by decide)))
theorem gmulhn (f : UR) : Statement (.gmulhn f) := one_of rfl (mkWord_lt _ (by decide) (eUR_lt _ (by decide)))
theorem gdiv (f : UR) : Statement (.gdiv f) := one_of rfl (mkWord_lt _ (by decide) (eUR_lt _ (by decide)))
theorem gdivn (f : UR) : Statement (.gdivn f) := one_of rfl (mkWord_lt _ (by decide) (eUR_lt _ (by decide)))
theorem grem (f : UR) : Statement (.grem f) := one_of rfl (mkWord_lt _ (by decide) (eUR_lt _ (by decide)))
theorem gremn (f : UR) : Statement (.gremn f) := one_of rfl (mkWord_lt _ (by decide) (eUR_lt _ (by decide)))
theorem gpopc (f : UU) : Statement (.gpopc f) := one_of rfl (mkWord_lt _ (by decide) (eUU_lt _ (by decide)))
theorem gclz (f : UU) : Statement (.gclz f) := one_of rfl (mkWord_lt _ (by decide) (eUU_lt _ (by decide)))
theorem gctz (f : UU) : Statement (.gctz f) := one_of rfl (mkWord_lt _ (by decide) (eUU_lt _ (by decide)))
theorem gnot (f : UU) : Statement (.gnot f) := one_of rfl (mkWord_lt _ (by decide) (eUU_lt _ (by decide)))
theorem gneg (f : UU) : Statement (.gneg f) := one_of rfl (mkWord_lt _ (by decide) (eUU_lt _ (by decide)))
theorem gaddi (f : UI) : Statement (.gaddi f) := one_of rfl (mkWord_lt _ (by decide) (eUI_lt _))
theorem gandi (f : UI) : Statement (.gandi f) := one_of rfl (mkWord_lt _ (by decide) (eUI_lt _))
theorem gori (f : UI) : Statement (.gori f) := one_of rfl (mkWord_lt _ (by decide) (eUI_lt _))
theorem gxori (f : UI) : Statement (.gxori f) := one_of rfl (mkWord_lt _ (by decide) (eUI_lt _))
theorem gshli (f : USh) : Statement (.gshli f) := one_of rfl (mkWord_lt _ (by decide) (eUSh_lt _))
theorem gshri (f : USh) : Statement (.gshri f) := one_of rfl (mkWord_lt _ (by decide) (eUSh_lt _))
theorem gmovi (f : UMov) : Statement (.gmovi f) := one_of rfl (mkWord_lt _ (by decide) (eUMov_lt _))
theorem gmovh (f : UMov) : Statement (.gmovh f) := one_of rfl (mkWord_lt _ (by decide) (eUMov_lt _))
theorem gcmp (f : UC) : Statement (.gcmp f) := one_of rfl (mkWord_lt _ (by decide) (eUC_lt _))
theorem qlogPand (f : UQ) : Statement (.qlogPand f) := one_of rfl (mkWord_lt _ (by decide) (eLQ_lt _ _ _ _ (by decide)))
theorem qlogPor (f : UQ) : Statement (.qlogPor f) := one_of rfl (mkWord_lt _ (by decide) (eLQ_lt _ _ _ _ (by decide)))
theorem qlogPxor (f : UQ) : Statement (.qlogPxor f) := one_of rfl (mkWord_lt _ (by decide) (eLQ_lt _ _ _ _ (by decide)))
theorem qlogPandn (f : UQ) : Statement (.qlogPandn f) := one_of rfl (mkWord_lt _ (by decide) (eLQ_lt _ _ _ _ (by decide)))
theorem qlogPnot (qg qd qa : BitVec 3) : Statement (.qlogPnot qg qd qa) := one_of rfl (mkWord_lt _ (by decide) (eLQ_lt _ _ _ _ (by decide)))
theorem qlogPset (qg qd : BitVec 3) : Statement (.qlogPset qg qd) := one_of rfl (mkWord_lt _ (by decide) (eLQ_lt _ _ _ _ (by decide)))
theorem qlogPclr (qg qd : BitVec 3) : Statement (.qlogPclr qg qd) := one_of rfl (mkWord_lt _ (by decide) (eLQ_lt _ _ _ _ (by decide)))
theorem gsel (f : USel) : Statement (.gsel f) := one_of rfl (mkWord_lt _ (by decide) (eUSel_lt _))
theorem bra (qg : BitVec 3) (inv : Bool) (off : BitVec 18) : Statement (.bra qg inv off) := one_of rfl (mkWord_lt _ (by decide) (by have := bit1_le inv; have := qg.isLt; have := off.isLt; omega))
theorem brd (p j : BitVec 3) (inv : Bool) (off : BitVec 18) : Statement (.brd p j inv off) := one_of rfl (mkWord_lt _ (by decide) (by have := bit1_le inv; have := p.isLt; have := j.isLt; have := off.isLt; omega))
theorem jset (j p : BitVec 3) (off : BitVec 18) : Statement (.jset j p off) := one_of rfl (mkWord_lt _ (by decide) (by have := j.isLt; have := p.isLt; have := off.isLt; omega))
theorem jsetAdd (j p : BitVec 3) (off : BitVec 18) : Statement (.jsetAdd j p off) := one_of rfl (mkWord_lt _ (by decide) (by have := j.isLt; have := p.isLt; have := off.isLt; omega))
theorem join (j : BitVec 3) : Statement (.join j) := one_of rfl (mkWord_lt _ (by decide) (by have := j.isLt; omega))
theorem call (qg : BitVec 3) (gd : BitVec 6) (off : BitVec 16) : Statement (.call qg gd off) := one_of rfl (mkWord_lt _ (by decide) (by have := qg.isLt; have := gd.isLt; have := off.isLt; omega))
theorem ret (qg : BitVec 3) (ga : BitVec 6) : Statement (.ret qg ga) := one_of rfl (mkWord_lt _ (by decide) (by have := qg.isLt; have := ga.isLt; omega))
theorem loop (ga : BitVec 6) (len : BitVec 16) : Statement (.loop ga len) := one_of rfl (mkWord_lt _ (by decide) (by have := ga.isLt; have := len.isLt; omega))
theorem lbrk (qg : BitVec 3) : Statement (.lbrk qg) := one_of rfl (mkWord_lt _ (by decide) (by have := qg.isLt; omega))
theorem brw (w f : BitVec 2) (inv : Bool) (off : BitVec 18) : Statement (.brw w f inv off) := one_of rfl (mkWord_lt _ (by decide) (by have := bit1_le inv; have := w.isLt; have := f.isLt; have := off.isLt; omega))
theorem exit (p : BitVec 3) (inv : Bool) : Statement (.exit p inv) := one_of rfl (mkWord_lt _ (by decide) (by have := bit1_le inv; have := p.isLt; omega))
theorem pause (qg : BitVec 3) : Statement (.pause qg) := one_of rfl (mkWord_lt _ (by decide) (by have := qg.isLt; omega))
theorem pauseWatch (qg : BitVec 3) (gh go : BitVec 6) : Statement (.pauseWatch qg gh go) := one_of rfl (mkWord_lt _ (by decide) (by have := qg.isLt; have := gh.isLt; have := go.isLt; omega))
theorem brx (qg : BitVec 3) (ga : BitVec 6) : Statement (.brx qg ga) := one_of rfl (mkWord_lt _ (by decide) (by have := qg.isLt; have := ga.isLt; omega))
theorem fence (qg : BitVec 3) (sc : Scope) (k : FenceKind) (eng : Bool) : Statement (.fence qg sc k eng) := one_of rfl (mkWord_lt _ (by decide) (by have := bit1_le eng; have := qg.isLt; have := Scope_code_lt sc; have := FenceKind_code_lt k; omega))
theorem barArr (f : UBar) : Statement (.barArr f) := one_of rfl (mkWord_lt _ (by decide) (eUBar_lt _ (by decide)))
theorem barWait (qg : BitVec 3) (b : BitVec 5) : Statement (.barWait qg b) := one_of rfl (mkWord_lt _ (by decide) (by have := qg.isLt; have := b.isLt; omega))
theorem barSync (f : UBar) : Statement (.barSync f) := one_of rfl (mkWord_lt _ (by decide) (eUBar_lt _ (by decide)))
theorem barGang (qg : BitVec 3) : Statement (.barGang qg) := one_of rfl (mkWord_lt _ (by decide) (by have := qg.isLt; omega))
theorem cachePub (f : UCache) : Statement (.cachePub f) := one_of rfl (mkWord_lt _ (by decide) (eUCache_lt _ (by decide)))
theorem cacheInvl (f : UCache) : Statement (.cacheInvl f) := one_of rfl (mkWord_lt _ (by decide) (eUCache_lt _ (by decide)))
theorem cacheDrop (f : UCache) : Statement (.cacheDrop f) := one_of rfl (mkWord_lt _ (by decide) (eUCache_lt _ (by decide)))
theorem cachePref (f : UCache) : Statement (.cachePref f) := one_of rfl (mkWord_lt _ (by decide) (eUCache_lt _ (by decide)))
theorem btag (qg : BitVec 3) (tag : BitVec 2) : Statement (.btag qg tag) := one_of rfl (mkWord_lt _ (by decide) (by have := qg.isLt; have := tag.isLt; omega))
theorem bclose (qg : BitVec 3) (gd : BitVec 6) (tag : BitVec 2) : Statement (.bclose qg gd tag) := one_of rfl (mkWord_lt _ (by decide) (by have := qg.isLt; have := gd.isLt; have := tag.isLt; omega))
theorem getc (qg : BitVec 3) (gd : BitVec 6) (c : CReg) : Statement (.getc qg gd c) := one_of rfl (mkWord_lt _ (by decide) (by have := qg.isLt; have := gd.isLt; have := CReg_code_lt c; omega))
theorem setc (qg : BitVec 3) (ga : BitVec 6) (c : CReg) : Statement (.setc qg ga c) := one_of rfl (mkWord_lt _ (by decide) (by have := qg.isLt; have := ga.isLt; have := CReg_code_lt c; omega))
theorem hnarrow (f : UR) (perm : BitVec 4) : Statement (.hnarrow f perm) := one_of rfl (mkWord_lt _ (by decide) (eUR_lt _ (by have := perm.isLt; omega)))
theorem palq (f : UU) (fn : PalQ) : Statement (.palq f fn) := one_of rfl (mkWord_lt _ (by decide) (eUU_lt _ (by have := PalQ_code_lt fn; omega)))
theorem trap (qg : BitVec 3) (imm : BitVec 16) : Statement (.trap qg imm) := one_of rfl (mkWord_lt _ (by decide) (by have := qg.isLt; have := imm.isLt; omega))
theorem tret : Statement (.tret) := one_of rfl (mkWord_lt _ (by decide) (by omega))
theorem tretReplay : Statement (.tretReplay) := one_of rfl (mkWord_lt _ (by decide) (by omega))
theorem dlaunch (f : UR) : Statement (.dlaunch f) := one_of rfl (mkWord_lt _ (by decide) (eUR_lt _ (by decide)))
theorem shape (f : CShape) : Statement (.shape f) := two_of rfl (mkWord_lt _ (by decide) (by
  have := f.qg.isLt
  have := f.t.isLt
  have := f.gh.isLt
  have := f.go.isLt
  exact eUK_lt (by omega) (by omega) (by omega) (by omega) (by omega) (by omega))) (by have := f.stride.isLt; have := f.colsM1.isLt; have := f.rowsM1.isLt; omega)
theorem texpect (f : CTile) : Statement (.texpect f) := two_of rfl (mkWord_lt _ (by decide) (by
  have := f.qg.isLt
  have := f.t.isLt
  have := f.g.isLt
  exact eUK_lt (by omega) (by omega) (by omega) (by omega) (by omega) (by omega))) (by omega)
theorem tfree (f : CTFree) : Statement (.tfree f) := two_of rfl (mkWord_lt _ (by decide) (by
  have := f.qg.isLt
  have := f.t.isLt
  exact eUK_lt (by omega) (by omega) (by omega) (by omega) (by omega) (by omega))) (by omega)
theorem tstate (f : CTile) : Statement (.tstate f) := two_of rfl (mkWord_lt _ (by decide) (by
  have := f.qg.isLt
  have := f.t.isLt
  have := f.g.isLt
  exact eUK_lt (by omega) (by omega) (by omega) (by omega) (by omega) (by omega))) (by omega)
theorem cpy (f : CCpy) : Statement (.cpy f) := two_of rfl (mkWord_lt _ (by decide) (by
  have := f.qg.isLt
  have := f.sg.isLt
  have := f.gs.isLt
  have := f.gd.isLt
  exact eUK_lt (by omega) (by omega) (by omega) (by omega) (by omega) (by omega))) (by have := f.len64.isLt; have := stat_split f.stat; simp only [eCCpy]; omega)
theorem fill (f : CCpy) : Statement (.fill f) := two_of rfl (mkWord_lt _ (by decide) (by
  have := f.qg.isLt
  have := f.sg.isLt
  have := f.gs.isLt
  have := f.gd.isLt
  exact eUK_lt (by omega) (by omega) (by omega) (by omega) (by omega) (by omega))) (by have := f.len64.isLt; have := stat_split f.stat; simp only [eCCpy]; omega)
theorem cpyv (f : CCpyv) : Statement (.cpyv f) := two_of rfl (mkWord_lt _ (by decide) (by
  have := f.qg.isLt
  have := f.gv.isLt
  have := f.gs.isLt
  have := f.gd.isLt
  exact eUK_lt (by omega) (by omega) (by omega) (by omega) (by omega) (by omega))) (by have := f.len64.isLt; have := stat_split f.stat; omega)
theorem gath (f : CGath) : Statement (.gath f) := two_of rfl (mkWord_lt _ (by decide) (by
  have := f.qg.isLt
  have := f.sg.isLt
  have := f.gt.isLt
  have := f.gi.isLt
  have := f.gx.isLt
  exact eUK_lt (by omega) (by omega) (by omega) (by omega) (by omega) (by omega))) (by have := bit1_le f.iw64; have := f.lesz.isLt; have := f.nM1.isLt; have := stat_split f.stat; simp only [eGathPw]; omega)
theorem scat (f : CGath) : Statement (.scat f) := two_of rfl (mkWord_lt _ (by decide) (by
  have := f.qg.isLt
  have := f.sg.isLt
  have := f.gt.isLt
  have := f.gi.isLt
  have := f.gx.isLt
  exact eUK_lt (by omega) (by omega) (by omega) (by omega) (by omega) (by omega))) (by have := bit1_le f.iw64; have := f.lesz.isLt; have := f.nM1.isLt; have := stat_split f.stat; simp only [eGathPw]; omega)
theorem mma (f : CMma) : Statement (.mma f) := two_of rfl (mkWord_lt _ (by decide) (by
  have := f.qg.isLt
  have := f.sg.isLt
  have := f.a.isLt
  have := f.ta.isLt
  have := f.tb.isLt
  exact eUK_lt (by omega) (by omega) (by omega) (by omega) (by omega) (by decide))) (by have := f.hn.isLt; have := f.depth.isLt; simp only [eMmaPw]; omega)
theorem mmaH (f : CMma) : Statement (.mmaH f) := two_of rfl (mkWord_lt _ (by decide) (by
  have := f.qg.isLt
  have := f.sg.isLt
  have := f.a.isLt
  have := f.ta.isLt
  have := f.tb.isLt
  exact eUK_lt (by omega) (by omega) (by omega) (by omega) (by omega) (by decide))) (by have := f.hn.isLt; have := f.depth.isLt; simp only [eMmaPw]; omega)
theorem mepi (f : CMepi) : Statement (.mepi f) := two_of rfl (mkWord_lt _ (by decide) (by
  have := f.qg.isLt
  have := f.a.isLt
  have := f.t.isLt
  have := f.gs.isLt
  exact eUK_lt (by omega) (by omega) (by omega) (by omega) (by omega) (by decide))) (by have := bit1_le f.clr; have := bit1_le f.unsc; have := bit1_le f.rsr; have := f.tt.isLt; have := f.hn.isLt; simp only [eMepiPw]; omega)
theorem mepiT2 (f : CMepi) : Statement (.mepiT2 f) := two_of rfl (mkWord_lt _ (by decide) (by
  have := f.qg.isLt
  have := f.a.isLt
  have := f.t.isLt
  have := f.gs.isLt
  exact eUK_lt (by omega) (by omega) (by omega) (by omega) (by omega) (by decide))) (by have := bit1_le f.clr; have := bit1_le f.unsc; have := bit1_le f.rsr; have := f.tt.isLt; have := f.hn.isLt; simp only [eMepiPw]; omega)
theorem mepiSend (f : CMepi) : Statement (.mepiSend f) := two_of rfl (mkWord_lt _ (by decide) (by
  have := f.qg.isLt
  have := f.a.isLt
  have := f.t.isLt
  have := f.gs.isLt
  exact eUK_lt (by omega) (by omega) (by omega) (by omega) (by omega) (by decide))) (by have := bit1_le f.clr; have := bit1_le f.unsc; have := bit1_le f.rsr; have := f.tt.isLt; have := f.hn.isLt; simp only [eMepiPw]; omega)
theorem mepiT2Send (f : CMepi) : Statement (.mepiT2Send f) := two_of rfl (mkWord_lt _ (by decide) (by
  have := f.qg.isLt
  have := f.a.isLt
  have := f.t.isLt
  have := f.gs.isLt
  exact eUK_lt (by omega) (by omega) (by omega) (by omega) (by omega) (by decide))) (by have := bit1_le f.clr; have := bit1_le f.unsc; have := bit1_le f.rsr; have := f.tt.isLt; have := f.hn.isLt; simp only [eMepiPw]; omega)
theorem mzero (f : CMzero) : Statement (.mzero f) := by
  have := f.qg.isLt
  have := f.a.isLt
  have := bit1_le f.f64
  cases h : f.tag with
  | none =>
    exact two_of (w := mkWord true 0x3A (eUK f.qg.toNat 0 f.a.toNat 0 0 0)) (x := bit1 f.f64) (by simp [encode, h])
      (mkWord_lt _ (by decide) (eUK_lt (by omega) (by omega) (by omega) (by omega) (by omega) (by omega))) (by omega)
  | some g =>
    have := g.isLt
    exact two_of (w := mkWord true 0x3A (eUK f.qg.toNat 0 f.a.toNat g.toNat 0 0)) (x := 2 + bit1 f.f64) (by simp [encode, h])
      (mkWord_lt _ (by decide) (eUK_lt (by omega) (by omega) (by omega) (by omega) (by omega) (by omega))) (by omega)

theorem mfence (f : CReg1) : Statement (.mfence f) := two_of rfl (mkWord_lt _ (by decide) (by
  have := f.qg.isLt
  have := f.g.isLt
  exact eUK_lt (by omega) (by omega) (by omega) (by omega) (by omega) (by omega))) (by omega)
theorem mwait (f : CReg1) : Statement (.mwait f) := two_of rfl (mkWord_lt _ (by decide) (by
  have := f.qg.isLt
  have := f.g.isLt
  exact eUK_lt (by omega) (by omega) (by omega) (by omega) (by omega) (by omega))) (by omega)
theorem mget (f : CMget) : Statement (.mget f) := two_of rfl (mkWord_lt _ (by decide) (by
  have := f.qg.isLt
  have := f.vd.isLt
  have := f.a.isLt
  have := f.gr.isLt
  exact eUK_lt (by omega) (by omega) (by omega) (by omega) (by omega) (by omega))) (by omega)
theorem collAr (f : CColl) : Statement (.collAr f) := two_of rfl (mkWord_lt _ (by decide) (by
  have := f.qg.isLt
  have := f.sg.isLt
  have := f.t.isLt
  have := f.gg.isLt
  exact eUK_lt (by omega) (by omega) (by omega) (by omega) (by omega) (by decide))) (by have := f.root.isLt; have := stat_split f.stat; simp only [eCollPw]; omega)
theorem collRs (f : CColl) : Statement (.collRs f) := two_of rfl (mkWord_lt _ (by decide) (by
  have := f.qg.isLt
  have := f.sg.isLt
  have := f.t.isLt
  have := f.gg.isLt
  exact eUK_lt (by omega) (by omega) (by omega) (by omega) (by omega) (by decide))) (by have := f.root.isLt; have := stat_split f.stat; simp only [eCollPw]; omega)
theorem collAg (f : CColl) : Statement (.collAg f) := two_of rfl (mkWord_lt _ (by decide) (by
  have := f.qg.isLt
  have := f.sg.isLt
  have := f.t.isLt
  have := f.gg.isLt
  exact eUK_lt (by omega) (by omega) (by omega) (by omega) (by omega) (by decide))) (by have := f.root.isLt; have := stat_split f.stat; simp only [eCollPw]; omega)
theorem collBc (f : CColl) : Statement (.collBc f) := two_of rfl (mkWord_lt _ (by decide) (by
  have := f.qg.isLt
  have := f.sg.isLt
  have := f.t.isLt
  have := f.gg.isLt
  exact eUK_lt (by omega) (by omega) (by omega) (by omega) (by omega) (by decide))) (by have := f.root.isLt; have := stat_split f.stat; simp only [eCollPw]; omega)
theorem easel (f : CEasel) : Statement (.easel f) := two_of rfl (mkWord_lt _ (by decide) (by
  have := f.qg.isLt
  have := f.sg.isLt
  have := f.gk.isLt
  exact eUK_lt (by omega) (by omega) (by omega) (by omega) (by omega) (by omega))) (by have := bit1_le f.site; have := f.ctile.isLt; have := f.queue.isLt; have := stat_split f.stat; omega)
theorem bind (f : CBind) : Statement (.bind f) := two_of rfl (mkWord_lt _ (by decide) (by
  have := f.qg.isLt
  have := f.w.isLt
  have := f.gh.isLt
  have := f.gc.isLt
  exact eUK_lt (by omega) (by omega) (by omega) (by omega) (by omega) (by omega))) (by have := bit1_le f.sx; have := f.ls.isLt; omega)
theorem unbind (f : CUnbind) : Statement (.unbind f) := two_of rfl (mkWord_lt _ (by decide) (by
  have := f.qg.isLt
  have := f.w.isLt
  exact eUK_lt (by omega) (by omega) (by omega) (by omega) (by omega) (by omega))) (by omega)
theorem lostReconvergenceRelease (team : Nat) : Statement (.lostReconvergenceRelease team) := none_of rfl
theorem teamEnd (team : Nat) : Statement (.teamEnd team) := none_of rfl
theorem pauseTimeout (arm : ArmId) : Statement (.pauseTimeout arm) := none_of rfl
theorem scFenceWaitEnd (arm : ArmId) : Statement (.scFenceWaitEnd arm) := none_of rfl
theorem walkerElementArrival (team w : Nat) (lanes : LaneMask) : Statement (.walkerElementArrival team w lanes) := none_of rfl
theorem loadReply (load part : Nat) : Statement (.loadReply load part) := none_of rfl
theorem stmCopyDelivery (msg : Nat) : Statement (.stmCopyDelivery msg) := none_of rfl
theorem leaseReply (msg : Nat) : Statement (.leaseReply msg) := none_of rfl
theorem wiCopyReply (msg : Nat) : Statement (.wiCopyReply msg) := none_of rfl
theorem ownershipGrant (msg : Nat) : Statement (.ownershipGrant msg) := none_of rfl
theorem validityEnd (core sec : Nat) : Statement (.validityEnd core sec) := none_of rfl
theorem invalidation (msg : Nat) : Statement (.invalidation msg) := none_of rfl
theorem publishRequest (msg : Nat) : Statement (.publishRequest msg) := none_of rfl
theorem forcedPublish (msg : Nat) : Statement (.forcedPublish msg) := none_of rfl
theorem homeAcknowledgement (msg : Nat) : Statement (.homeAcknowledgement msg) := none_of rfl
theorem siRead (msg : Nat) : Statement (.siRead msg) := none_of rfl
theorem wiRead (msg : Nat) : Statement (.wiRead msg) := none_of rfl
theorem wtRead (msg : Nat) : Statement (.wtRead msg) := none_of rfl
theorem homeWrite (msg : Nat) : Statement (.homeWrite msg) := none_of rfl
theorem homeAtomic (msg : Nat) : Statement (.homeAtomic msg) := none_of rfl
theorem ownRequest (msg : Nat) : Statement (.ownRequest msg) := none_of rfl
theorem invalidationAcknowledgement (msg : Nat) : Statement (.invalidationAcknowledgement msg) := none_of rfl
theorem sharerDropNotice (msg : Nat) : Statement (.sharerDropNotice msg) := none_of rfl
theorem ownerDropNotice (msg : Nat) : Statement (.ownerDropNotice msg) := none_of rfl
theorem recallAnswer (msg : Nat) : Statement (.recallAnswer msg) := none_of rfl
theorem publishWriteBack (msg : Nat) : Statement (.publishWriteBack msg) := none_of rfl
theorem publishAnswer (msg : Nat) : Statement (.publishAnswer msg) := none_of rfl
theorem evictionWriteBack (msg : Nat) : Statement (.evictionWriteBack msg) := none_of rfl
theorem narrowReleaseNotice (msg : Nat) : Statement (.narrowReleaseNotice msg) := none_of rfl
theorem forcedPublishAnswer (msg : Nat) : Statement (.forcedPublishAnswer msg) := none_of rfl
theorem leaseExpires (sec : Nat) : Statement (.leaseExpires sec) := none_of rfl
theorem directoryEntryReuse (sec : Nat) : Statement (.directoryEntryReuse sec) := none_of rfl
theorem watchRegistration (chip exp off token : Nat) : Statement (.watchRegistration chip exp off token) := none_of rfl
theorem wake (chip : Nat) (arm : ArmId) : Statement (.wake chip arm) := none_of rfl
theorem streamerRound (cluster : Nat) : Statement (.streamerRound cluster) := none_of rfl
theorem engineCommandComplete (cmd : Nat) : Statement (.engineCommandComplete cmd) := none_of rfl
theorem matrixCommandComplete (cmd : Nat) : Statement (.matrixCommandComplete cmd) := none_of rfl
theorem collectiveComplete (cmd : Nat) : Statement (.collectiveComplete cmd) := none_of rfl
theorem sgPromotion (cmd : Nat) : Statement (.sgPromotion cmd) := none_of rfl
theorem sectorAccept (cmd off : Nat) : Statement (.sectorAccept cmd off) := none_of rfl
theorem sectorRefuse (cmd off : Nat) : Statement (.sectorRefuse cmd off) := none_of rfl
theorem acceptSignal (group op a b : Nat) : Statement (.acceptSignal group op a b) := none_of rfl
theorem groupSector (sec : GroupSec) : Statement (.groupSector sec) := none_of rfl
theorem resultSector (sec : GroupSec) : Statement (.resultSector sec) := none_of rfl
theorem groupError (group chip : Nat) : Statement (.groupError group chip) := none_of rfl
theorem groupStallTimeout (group op a b : Nat) : Statement (.groupStallTimeout group op a b) := none_of rfl
theorem reducingLoadRequest (q : GroupLoad) (exp off n a b : Nat) : Statement (.reducingLoadRequest q exp off n a b) := none_of rfl
theorem reducingLoadValue (q : GroupLoad) (ranks : Nat × Nat) (v : LoadVal) : Statement (.reducingLoadValue q ranks v) := none_of rfl
theorem treeTableWrite (group : Nat) (words : List Word) : Statement (.treeTableWrite group words) := none_of rfl
theorem flitReceive (port : Nat) (ok : Bool) (dst hops : Nat) : Statement (.flitReceive port ok dst hops) := none_of rfl
theorem replayRequest (port flit : Nat) : Statement (.replayRequest port flit) := none_of rfl
theorem idleFlit (port : Nat) : Statement (.idleFlit port) := none_of rfl
theorem portDown (port : Nat) : Statement (.portDown port) := none_of rfl
theorem linkRekey (port : Nat) : Statement (.linkRekey port) := none_of rfl
theorem remoteRequest (r : RemoteReq) : Statement (.remoteRequest r) := none_of rfl
theorem receipt (seq : Nat) : Statement (.receipt seq) := none_of rfl
theorem remoteAcknowledgement (seq : Nat) (e : RemoteEnd) : Statement (.remoteAcknowledgement seq e) := none_of rfl
theorem resendTimeout (seq : Nat) : Statement (.resendTimeout seq) := none_of rfl
theorem duplicateRecordExpiry (chip seq : Nat) : Statement (.duplicateRecordExpiry chip seq) := none_of rfl
theorem closeRequest (chip team tag count : Nat) : Statement (.closeRequest chip team tag count) := none_of rfl
theorem summaryReply (team tag chip : Nat) (poison xlate bounds : Bool) : Statement (.summaryReply team tag chip poison xlate bounds) := none_of rfl
theorem endNotice (chip team : Nat) : Statement (.endNotice chip team) := none_of rfl
theorem deadPeerDeclaration (chip : Nat) : Statement (.deadPeerDeclaration chip) := none_of rfl
theorem heartbeatTick : Statement (.heartbeatTick) := none_of rfl
theorem timeMessage (port : Nat) (offset : Int) : Statement (.timeMessage port offset) := none_of rfl
theorem timeBoundLoss : Statement (.timeBoundLoss) := none_of rfl
theorem timeBoundTimeout : Statement (.timeBoundTimeout) := none_of rfl
theorem gtcLoad : Statement (.gtcLoad) := none_of rfl
theorem uetWrite (exp off : Nat) (data : List Byte) : Statement (.uetWrite exp off data) := none_of rfl
theorem uetDelivery (cmd : Nat) (data : List Byte) : Statement (.uetDelivery cmd data) := none_of rfl
theorem doorbell (ring : Nat) (tail : BitVec 32) : Statement (.doorbell ring tail) := none_of rfl
theorem enableClear (ring : Nat) : Statement (.enableClear ring) := none_of rfl
theorem instanceStart (die : Nat) : Statement (.instanceStart die) := none_of rfl
theorem launchNode (inst node : Nat) : Statement (.launchNode inst node) := none_of rfl
theorem condNode (inst node : Nat) : Statement (.condNode inst node) := none_of rfl
theorem whileNode (inst node : Nat) : Statement (.whileNode inst node) := none_of rfl
theorem copyNode (inst node : Nat) : Statement (.copyNode inst node) := none_of rfl
theorem waitNode (inst node : Nat) : Statement (.waitNode inst node) := none_of rfl
theorem signalNode (inst node : Nat) : Statement (.signalNode inst node) := none_of rfl
theorem launchNodeComplete (inst node : Nat) : Statement (.launchNodeComplete inst node) := none_of rfl
theorem nodeComplete (inst node : Nat) : Statement (.nodeComplete inst node) := none_of rfl
theorem dlaunchDescriptor (arm : ArmId) : Statement (.dlaunchDescriptor arm) := none_of rfl
theorem dlaunchStatus (arm : ArmId) : Statement (.dlaunchStatus arm) := none_of rfl
theorem launchPlacement : Statement (.launchPlacement) := none_of rfl
theorem preemption : Statement (.preemption) := none_of rfl
theorem armStopDeadline (arm : ArmId) : Statement (.armStopDeadline arm) := none_of rfl
theorem launchSuspended (launch : Nat) : Statement (.launchSuspended launch) := none_of rfl
theorem launchResume (launch : Nat) : Statement (.launchResume launch) := none_of rfl
theorem tableWalk (ctx page : Nat) : Statement (.tableWalk ctx page) := none_of rfl
theorem faultResolve (ctx page : Nat) : Statement (.faultResolve ctx page) := none_of rfl
theorem faultFatal (ctx page : Nat) : Statement (.faultFatal ctx page) := none_of rfl
theorem xinvctlGo (ctl : Word) : Statement (.xinvctlGo ctl) := none_of rfl
theorem xinvComplete : Statement (.xinvComplete) := none_of rfl
theorem complete (p : GuestPkt) (code : BitVec 32) : Statement (.complete p code) := none_of rfl
theorem fault (p : GuestPkt) (va : Nat) (write internal : Bool) : Statement (.fault p va write internal) := none_of rfl
theorem stopped (p : GuestPkt) (buf saved : Nat) (done : Bool) : Statement (.stopped p buf saved done) := none_of rfl
theorem invack (site num : Nat) : Statement (.invack site num) := none_of rfl
theorem xlreq (p : GuestPkt) (va : Nat) (write atomic : Bool) : Statement (.xlreq p va write atomic) := none_of rfl
theorem rdcurr (p : GuestPkt) (va : Nat) : Statement (.rdcurr p va) := none_of rfl
theorem rdshared (p : GuestPkt) (va : Nat) : Statement (.rdshared p va) := none_of rfl
theorem wrcur (p : GuestPkt) (va : Nat) (cells : List (Nat × Byte)) : Statement (.wrcur p va cells) := none_of rfl
theorem faultReportDeadline (p : GuestPkt) : Statement (.faultReportDeadline p) := none_of rfl
theorem invackDeadline (site : Nat) : Statement (.invackDeadline site) := none_of rfl
theorem stoppedDeadline (p : GuestPkt) : Statement (.stoppedDeadline p) := none_of rfl
theorem linkSilent (site : Nat) : Statement (.linkSilent site) := none_of rfl
theorem hostWrite (pa : Nat) (data : List Byte) : Statement (.hostWrite pa data) := none_of rfl
theorem hostRead (pa n : Nat) : Statement (.hostRead pa n) := none_of rfl
theorem hostAtomic (pa : Nat) (wide : Bool) (op : AOp) (b c : Word) : Statement (.hostAtomic pa wide op b c) := none_of rfl
theorem attest (nonce : List Byte) : Statement (.attest nonce) := none_of rfl
theorem keyload (ctx : Nat) (group : Bool) (name : Nat) (wrapped : List Byte) : Statement (.keyload ctx group name wrapped) := none_of rfl
theorem abortRecordRead (die : Nat) : Statement (.abortRecordRead die) := none_of rfl
theorem timectlWrite (v : Word) : Statement (.timectlWrite v) := none_of rfl
theorem pwrcapWrite (v : Word) : Statement (.pwrcapWrite v) := none_of rfl
theorem fthreshWrite (v : Word) : Statement (.fthreshWrite v) := none_of rfl
theorem registerWrite (off : Nat) (v : Word) : Statement (.registerWrite off v) := none_of rfl
theorem powerWindow (watts : Nat) : Statement (.powerWindow watts) := none_of rfl
theorem coreCurrentTrip : Statement (.coreCurrentTrip) := none_of rfl
theorem temperatureTrip (die : Nat) : Statement (.temperatureTrip die) := none_of rfl
theorem powerGood : Statement (.powerGood) := none_of rfl
theorem stageB (image : List Byte) (sigOk hbmOk : Bool) : Statement (.stageB image sigOk hbmOk) := none_of rfl
theorem stageC (badCores badPorts : List Nat) (guest0 guest1 : Option Nat) : Statement (.stageC badCores badPorts guest0 guest1) := none_of rfl
theorem stageD (ok : Bool) : Statement (.stageD ok) := none_of rfl
theorem hostReset : Statement (.hostReset) := none_of rfl
theorem correctedError (src : ErrSource) : Statement (.correctedError src) := none_of rfl
theorem uncorrectedError (src : ErrSource) (sectors : List Nat) : Statement (.uncorrectedError src sectors) := none_of rfl
theorem errorWindowRoll : Statement (.errorWindowRoll) := none_of rfl
theorem summaryExpiry (sec : Nat) : Statement (.summaryExpiry sec) := none_of rfl
theorem splitPoint (cmd : Nat) : Statement (.splitPoint cmd) := none_of rfl
theorem portRetrain (port : Nat) : Statement (.portRetrain port) := none_of rfl
theorem deadPeerClear (chip : Nat) : Statement (.deadPeerClear chip) := none_of rfl
theorem guestSiteReset (site : Nat) (guest : Option Nat) : Statement (.guestSiteReset site guest) := none_of rfl
theorem unlistedContractKind (site : Nat) (opcode : BitVec 16) : Statement (.unlistedContractKind site opcode) := none_of rfl

end Sys2Proof.Laws.Encoded

open Sys2Proof in
theorem Sys2Proof.Laws.Encoded.recall (msg : Nat) : Sys2Proof.Laws.Encoded.Statement (.recall msg) := Sys2Proof.Laws.Encoded.none_of rfl
end

