-- ==== Sys2Proof/Tests/Slice0.lean ====
section
/-! SUPPORT. The model's own tests: terms that the well-formedness checks refuse, words written out from the spec's encodings,
single steps with results worked out from the spec, and a witness for the hypotheses of every statement. -/

namespace Sys2Proof.Machine

set_option Elab.async false

/-! ### Witness states -/

theorem readWalkers_none (s : State) (l : Launch) (ex : LaneMask) (t : Team) (vr : List (Nat × Bool)) (seen : List Nat)
    (h : (vr.all fun r => (t.walkerOf r.1).isNone) = true) : readWalkers s l ex t vr seen = .ok t [] := by
  induction vr generalizing seen with
  | nil => rfl
  | cons x r ih =>
    simp only [List.all_cons, Bool.and_eq_true, Option.isNone_iff_eq_none] at h
    unfold readWalkers
    simp [h.1, ih seen h.2]

/-- What `Issue.Ready` asks, of a unit that names no bound walker. -/
def readyB (k : Issue) (u : Use) : Bool :=
  decide (k.s.sched.cur = some ⟨k.tid, k.f⟩) && decide (k.s.team? k.tid = some k.t) && decide (k.t.arm? k.f = some k.a)
    && decide (k.s.launch? k.t.geom.launch = some k.l) && armMayIssue k.s k.t k.f k.a && !u.illReg k.t && !u.waits k.t
    && decide (markTrap k.t (k.ex u) u.vr = none) && k.t.qpred u.qg
    && (u.vr.all fun r => (k.t.walkerOf r.1).isNone) && decide (k.t' = k.t) && decide (k.els = [])

theorem ready_of {k : Issue} {u : Use} (h : readyB k u = true) : k.Ready u := by
  simp only [readyB, Bool.and_eq_true, decide_eq_true_eq, Bool.not_eq_true'] at h
  obtain ⟨⟨⟨⟨⟨⟨⟨⟨⟨⟨⟨h1, h2⟩, h3⟩, h4⟩, h5⟩, h6⟩, h7⟩, h8⟩, h9⟩, h10⟩, h11⟩, h12⟩ := h
  exact ⟨⟨h1, h2, h3, h4, h5⟩, h6, h7, h8, h9, by rw [readWalkers_none _ _ _ _ _ _ h10, h11, h12]⟩

/-- The same of several issues at once. -/
theorem ready_all {l : List (Issue × Use)} (h : (l.all fun p => readyB p.1 p.2) = true) : ∀ p ∈ l, p.1.Ready p.2 :=
  fun p hp => ready_of (List.all_eq_true.mp h p hp)

/-- Lane L of the witness team: v1 = L + 1, v2 = 0x300000002, v3 = -7; p1 true in lanes 0 and 2. -/
def wLane (L : Nat) : Lane :=
  { Lane.init with v := [(1, BitVec.ofNat 64 (L + 1)), (2, 0x300000002), (3, -7)], p := if L % 2 = 0 then 2 else 0 }

/-- A team of four lanes that has a trap handler, with g1 = 6, g2 = 3, g4 = 0x40 and q1 true. -/
def wTeam : Team :=
  { Team.start ⟨0, 0, 0, 0, 0, 0, 4, 64, 64, 32⟩ 0x100 0x8000 5 0 with
    lanes := (List.range 4).map wLane, g := [(1, 6), (2, 3), (4, 0x40)], q := 2 }

/-- The witness state of a team: it is the one resident team, and its T arm is current. -/
def wState (t : Team) : State := (State.reset.withFetchWord 32 0).setTeam 0 t

/-- A team's T arm at the issue of a unit in a state. -/
def wAt (s : State) (t : Team) : Issue := ⟨s, 0, false, t, t.armT.getD (Arm.start 0 0), probeLaunch, t, []⟩

def wIssue (t : Team) : Issue := wAt (wState t) t

/-- The witness team with its T arm changed. -/
def wArm (f : Arm → Arm) : Team := { wTeam with armT := wTeam.armT.map f }

/-! ### Lane integer instructions -/

theorem witness_LaneArithmeticWritesEveryElement : (wIssue wTeam).Ready (use2 1 3 1 2 true true) := ready_of (by decide +kernel)
theorem witness_LaneArithmeticWritesEveryElement_mad : (wIssue wTeam).Ready (use3 0 3 1 2 false true) := ready_of (by decide +kernel)
theorem witness_LaneArithmeticWritesEveryElement_wait :
    (wIssue (wTeam.setVMark 3 .empty)).Current ∧ (use3 0 3 1 2 true true).illReg (wTeam.setVMark 3 .empty) = false ∧
      (wTeam.setVMark 3 .empty).vMark (3#6).toNat = .empty ∧ (use3 0 3 1 2 true true).emptyTrap (wTeam.setVMark 3 .empty) = none :=
  ⟨(ready_of (u := {}) (by decide +kernel)).toCurrent, by decide +kernel, by decide +kernel, by decide +kernel⟩

theorem witness_LaneDivisionAndSaturationWriteEveryElement : (wIssue wTeam).Ready (use2 1 3 1 2 false false) := ready_of (by decide +kernel)

theorem witness_BitFieldsAndByteChoice : (wIssue wTeam).Ready (use2 0 1 3 2 false false) := ready_of (by decide +kernel)
theorem witness_BitFieldsAndByteChoice_vd : (wIssue wTeam).Ready (use3 0 1 3 2 false false) := ready_of (by decide +kernel)

theorem witness_LaneUnaryAndImmediateForms : (wIssue wTeam).Ready (use1 0 1 3 true) := ready_of (by decide +kernel)
theorem witness_LaneUnaryAndImmediateForms_imm : (wIssue wTeam).Ready (use1 1 63 3 false) := ready_of (by decide +kernel)
theorem witness_LaneUnaryAndImmediateForms_movi : (wIssue wTeam).Ready (use0 1 63) := ready_of (by decide +kernel)

theorem witness_LanePredicatesAndSelection_cmp : (wIssue wTeam).Ready (useCmp 0 7 1 3) := ready_of (by decide +kernel)
theorem witness_LanePredicatesAndSelection_plog : (wIssue wTeam).Ready (usePred 1 1) := ready_of (by decide +kernel)
theorem witness_LanePredicatesAndSelection_sel : (wIssue wTeam).Ready (use2 0 3 1 2 false false) := ready_of (by decide +kernel)

/-! ### Floating point, conversions, moves between lanes -/

theorem witness_LaneFloatArithmetic : (wIssue wTeam).Ready (use2 1 3 1 2 true false) := ready_of (by decide +kernel)
theorem witness_LaneFloatArithmetic_vd : (wIssue wTeam).Ready (use3 1 3 1 2 true false) := ready_of (by decide +kernel)
theorem witness_LaneFloatArithmetic_unary : (wIssue wTeam).Ready (use1 0 2 3 true) := ready_of (by decide +kernel)

theorem witness_SignsClassesAndFloatCompares : (wIssue wTeam).Ready (use1 0 63 0 false) := ready_of (by decide +kernel)
theorem witness_SignsClassesAndFloatCompares_fcmp : (wIssue wTeam).Ready (useCmp 1 1 2 3) := ready_of (by decide +kernel)

theorem witness_Conversions : (wIssue wTeam).Ready (use1 0 1 1 true) := ready_of (by decide +kernel)
theorem witness_Conversions_fcvtr : (wIssue wTeam).Ready (use2 0 1 2 3 true true) := ready_of (by decide +kernel)
theorem witness_Conversions_fcvtn : (wIssue wTeam).Ready (use2 0 1 2 3 false false) := ready_of (by decide +kernel)

/-- The largest subnormal of f32 with neither DAZ nor FTZ, and the largest finite f16 with both. -/
theorem witness_RoundingKeepsRepresentableValues :
    (0x7FFFFF < 2 ^ FF.f32.bits ∧ bitsOf 0x7FFFFF FF.f32.fmt.mb FF.f32.fmt.eb ≠ 2 ^ FF.f32.fmt.eb - 1) ∧
    (0x7BFF < 2 ^ FF.f16.bits ∧ bitsOf 0x7BFF FF.f16.fmt.mb FF.f16.fmt.eb ≠ 2 ^ FF.f16.fmt.eb - 1 ∧
      bitsOf 0x7BFF FF.f16.fmt.mb FF.f16.fmt.eb ≠ 0) := by decide

/-- One and the least subnormal of f16, with DAZ and without; a NaN, an infinity and zero of f64; bounds and scales of FCVTN. -/
theorem witness_RoundingKeepsRepresentableValues_finite :
    (unpack F16 false 0x3C00).special = false ∧ (unpack F16 true 1).special = false ∧ unpack F16 false 1 = .fin false 1 (-24) ∧
      (unpack BF16 false 0x3F80).special = false ∧ (unpack F32 false 0x3F800000).special = false := by decide
theorem witness_RoundingKeepsRepresentableValues_divisor : (FV.fin false 1 (-24)).rat ≠ 0 := by norm_num [FV.rat]
theorem witness_RoundingKeepsRepresentableValues_special :
    (unpack F64 false 0x7FF0000000000001).isNan = true ∧ unpack F64 false 0xFFF0000000000000 = .inf true ∧
      (unpack F64 false 0x7FF0000000000000).isInf = true ∧ (unpack F64 false 0).isZero = true := by decide
theorem witness_RoundingKeepsRepresentableValues_fcvtn :
    NF.e2m1 ≠ .e8m0 ∧ ((0x7F00000000 : Word).extractLsb' 32 8).toNat = 127 ∧ ((0xFF00000000 : Word).extractLsb' 32 8).toNat = 255 := by
  decide

theorem witness_LaneMovesVotesAndCrossLaneReads_bcast :
    (wIssue wTeam).Ready { pg := some 1, vw := [3], gr := [(1, true)] } := ready_of (by decide +kernel)
theorem witness_LaneMovesVotesAndCrossLaneReads_getl : (wIssue wTeam).Ready (useVG 1 63 1 true) := ready_of (by decide +kernel)
theorem witness_LaneMovesVotesAndCrossLaneReads_vote : (wIssue wTeam).Ready { pg := some 2, badPred := (1 : BitVec 3) = 0 } :=
  ready_of (by decide +kernel)
theorem witness_LaneMovesVotesAndCrossLaneReads_cnt : (wIssue wTeam).Ready { pg := some 1, gw := [5] } := ready_of (by decide +kernel)
theorem witness_LaneMovesVotesAndCrossLaneReads_laneix : (wIssue wTeam).Ready (use0 1 3) := ready_of (by decide +kernel)
theorem witness_LaneMovesVotesAndCrossLaneReads_shfl : (wIssue wTeam).Ready (use2 1 3 1 2 false false) := ready_of (by decide +kernel)

theorem witness_ReductionsAndScans_xred : (wIssue wTeam).Ready (useVG 1 5 1 true) := ready_of (by decide +kernel)
theorem witness_ReductionsAndScans_tree : ([255, 1] : List Nat).length ≤ 65536 ∧ ∀ x ∈ ([255, 1] : List Nat), x < 2 ^ (redIW 3).bits := by
  decide
/-- With executing lanes and, under p7, with none. -/
theorem witness_ReductionsAndScans_xscan :
    ∀ p ∈ ([0, 7].map fun n => (wIssue wTeam, ({ pg := some n, vw := [3], vr := [(1, true)] } : Use))), p.1.Ready p.2 :=
  ready_all (by decide +kernel)
theorem witness_ReductionsAndScans_lanes :
    (wIssue wTeam).ex { pg := some 0 } ≠ 0 ∧ (wIssue wTeam).ex { pg := some 7 } = 0 := by decide +kernel

/-! ### Uniform instructions and control flow -/

theorem witness_UniformArithmeticAndImmediates : (wIssue wTeam).Ready (useU2 1 63 1 2) := ready_of (by decide +kernel)
theorem witness_UniformArithmeticAndImmediates_one : (wIssue wTeam).Ready (useU1 0 0 1) := ready_of (by decide +kernel)
theorem witness_UniformArithmeticAndImmediates_movi : (wIssue wTeam).Ready { qg := 1, gw := [63] } := ready_of (by decide +kernel)
theorem witness_UniformArithmeticAndImmediates_movh : (wIssue wTeam).Ready (useMovh 0 1) := ready_of (by decide +kernel)

theorem witness_UniformPredicatesAndSelection_gcmp :
    (wIssue wTeam).Ready { qg := 0, badPred := (7 : BitVec 3) = 0, gr := [(1, false), (2, false)] } := ready_of (by decide +kernel)
theorem witness_UniformPredicatesAndSelection_qlog : (wIssue wTeam).Ready { qg := 1, badPred := (1 : BitVec 3) = 0 } :=
  ready_of (by decide +kernel)

theorem witness_FalseUniformGuardHasNoEffect :
    (wIssue wTeam).Current ∧ (useU2 2 3 1 2).illReg wTeam = false ∧ (useU2 2 3 1 2).waits wTeam = false ∧ wTeam.qpred 2 = false :=
  ⟨(ready_of (u := {}) (by decide +kernel)).toCurrent, by decide +kernel, by decide +kernel, by decide +kernel⟩
/-- GCMP, QLOG, CALL, GETC, FENCE, BAR.WAIT, CACHE.PUB and HNARROW in both forms, under q2. -/
theorem witness_FalseUniformGuardHasNoEffect_units :
    ∀ i ∈ ([.gcmp { qg := 2, qd := 1, ga := 1, gb := 2, cc := .eq, cmb := .set }, .qlogPset 2 7, .call 2 63 0, .getc 2 5 .gtc, .fence 2 .gang .acqRel false, .barWait 2 0,
        .cachePub ⟨2, 1, 2, 3⟩, .hnarrow ⟨2, 5, 1, 2⟩ 8, .hnarrow ⟨2, 5, 1, 2⟩ 7] : List Instr),
      ((guardedUse i).map fun u => !u.illReg wTeam && !u.waits wTeam && !wTeam.qpred u.qg) = some true := by decide +kernel
/-- A reserved rounding mode, and one that is not. -/
theorem witness_FalseUniformGuardHasNoEffect_setc : 6 ≤ (wTeam.greg 1).toNat % 8 ∧ ¬ 6 ≤ (wTeam.greg 2).toNat % 8 := by decide +kernel
theorem witness_FalseUniformGuardHasNoEffect_reg :
    63 < wTeam.geom.gregs ∧ wTeam.gMark 63 ≠ .empty ∧ wTeam.qpred 7 = false := by decide +kernel

theorem witness_plain : (wIssue wTeam).Ready {} := ready_of (by decide +kernel)
theorem witness_BranchesCallsAndReturns_call : (wIssue wTeam).Ready { qg := 1, gw := [63] } := ready_of (by decide +kernel)
/-- g1 = 6 is no multiple of four, g4 = 0x40 is one. -/
theorem witness_BranchesCallsAndReturns_ret :
    (∀ p ∈ ([1, 4].map fun r => (wIssue wTeam, ({ qg := 0, gr := [(r, false)] } : Use))), p.1.Ready p.2) ∧
      (wTeam.greg 1).toNat % 4 ≠ 0 ∧ (wTeam.greg 4).toNat % 4 = 0 :=
  ⟨ready_all (by decide +kernel), by decide +kernel⟩

/-- Records of the witness team: j1 has parked lane 3; j2 is built for the arm's lanes at 0x140. -/
def wJoins : Team :=
  (wTeam.setJoin 1 ⟨none, 1, 8, 0, false, 0⟩).setJoin 2 ⟨some 0x140, 15, 0, 0, false, 1⟩

theorem witness_DivergingBranchesAndJoinRecords_parked :
    (wIssue wJoins).Ready {} ∧ (wJoins.join 1).parkedT ||| (wJoins.join 1).parkedF ≠ 0 :=
  ⟨ready_of (by decide +kernel), by decide +kernel⟩
/-- p3 is false in every lane, p0 true in every lane, p1 in some. -/
theorem witness_DivergingBranchesAndJoinRecords_masks :
    (wTeam.join 0).parkedT ||| (wTeam.join 0).parkedF = 0 ∧ (15 : LaneMask) &&& wTeam.predMask 3 = 0 ∧
      (15 : LaneMask) &&& ~~~((15 : LaneMask) &&& wTeam.predMask 0) = 0 ∧ (15 : LaneMask) &&& wTeam.predMask 1 = 5 := by
  decide +kernel
theorem witness_DivergingBranchesAndJoinRecords_serial :
    (wIssue (wArm fun a => { a with inHandler := true, stack := List.replicate 15 ⟨0x80, 16⟩ })).Ready {} ∧
    (wIssue (wArm fun a => { a with inHandler := true, stack := List.replicate 16 ⟨0x80, 16⟩ })).Ready {} :=
  ⟨ready_of (by decide +kernel), ready_of (by decide +kernel)⟩
theorem witness_DivergingBranchesAndJoinRecords_add :
    (wJoins.join 2).pc = some ((wIssue wJoins).target ((16#18).signExtend 64)) ∧
      (wJoins.join 0).pc ≠ some ((wIssue wJoins).target ((16#18).signExtend 64)) := by decide +kernel

/-- The T arm at 0x40 with lanes 0 to 3, of which record j3 has them pending beside lane 4, j4 just them and one parked lane. -/
def wJoining : Team :=
  { (((wTeam.setJoin 2 ⟨some 0x44, 15, 0, 0, false, 1⟩).setJoin 3 ⟨none, 31, 0, 0, false, 1⟩).setJoin 4 ⟨some 0x40, 15, 16, 0, false, 2⟩)
    with armT := some (Arm.start 0x40 15) }
/-- The same with an F arm whose lane 5 is parked in record j5. -/
def wJoinBoth (loops : List LoopEntry) : Team :=
  { (wJoining.setJoin 5 ⟨some 0x40, 15, 0, 32, true, 3⟩) with armF := some { Arm.start 0x80 64 with loops := loops } }

theorem witness_JoinParksAndReleases :
    (wIssue wJoining).Ready {} ∧ (15 : LaneMask) &&& (wJoining.join 1).pending = 0 ∧
      ((wJoining.join 2).pending ≠ 0 ∧ ¬ ((wJoining.join 2).pc = none ∨ (wJoining.join 2).pc = some 0x40)) ∧
      ((wJoining.join 3).pc = none ∧ (15 : LaneMask) &&& (wJoining.join 3).pending ≠ (wJoining.join 3).pending) ∧
      ((wJoining.join 4).pc = some 0x40 ∧ (15 : LaneMask) &&& (wJoining.join 4).pending = (wJoining.join 4).pending ∧
        (wJoining.join 4).parkedF = 0) :=
  ⟨ready_of (by decide +kernel), by decide +kernel⟩
theorem witness_JoinParksAndReleases_both :
    (wIssue (wJoinBoth [])).Ready {} ∧ (wIssue (wJoinBoth [⟨0, 8, 2⟩])).Ready {} ∧ ((wJoinBoth []).join 5).parkedF ≠ 0 ∧
      (15 : LaneMask) &&& ((wJoinBoth []).join 5).pending = ((wJoinBoth []).join 5).pending :=
  ⟨ready_of (by decide +kernel), ready_of (by decide +kernel), by decide +kernel⟩

/-- Record j1 has the leaving lanes 0 and 2 pending and lane 4 parked: it closes when they exit. -/
def wClosing : Team := wTeam.setJoin 1 ⟨some 0x40, 5, 16, 0, false, 1⟩
def wClosingFull : Team :=
  { wClosing with armT := some { Arm.start 0 15 with stack := List.replicate 16 ⟨0x80, 32⟩ } }

theorem witness_ExitRemovesItsLanes :
    (wIssue wTeam).Ready {} ∧ (15 : LaneMask) &&& wTeam.predMask 3 = 0 ∧ (15 : LaneMask) &&& wTeam.predMask 1 ≠ 0 ∧
      (List.range 8).filter (fun j => (wTeam.join j).parked ≠ 0) = [] :=
  ⟨ready_of (by decide +kernel), by decide +kernel⟩
theorem witness_ExitRemovesItsLanes_closing :
    (wIssue wClosing).Ready {} ∧ (wIssue wClosingFull).Ready {} ∧
      (releaseAll [1] ((wClosing.dropLanes 5).setArm false (some ({ Arm.start 0 10 with active := 10 }.advance 4)))).1 = none ∧
      (releaseAll [1] ((wClosingFull.dropLanes 5).setArm false
        (some ({ Arm.start 0 10 with stack := List.replicate 16 ⟨0x80, 32⟩ }.advance 4)))).1 = some 1 :=
  ⟨ready_of (by decide +kernel), ready_of (by decide +kernel), by decide +kernel⟩

/-- The witness team with loop counts: g1 too large, g2 = 3, g3 = 0. -/
def wLoop (loops : List LoopEntry) : Team :=
  { wTeam with g := [(1, 0x100000000), (2, 3)], armT := some { Arm.start 0 15 with loops := loops } }

theorem witness_LoopsCountTheirPasses :
    ∀ p ∈ ([(0, 1), (0, 2), (0, 3), (3, 2), (4, 2)].map fun q =>
      (wIssue (wLoop (List.replicate q.1 ⟨0, 0x100, 1⟩)), ({ gr := [(q.2, false)] } : Use))), p.1.Ready p.2 := ready_all (by decide +kernel)
/-- Two loops that end at 0x20, the inner in its last pass and before it. -/
theorem witness_LoopsCountTheirPasses_nested :
    let a := fun n : BitVec 32 => { Arm.start 0x20 15 with loops := [⟨0x10, 0x20, n⟩, ⟨0, 0x20, 2⟩] }
    (a 1).pc + BitVec.ofNat 64 4 - 4 = 0x20 ∧ (a 1).advance 4 = { a 1 with pc := 0, loops := [⟨0, 0x20, 1⟩] } ∧
      (a 2).advance 4 = { a 2 with pc := 0x10, loops := [⟨0x10, 0x20, 1⟩, ⟨0, 0x20, 2⟩] } := by decide +kernel
/-- The last word of a body of length 16383 lies in the probe's 65536 bytes of code, that of one of 16384 does not. -/
theorem witness_LoopsCountTheirPasses_code :
    probeLaunch.lr.code ≤ 4 * 16383 ∧ 4 * 16383 + 4 ≤ probeLaunch.lr.code + probeLaunch.lr.codeLen ∧
      ¬ 4 * 16384 + 4 ≤ probeLaunch.lr.code + probeLaunch.lr.codeLen := by decide
theorem witness_LoopsCountTheirPasses_lbrk :
    (wIssue (wLoop [])).Ready { qg := 0 } ∧ (wIssue (wLoop [⟨0, 0x20, 1⟩])).Ready { qg := 1 } :=
  ⟨ready_of (by decide +kernel), ready_of (by decide +kernel)⟩

/-! ### Loads, stores, atomics -/

/-- What `Issue.Reaches` asks. -/
def reachesB (k : Issue) (u : Use) (gh vo n : Nat) (acc : Acc) (e : PalEntry) : Bool :=
  decide (k.t'.handle k.s (k.t.greg gh) = some e) && (k.lanes u).all fun L =>
    decide (k.off vo L % n = 0) && !crosses k.l e (k.off vo L) n && decide (k.off vo L + n ≤ e.limit)
      && !lockedAt k.s k.t.geom.core k.l.ctx (placeOf k.l k.t.geom e L (k.off vo L)) n
      && (match placeOf k.l k.t.geom e L (k.off vo L) with
          | .va va => (match tlbLook k.s (coreUnit k.t.geom.core) k.l.ctx va acc with
            | .pa _ => true
            | _ => false)
          | _ => true)

theorem reaches_of {k : Issue} {u : Use} {gh vo n : Nat} {acc : Acc} {e : PalEntry} (h : reachesB k u gh vo n acc e = true) :
    k.Reaches u gh vo n acc e := by
  simp only [reachesB, Bool.and_eq_true, decide_eq_true_eq, List.all_eq_true, Bool.not_eq_true'] at h
  obtain ⟨he, h⟩ := h
  refine ⟨he, fun L hL => ⟨(h L hL).1.1.1.1, (h L hL).1.1.1.2⟩, fun L hL => (h L hL).1.1.2, fun L hL => (h L hL).1.2, fun L hL va hv => ?_⟩
  have := (h L hL).2
  rw [hv] at this
  dsimp only at this
  split at this
  · exact ⟨_, by assumption⟩
  · cases this

/-- An entry of 4096 bytes of a space, with every permission and policy. -/
def wEnt (space : Nat) : PalEntry :=
  { PalEntry.invalid with ok := true, space := space, limit := 0x1000, perm := 7, polmask := 15, target := 1, rtype := 1, rop := 0 }

/-- The witness team with an entry in slot 0 (g5 = 0x100), g6 = 3; v4 = 8 (L + 1), v5 = 0xFF8 and v6 = 0xFF9 in lane L. -/
def wMem (e : PalEntry) : Team :=
  { wTeam with
    slots := [(0, some e)], g := [(1, 6), (2, 3), (4, 0x40), (5, 256), (6, 3)]
    lanes := (List.range 4).map fun L => { wLane L with v := (wLane L).v ++ [(4, BitVec.ofNat 64 (8 * (L + 1))), (5, 0xFF8), (6, 0xFF9)] } }

/-- Its state: page 0 in the TLB of die 0, group 1 valid with four members of which this chip is one, routes to chips 0 to 3. -/
def wMemState (e : PalEntry) : State :=
  let s := wState (wMem e)
  { s with easel := { s.easel with tlb := [⟨0, 0, 0, 0x100000, true, true, true, false⟩] }
           mgmt := { s.mgmt with bar0 := sset 0 s.mgmt.bar0 0x200040 0xC0000C0000000000 } }

def wMemIssue (e : PalEntry) : Issue := wAt (wMemState e) (wMem e)

theorem admitsLoad_of {s : State} {e : PalEntry} {sx : Bool} {n pol : Nat}
    (h : e.space ≠ 9 ∧ e.space ≠ 10 ∧ (e.space = 7 → sx = false ∧ n = rtypeBytes e.rtype ∧ s.groupValid e.target = true ∧ e.isSealed = false)
      ∧ e.perm.testBit 0 = true ∧ e.polmask.testBit pol = true) : e.AdmitsLoad s sx n pol :=
  ⟨⟨h.1, h.2.1⟩, h.2.2.1, h.2.2.2.1, h.2.2.2.2⟩

theorem witness_LoadsStart :
    (wMemIssue (wEnt 2)).Ready (loadUse ⟨1, 9, 4, 5, .si, .w64⟩) ∧ (wMemState (wEnt 2)).held (wMemIssue (wEnt 2)).a true = false ∧
    (wMemIssue (wEnt 2)).Reaches (loadUse ⟨1, 9, 4, 5, .si, .w64⟩) 5 4 8 .read (wEnt 2) ∧ (wEnt 2).AdmitsLoad (wMemState (wEnt 2)) true 8 0 ∧
    (wMemIssue (wEnt 2)).lanes (loadUse ⟨1, 9, 4, 5, .si, .w64⟩) ≠ [] :=
  ⟨ready_of (by decide +kernel), by decide +kernel, reaches_of (by decide +kernel), admitsLoad_of (by decide +kernel), by decide +kernel⟩
theorem witness_LoadsStart_device :
    (wMemIssue (wEnt 5)).Ready (loadUse ⟨0, 4, 5, 5, .wt, .w64⟩) ∧ (wMemState (wEnt 5)).held (wMemIssue (wEnt 5)).a true = false ∧
    (wMemIssue (wEnt 5)).Reaches (loadUse ⟨0, 4, 5, 5, .wt, .w64⟩) 5 5 8 .read (wEnt 5) ∧ (wEnt 5).AdmitsLoad (wMemState (wEnt 5)) false 8 3 ∧
    (wMemIssue (wEnt 5)).lanes (loadUse ⟨0, 4, 5, 5, .wt, .w64⟩) ≠ [] :=
  ⟨ready_of (by decide +kernel), by decide +kernel, reaches_of (by decide +kernel), admitsLoad_of (by decide +kernel), by decide +kernel⟩
theorem witness_LoadsStart_mcast :
    (wMemIssue (wEnt 7)).Ready (loadUse ⟨0, 4, 4, 5, .wt, .w32⟩) ∧ (wMemIssue (wEnt 7)).Reaches (loadUse ⟨0, 4, 4, 5, .wt, .w32⟩) 5 4 4 .read (wEnt 7) ∧
      (wEnt 7).AdmitsLoad (wMemState (wEnt 7)) false 4 3 :=
  ⟨ready_of (by decide +kernel), reaches_of (by decide +kernel), admitsLoad_of (by decide +kernel)⟩
/-- The state after a unit, and the T arm of team 0 there. -/
def wNext (i : Instr) (s : State) : State :=
  match exec i s with
  | .next s' => s'
  | .fault _ => s
  | .refused _ => s
def wTeam0 (s : State) : Team := (s.team? 0).getD wTeam
def wAfter (i : Instr) (s : State) : Issue := wAt (wNext i s) (wTeam0 (wNext i s))

/-- A copy of the team's own store is under way through a group to the eight bytes at 0xFF8 of its scratchpad. -/
def wBehind : Issue :=
  let s := wMemState (wEnt 2)
  wAt { s with coh := { s.coh with ops := [(9, some ⟨.store, 0, false, [⟨5, 0, 2 ^ 58 + 0xFF8, 2 ^ 58 + 0x1000⟩]⟩)] } } (wMem (wEnt 2))

/-- Nothing is under way in the witness state; behind a store of the team through a group to the same bytes an access waits. -/
theorem witness_LoadsStart_order :
    (wMemIssue (wEnt 2)).Follows (loadUse ⟨1, 9, 4, 5, .si, .w64⟩) (wEnt 2) 4 8 true ∧
    (wMemIssue (wEnt 2)).InOrder (loadUse ⟨1, 9, 4, 5, .si, .w64⟩) (wEnt 2) 4 8 0 ∧
    (wMemIssue (wEnt 5)).Follows (loadUse ⟨0, 4, 5, 5, .wt, .w64⟩) (wEnt 5) 5 8 true ∧
    (wMemIssue (wEnt 5)).InOrder (loadUse ⟨0, 4, 5, 5, .wt, .w64⟩) (wEnt 5) 5 8 3 := by
  unfold Issue.Follows Issue.InOrder
  decide +kernel
theorem witness_LoadsStart_behind :
    let k := wBehind
    (k.Ready (loadUse ⟨1, 9, 5, 5, .si, .w64⟩) ∧ k.Reaches (loadUse ⟨1, 9, 5, 5, .si, .w64⟩) 5 5 8 .read (wEnt 2)) ∧
      k.s.held k.a true = false ∧ k.lanes (loadUse ⟨1, 9, 5, 5, .si, .w64⟩) ≠ [] ∧
      ¬ k.Follows (loadUse ⟨1, 9, 5, 5, .si, .w64⟩) (wEnt 2) 5 8 true :=
  ⟨⟨ready_of (by decide +kernel), reaches_of (by decide +kernel)⟩, by decide +kernel, by decide +kernel,
    by unfold Issue.Follows; decide +kernel⟩
/-- p3 is false in every lane. -/
theorem witness_LoadsStart_noLane :
    (wMemIssue (wEnt 2)).Ready (loadUse ⟨3, 9, 6, 5, .si, .w64⟩) ∧ (wMemIssue (wEnt 2)).Reaches (loadUse ⟨3, 9, 6, 5, .si, .w64⟩) 5 6 8 .read (wEnt 2) ∧
      (wMemIssue (wEnt 2)).lanes (loadUse ⟨3, 9, 6, 5, .si, .w64⟩) = [] :=
  ⟨ready_of (by decide +kernel), reaches_of (by decide +kernel), by decide +kernel⟩

/-- The issues at which the checks of LD, LDS and ST are looked at: through g5 a scratchpad, NET, GANGCAST and a group; entries without
a permission or a policy; g4, which names no entry; v6, which is misaligned; an entry that ends inside the access. -/
def wChecked : List (Issue × Use) :=
  ([wEnt 2, wEnt 9, wEnt 10, wEnt 7, wEnt 5, { wEnt 2 with perm := 4 }, { wEnt 2 with polmask := 14 }, { wEnt 2 with limit := 0xFFF }].flatMap
    fun e => [loadUse, storeUse].flatMap fun u =>
      [(wMemIssue e, u ⟨0, 1, 5, 5, .si, .w64⟩), (wMemIssue e, u ⟨0, 1, 6, 5, .si, .w64⟩), (wMemIssue e, u ⟨0, 1, 5, 4, .si, .w64⟩)])
theorem witness_AccessChecksTrapInOrder : ∀ p ∈ wChecked, p.1.Ready p.2 := ready_all (by decide +kernel)
theorem witness_AccessChecksTrapInOrder_lanes :
    (wMem (wEnt 2)).handle (wMemState (wEnt 2)) 0x40 = none ∧ (wMem (wEnt 2)).handle (wMemState (wEnt 2)) 256 = some (wEnt 2) ∧
      0 ∈ (wMemIssue (wEnt 2)).lanes (loadUse ⟨0, 9, 6, 5, .si, .w64⟩) ∧ (wMemIssue (wEnt 2)).off 6 0 % 8 ≠ 0 ∧
      0xFFF < (wMemIssue (wEnt 2)).off 5 0 + 8 ∧ (wMemIssue (wEnt 2)).off 5 0 + 8 ≤ 0x1000 ∧
      (∀ L' ∈ (wMemIssue (wEnt 2)).lanes (loadUse ⟨0, 9, 5, 5, .si, .w64⟩), (wMemIssue (wEnt 2)).off 5 L' % 8 = 0 ∧
        crosses probeLaunch (wEnt 2) ((wMemIssue (wEnt 2)).off 5 L') 8 = false) ∧
      (wMemState (wEnt 2)).held (wMemIssue (wEnt 2)).a true = false ∧ (wMemState (wEnt 2)).held (wMemIssue (wEnt 2)).a false = false := by
  decide +kernel
/-- A command has locked the bytes that v5 names; the page of a DEVICE entry may not be read; a sealed group. -/
def wLocked : State :=
  { wMemState (wEnt 2) with eng := { (wMemState (wEnt 2)).eng with locks := [⟨0, 0, 0, 0, 0, 2 ^ 58 + 0xFC0, 2 ^ 58 + 0x1000, true⟩] } }
def wUnread : State :=
  { wMemState (wEnt 5) with easel := { (wMemState (wEnt 5)).easel with tlb := [⟨0, 0, 0, 0x100000, false, true, true, false⟩] } }
theorem witness_AccessChecksTrapInOrder_bytes :
    lockedAt wLocked 0 0 (placeOf probeLaunch (wMem (wEnt 2)).geom (wEnt 2) 0 0xFF8) 8 = true ∧
      placeOf probeLaunch (wMem (wEnt 5)).geom (wEnt 5) 0 0xFF8 = .va 0xFF8 ∧ tlbLook wUnread (coreUnit 0) 0 0xFF8 .read = .fatal 0xFF8 ∧
      (wMemState (wEnt 7)).groupValid 1 = true ∧ (wMemState (wEnt 7)).groupValid 2 = false := by decide +kernel
theorem witness_AccessChecksTrapInOrder_blocked :
    (wAt wLocked (wMem (wEnt 2))).Ready (loadUse ⟨0, 9, 5, 5, .si, .w64⟩) ∧ (wAt wUnread (wMem (wEnt 5))).Ready (loadUse ⟨0, 9, 5, 5, .si, .w64⟩) :=
  ⟨ready_of (by decide +kernel), ready_of (by decide +kernel)⟩

theorem admitsStore_of {s : State} {e : PalEntry} {pol : Nat}
    (h : e.space ≠ 9 ∧ e.space ≠ 10 ∧ (e.space = 7 → s.groupValid e.target = true) ∧ e.perm.testBit 1 = true ∧ e.polmask.testBit pol = true) :
    e.AdmitsStore s pol := ⟨⟨h.1, h.2.1⟩, h.2.2.1, h.2.2.2.1, h.2.2.2.2⟩

theorem witness_StoresPerform :
    (wMemIssue (wEnt 2)).Ready (storeUse ⟨0, 1, 5, 5, .si, .w64⟩) ∧
      (wMemIssue (wEnt 2)).Reaches (storeUse ⟨0, 1, 5, 5, .si, .w64⟩) 5 5 8 .write (wEnt 2) ∧ (wEnt 2).AdmitsStore (wMemState (wEnt 2)) 0 ∧
      (wMemIssue (wEnt 2)).lanes (storeUse ⟨0, 1, 5, 5, .si, .w64⟩) ≠ [] :=
  ⟨ready_of (by decide +kernel), reaches_of (by decide +kernel), admitsStore_of (by decide +kernel), by decide +kernel⟩
theorem witness_StoresPerform_device :
    (wMemIssue (wEnt 5)).Ready (storeUse ⟨1, 1, 4, 5, .own, .w32⟩) ∧
      (wMemIssue (wEnt 5)).Reaches (storeUse ⟨1, 1, 4, 5, .own, .w32⟩) 5 4 4 .write (wEnt 5) ∧ (wEnt 5).AdmitsStore (wMemState (wEnt 5)) 2 :=
  ⟨ready_of (by decide +kernel), reaches_of (by decide +kernel), admitsStore_of (by decide +kernel)⟩
theorem witness_StoresPerform_mcast :
    (wMemIssue (wEnt 7)).Ready (storeUse ⟨1, 1, 4, 5, .wt, .w32⟩) ∧
      (wMemIssue (wEnt 7)).Reaches (storeUse ⟨1, 1, 4, 5, .wt, .w32⟩) 5 4 4 .write (wEnt 7) ∧ (wEnt 7).AdmitsStore (wMemState (wEnt 7)) 3 :=
  ⟨ready_of (by decide +kernel), reaches_of (by decide +kernel), admitsStore_of (by decide +kernel)⟩

theorem witness_StoresPerform_order :
    (wMemState (wEnt 2)).held (wMemIssue (wEnt 2)).a false = false ∧
    (wMemIssue (wEnt 2)).Follows (storeUse ⟨0, 1, 5, 5, .si, .w64⟩) (wEnt 2) 5 8 false ∧
    (wMemIssue (wEnt 5)).Follows (storeUse ⟨1, 1, 4, 5, .own, .w32⟩) (wEnt 5) 4 4 false := by
  unfold Issue.Follows
  decide +kernel
theorem witness_StoresPerform_behind :
    let k := wBehind
    (k.Ready (storeUse ⟨0, 2, 5, 5, .si, .w64⟩) ∧ k.Reaches (storeUse ⟨0, 2, 5, 5, .si, .w64⟩) 5 5 8 .write (wEnt 2)) ∧
      k.s.held k.a false = false ∧ k.lanes (storeUse ⟨0, 2, 5, 5, .si, .w64⟩) ≠ [] ∧
      ¬ k.Follows (storeUse ⟨0, 2, 5, 5, .si, .w64⟩) (wEnt 2) 5 8 false :=
  ⟨⟨ready_of (by decide +kernel), reaches_of (by decide +kernel)⟩, by decide +kernel, by decide +kernel,
    by unfold Issue.Follows; decide +kernel⟩
/-- The store's message at its bank, and the number of the first message of the net. -/
def wHead (s : State) : Nat := (s.coh.net.head?.map (·.id)).getD 0
theorem witness_StoresPerform_bank :
    let s := wNext (.st ⟨0, 1, 5, 5, .si, .w64⟩) (wMemState (wEnt 2))
    s.coh.net.head?.any (fun m => decide (s.deliverable (wHead s) = some m) && m.toHome && bankSector m.sector
      && !(s.dirEnt m.sector).held && (match m.body with
        | .req (.write _ _) => true
        | _ => false)) = true := by decide +kernel

/-- The probe's gang is one core: a mask of 1 names it, one of 3 names a core past it, one of 0 none; p3 is false in every lane; a lane is
kept out by the space, the permission and the policy of its entry. -/
def wStm (e : PalEntry) (mask : Word) : Issue :=
  let t := (wMem e).setG 6 mask
  wAt ((wMemState e).setTeam 0 t) t
theorem witness_MulticastStoresSendTheirCopies :
    (∀ p ∈ (([wStm (wEnt 10) 0, wStm (wEnt 10) 1, wStm (wEnt 10) 3, wStm (wEnt 2) 1, wStm { wEnt 10 with perm := 5 } 1,
        wStm { wEnt 10 with polmask := 14 } 1] : List Issue).flatMap fun k =>
          [(k, stmUse ⟨0, 1, 4, 5, .si, .w64⟩), (k, stmUse ⟨3, 1, 4, 5, .si, .w64⟩)]), p.1.Ready p.2) := ready_all (by decide +kernel)
theorem witness_MulticastStoresSendTheirCopies_lanes :
    let k := wStm (wEnt 10) 1
    k.s.held k.a false = false ∧ k.t'.handle k.s (k.t.greg 5) = some (wEnt 10) ∧ k.lanes (stmUse ⟨3, 1, 4, 5, .si, .w64⟩) = [] ∧
      k.lanes (stmUse ⟨0, 1, 4, 5, .si, .w64⟩) = [0, 1, 2, 3] ∧
      (∀ L ∈ [0, 1, 2, 3], k.off 4 L % 8 = 0 ∧ k.off 4 L + 8 ≤ (wEnt 10).limit ∧
        lockedAt k.s 0 0 (.bank (k.stmKey (wEnt 10) 4 0 L)) 8 = false) ∧ (k.t.greg 6).getLsbD 0 = true := by decide +kernel

theorem admitsAtomic_of {e : PalEntry} {a : AOp} (h : (e.space ≠ 7 ∧ e.space ≠ 9 ∧ e.space ≠ 10) ∧ e.perm % 8 = 7 ∧
    (e.space = 8 → a = .add ∨ a = .xchg ∨ a = .cas) ∧ e.polmask.testBit e.defpol = true) : e.AdmitsAtomic a :=
  ⟨h.1, h.2.1, h.2.2.1, h.2.2.2⟩

theorem witness_AtomicsPerform :
    (wMemIssue (wEnt 2)).Ready (atomicUse ⟨0, 1, 4, 5, .add⟩) ∧
      (wMemIssue (wEnt 2)).Reaches (atomicUse ⟨0, 1, 4, 5, .add⟩) 5 4 8 .atomic (wEnt 2) ∧ (wEnt 2).AdmitsAtomic .add ∧
      (wMemIssue (wEnt 2)).lanes (atomicUse ⟨0, 1, 4, 5, .add⟩) ≠ [] :=
  ⟨ready_of (by decide +kernel), reaches_of (by decide +kernel), admitsAtomic_of (by decide +kernel), by decide +kernel⟩
theorem witness_AtomicsPerform_device :
    (wMemIssue (wEnt 5)).Ready (atomicUse ⟨0, 1, 4, 5, .cas⟩) ∧
      (wMemIssue (wEnt 5)).Reaches (atomicUse ⟨0, 1, 4, 5, .cas⟩) 5 4 4 .atomic (wEnt 5) ∧ (wEnt 5).AdmitsAtomic .cas :=
  ⟨ready_of (by decide +kernel), reaches_of (by decide +kernel), admitsAtomic_of (by decide +kernel)⟩
theorem witness_AtomicsPerform_order :
    (wMemIssue (wEnt 2)).Follows (atomicUse ⟨0, 1, 4, 5, .add⟩) (wEnt 2) 4 8 false ∧
    (wMemIssue (wEnt 5)).Follows (atomicUse ⟨0, 1, 4, 5, .cas⟩) (wEnt 5) 4 4 false := by
  unfold Issue.Follows
  decide +kernel
theorem witness_AtomicsPerform_behind :
    let k := wBehind
    (k.Ready (atomicUse ⟨0, 2, 5, 5, .add⟩) ∧ k.Reaches (atomicUse ⟨0, 2, 5, 5, .add⟩) 5 5 8 .atomic (wEnt 2)) ∧
      k.s.held k.a false = false ∧ k.lanes (atomicUse ⟨0, 2, 5, 5, .add⟩) ≠ [] ∧
      ¬ k.Follows (atomicUse ⟨0, 2, 5, 5, .add⟩) (wEnt 2) 5 8 false :=
  ⟨⟨ready_of (by decide +kernel), reaches_of (by decide +kernel)⟩, by decide +kernel, by decide +kernel,
    by unfold Issue.Follows; decide +kernel⟩
/-- The atomic of lane 2 alone at its bank. -/
def wAtomic (op : AOp) : State :=
  wNext (.atom64 ⟨0, 1, 5, 5, op⟩)
    ((wMemState (wEnt 4)).setTeam 0 { wMem (wEnt 4) with armT := some (Arm.start 0x100 4) })
theorem witness_AtomicsPerform_bank :
    let s := wAtomic .decn
    s.coh.net.head?.any (fun m => decide (s.deliverable (wHead s) = some m) && m.toHome && bankSector m.sector
      && !(s.dirEnt m.sector).held && (match m.body with
        | .req (.atomic .decn true 56 _ _ false _ _ _) => true
        | _ => false)) = true := by decide +kernel

/-- Operands of the float atomics: signalling NaN, an infinity, -0 and +0, a subnormal. -/
theorem witness_AtomicsPerform_float :
    (unpack F32 false 0x7F800001).isNan = true ∧ unpack F64 false 0xFFF0000000000000 = .inf true ∧
      unpack F32 false 0x7F800000 = .inf false ∧ unpack F32 false 0x80000000 = .fin true 0 (-149) ∧
      (unpack F64 false 1).special = false ∧ ltV true (unpack F32 false 0x80000000) (unpack F32 false 0) = true := by decide
theorem witness_AtomicsPerform_fadd :
    let s := wAtomic .fadd
    s.coh.net.head?.any (fun m => decide (s.deliverable (wHead s) = some m) && (match m.body with
        | .req (.atomic .fadd true 56 _ _ false _ _ _) => true
        | _ => false)) = true := by decide +kernel

theorem witness_OrderedAccessesPerform_load :
    (wMemIssue (wEnt 6)).Ready (loadUse ⟨0, 9, 4, 5, .wt, .w64⟩) ∧
      (wMemIssue (wEnt 6)).Reaches (loadUse ⟨0, 9, 4, 5, .wt, .w64⟩) 5 4 8 .read (wEnt 6) ∧ (wEnt 6).AdmitsLoad (wMemState (wEnt 6)) false 8 3 :=
  ⟨ready_of (by decide +kernel), reaches_of (by decide +kernel), admitsLoad_of (by decide +kernel)⟩
/-- A release whose bytes stay near and one whose bytes travel: nothing the arm issued before is under way. -/
theorem witness_OrderedAccessesPerform_store :
    let go := fun e near => match releaseStep ((wMemIssue e).ctx (storeUse ⟨0, 1, 4, 5, .wt, .w64⟩) 8)
      ((wMemIssue e).before (storeUse ⟨0, 1, 4, 5, .wt, .w64⟩) false) (Order.of .release .pod) near with
      | .go _ _ => true
      | _ => false
    ((wMemIssue (wEnt 5)).Ready (storeUse ⟨0, 1, 4, 5, .wt, .w64⟩) ∧
      (wMemIssue (wEnt 5)).Reaches (storeUse ⟨0, 1, 4, 5, .wt, .w64⟩) 5 4 8 .write (wEnt 5) ∧ (wEnt 5).AdmitsStore (wMemState (wEnt 5)) 3) ∧
      go (wEnt 5) false = true ∧ go (wEnt 4) true = true :=
  ⟨⟨ready_of (by decide +kernel), reaches_of (by decide +kernel), admitsStore_of (by decide +kernel)⟩, by decide +kernel, by decide +kernel⟩
theorem witness_OrderedAccessesPerform_atomic :
    (wMemIssue (wEnt 6)).Ready (atomicUse ⟨1, 1, 4, 5, .xchg⟩) ∧
      (wMemIssue (wEnt 6)).Reaches (atomicUse ⟨1, 1, 4, 5, .xchg⟩) 5 4 4 .atomic (wEnt 6) ∧ (wEnt 6).AdmitsAtomic .xchg :=
  ⟨ready_of (by decide +kernel), reaches_of (by decide +kernel), admitsAtomic_of (by decide +kernel)⟩

theorem witness_OrderedAccessesPerform_order :
    (wMemIssue (wEnt 6)).Follows (loadUse ⟨0, 9, 4, 5, .wt, .w64⟩) (wEnt 6) 4 8 true ∧
    (wMemIssue (wEnt 6)).InOrder (loadUse ⟨0, 9, 4, 5, .wt, .w64⟩) (wEnt 6) 4 8 3 ∧
    (wMemIssue (wEnt 5)).Follows (storeUse ⟨0, 1, 4, 5, .wt, .w64⟩) (wEnt 5) 4 8 false ∧
    (wMemIssue (wEnt 6)).Follows (atomicUse ⟨1, 1, 4, 5, .xchg⟩) (wEnt 6) 4 4 false ∧
    (wMemState (wEnt 5)).liveOps (wMemIssue (wEnt 5)).a.ops = [] ∧ (wMemState (wEnt 5)).wroteM 0 0 false = false ∧
    (wMemState (wEnt 5)).awaitsOwn 0 0 false = false := by
  unfold Issue.Follows Issue.InOrder
  decide +kernel
theorem witness_OrderedAccessesPerform_noLane :
    (wMemIssue (wEnt 6)).lanes (loadUse ⟨3, 9, 4, 5, .wt, .w64⟩) = [] ∧ (wMemIssue (wEnt 6)).Ready (loadUse ⟨3, 9, 4, 5, .wt, .w64⟩) ∧
      (wMemIssue (wEnt 6)).Reaches (loadUse ⟨3, 9, 4, 5, .wt, .w64⟩) 5 4 8 .read (wEnt 6) :=
  ⟨by decide +kernel, ready_of (by decide +kernel), reaches_of (by decide +kernel)⟩

/-! ### Traps, control registers, pauses, ordering, batches, handles -/

/-- The T arm inside a handler that saved unit 0x40 of length 8. -/
def wInHandler : Team :=
  { wArm (fun a => { a with inHandler := true }) with trap := ⟨0x8000, 0x40, 0x20, 0, 8⟩ }

theorem witness_TrapsAreTakenAndReturnedFrom :
    (wIssue wTeam).Ready {} ∧ (wIssue wTeam).a.inHandler = false ∧ (wIssue wInHandler).Ready {} ∧ (wIssue wInHandler).a.inHandler = true :=
  ⟨ready_of (by decide +kernel), by decide +kernel, ready_of (by decide +kernel), by decide +kernel⟩
theorem witness_TrapsAreTakenAndReturnedFrom_trap : (wIssue wTeam).Ready { qg := (1 : BitVec 3).toNat } := ready_of (by decide +kernel)

/-- The witness team without a trap handler. -/
def wBare : Team := { wTeam with trap := ⟨0, 0, 0, 0, 0⟩ }

theorem wFits (t : Team) (h : t.geom = wTeam.geom) : t.geom.Fits := by
  rw [h]
  constructor <;> decide

theorem witness_AbortLeavesItsRecord_running :
    (wIssue wBare).l.isAborting = false ∧ (wIssue wInHandler).l.isAborting = false := by decide +kernel
theorem witness_AbortLeavesItsRecord :
    (wIssue wBare).Current ∧ ¬ (wIssue wBare).Handled ∧ wBare.geom.Fits ∧ 0x10 < 2 ^ 8 ∧ probeLaunch.node < 2 ^ 16 ∧
      (wIssue wInHandler).Current ∧ ¬ (wIssue wInHandler).Handled ∧ wInHandler.geom.Fits :=
  ⟨(ready_of (u := {}) (by decide +kernel)).toCurrent, fun h => h.1 (by decide +kernel), wFits _ rfl, by decide, by decide,
    (ready_of (u := {}) (by decide +kernel)).toCurrent, fun h => absurd h.2 (by decide +kernel), wFits _ rfl⟩

/-- A walker over 4 elements of 8 bytes from byte 0 of every lane. -/
def wWalker : Walker := ⟨wEnt 4, 3, false, [4, 1, 1], [8, 0, 0], [0, 0, 0, 0], [], some (0, 0, 0), false, false, false, false, []⟩

/-- A team of 62 v registers with walker 1 bound, v3 empty, v4 lost to chip 7, v5 poisoned in lane 1. -/
def wMarked : Team :=
  { ((((wTeam.setWalker 1 (some wWalker)).setVMark 3 .empty).setVMark 4 (.lost 7)).setVMark 5 (.poison 2)) with
    geom := { wTeam.geom with vcount := 62 } }

theorem witness_RegistersAreCheckedFirst_illreg :
    (wIssue wMarked).Current ∧ wMarked.geom.vcount ≤ (62 : BitVec 6).toNat ∧
      (60 ≤ (61 : BitVec 6).toNat ∧ (wMarked.walker? ((61 : BitVec 6).toNat - 60)).isSome = true) :=
  ⟨(ready_of (u := {}) (by decide +kernel)).toCurrent, by decide +kernel, by decide +kernel⟩
theorem witness_RegistersAreCheckedFirst_empty :
    wMarked.vMark (3 : BitVec 6).toNat = .empty ∧ wMarked.vMark (2 : BitVec 6).toNat ≠ .empty ∧
      ¬ (wMarked.geom.vcount ≤ (3 : BitVec 6).toNat ∨ wMarked.geom.vcount ≤ (2 : BitVec 6).toNat ∨
        (60 ≤ (3 : BitVec 6).toNat ∧ (wMarked.walker? ((3 : BitVec 6).toNat - 60)).isSome = true)) := by decide +kernel
theorem witness_RegistersAreCheckedFirst_marks :
    ((use2 0 1 4 2 false false).illReg wMarked = false ∧ (use2 0 1 4 2 false false).waits wMarked = false ∧
      wMarked.vMark (4 : BitVec 6).toNat = .lost 7) ∧
    ((use2 0 1 5 2 false false).illReg wMarked = false ∧ (use2 0 1 5 2 false false).waits wMarked = false ∧
      wMarked.vMark (5 : BitVec 6).toNat = .poison 2 ∧ (2 : LaneMask) &&& (wIssue wMarked).ex (use2 0 1 5 2 false false) ≠ 0) := by
  decide +kernel
/-- The marked register as the second source, and as MAD's vd behind two clean ones. -/
theorem witness_RegistersAreCheckedFirst_later :
    ((use2 0 1 2 4 false false).illReg wMarked = false ∧ (use2 0 1 2 4 false false).waits wMarked = false ∧
      (use2 0 1 2 4 false false).vr = [(2, false)] ++ (4, false) :: []) ∧
    ((use3 0 5 2 1 false false).illReg wMarked = false ∧ (use3 0 5 2 1 false false).waits wMarked = false ∧
      (use3 0 5 2 1 false false).vr = [(2, false), (1, false)] ++ (5, false) :: []) ∧
    wMarked.vMark 2 = .full ∧ wMarked.vMark 1 = .full := by decide +kernel

theorem witness_ControlRegistersReadAndWrite :
    (wIssue wTeam).Ready { qg := 0, gw := [63] } ∧ wTeam.geom.Fits ∧ (wIssue wTeam).a.stack.length ≤ 16 ∧
      (wIssue wTeam).a.loops.length ≤ 4 ∧ (0 < wTeam.geom.lanes ∧ (wIssue wTeam).a.active.getLsbD 0 = true) :=
  ⟨ready_of (by decide +kernel), wFits _ rfl, by decide +kernel, by decide +kernel, by decide +kernel⟩
/-- g1 = 6 is no FPCTL value and no TRAPVEC; g2 = 3 is an FPCTL value, g4 = 0x40 a TRAPVEC. -/
theorem witness_ControlRegistersReadAndWrite_setc :
    6 ≤ (wTeam.greg 1).toNat % 8 ∧ (wTeam.greg 2).toNat % 8 < 6 ∧
      (wTeam.greg 1).toNat % 4 ≠ 0 ∧ (wTeam.greg 4).toNat % 4 = 0 := by decide +kernel
/-- A false guard lets the register be read and its value be checked; q1 is true. -/
theorem witness_ControlRegistersReadAndWrite_guard :
    (∀ p ∈ ((wIssue wTeam, ({ qg := 1 } : Use)) :: [1, 2, 4].map fun r => (wIssue wTeam, ({ gr := [(r, false)] } : Use))), p.1.Ready p.2) ∧
      wTeam.qpred 2 = false ∧ wTeam.qpred 1 = true := ⟨ready_all (by decide +kernel), by decide +kernel⟩
theorem witness_ControlRegistersReadAndWrite_lanes : 0 < wTeam.lanes.length ∧ 0 < wTeam.geom.lanes ∧ 0 < 1024 := by decide +kernel

/-- g5 names the entry, g1 = 6 lies in it, g7 = 0x1000 does not. -/
def wPause (e : PalEntry) : Team := (wMem e).setG 7 0x1000
def wPauseIssue (e : PalEntry) : Issue := wAt ((wMemState e).setTeam 0 (wPause e)) (wPause e)

theorem witness_PausesParkAndWake :
    (wIssue wTeam).Ready { qg := 0 } ∧
    ((wPauseIssue (wEnt 2)).Ready { qg := 0, gr := [(5, false), (1, false)] } ∧
      (wPause (wEnt 2)).handle (wPauseIssue (wEnt 2)).s 0x100 = some (wEnt 2)) ∧
    ((wPauseIssue (wEnt 4)).Ready { qg := 0, gr := [(5, false), (1, false)] } ∧
      (wPauseIssue (wEnt 4)).Ready { qg := 0, gr := [(5, false), (7, false)] } ∧
      (wPause (wEnt 4)).handle (wPauseIssue (wEnt 4)).s 0x100 = some (wEnt 4)) :=
  ⟨ready_of (by decide +kernel), ⟨ready_of (by decide +kernel), by decide +kernel⟩,
    ⟨ready_of (by decide +kernel), ready_of (by decide +kernel), by decide +kernel⟩⟩
theorem witness_PausesParkAndWake_spaces :
    ((wPauseIssue (wEnt 5)).Ready { qg := 0, gr := [(5, false), (1, false)] } ∧
      tlbLook (wPauseIssue (wEnt 5)).s (coreUnit 0) probeLaunch.ctx 6 .read = .pa 0x100006) ∧
    (wPauseIssue (wEnt 6)).Ready { qg := 0, gr := [(5, false), (1, false)] } ∧ (wEnt 4).perm.testBit 0 = true ∧
      (wPause (wEnt 4)).greg 1 = 6 ∧ (wPause (wEnt 4)).greg 7 = 0x1000 :=
  ⟨⟨ready_of (by decide +kernel), by decide +kernel⟩, ready_of (by decide +kernel), by decide, by decide +kernel, by decide +kernel⟩

/-- The T arm at a PAUSE since cycle 0 and at a SC fence with H = 0; cycle and GTC have gone on. -/
def wParked (w : Wait) (gtc : Nat) (locked : Bool) : State :=
  let s := wState (wArm fun a => { a with wait := w })
  { s with
    sched := { s.sched with cycle := 5000, gtc := gtc }, pod := { s.pod with locked := locked, bounded := true }
    mgmt := { s.mgmt with stage := 4 } }

theorem witness_PausesParkAndWake_parked :
    let w := Wait.paused 0 (some (podSector 3 0 0))
    let s := wParked w 0 true
    (s.team? 0 = some (wArm fun a => { a with wait := w }) ∧ 0 + 4096 ≤ s.sched.cycle ∧ 2 ^ 60 ≤ podSector 3 0 0 ∧
      (podSector 3 0 0 - 2 ^ 60) / 2 ^ 68 = 3 ∧ s.pod.dead.contains 3 = false ∧
      (({ s with pod := { s.pod with dead := [3] } } : State).pod.dead.contains 3 = true)) ∧
    (wParked (.paused 4936 none) 0 true).team? 0 = some (wArm fun a => { a with wait := .paused 4936 none }) ∧
      4936 + 64 ≤ (wParked (.paused 4936 none) 0 true).sched.cycle := by
  decide +kernel

/-- A write to the sector that the arm watches, in the Gallery and in memory, is at its home. -/
def wWritten (sec : Nat) : State :=
  let s := wParked (.paused 4999 (some sec)) 0 true
  { s with coh := { s.coh with net := [⟨3, true, 1, sec, .req (.write [(64 * sec + 5, 7)] 9), []⟩] } }
theorem witness_PausesParkAndWake_written :
    (∀ sec ∈ [2 ^ 51, 0x4000], let s := wWritten sec
      (s.deliverable 3).map (fun m => (m.toHome, m.core, m.sector, m.body)) = some (true, 1, sec, .req (.write [(64 * sec + 5, 7)] 9)) ∧
      (64 * sec + 5) / 64 = sec ∧ s.team? 0 = some (wArm fun a => { a with wait := .paused 4999 (some sec) }) ∧
      (s.dirEnt sec).held = false ∧ (s.dirEnt sec).busy = false ∧ (s.dirEnt sec).owner = none ∧
      (s.dirEnt sec).blocked s.sched.gtc (.core 1) = false) ∧
    bankSector (2 ^ 51) = true ∧ bankSector 0x4000 = false := by decide +kernel

theorem witness_FencesHoldLaterAccesses_wait :
    (wParked (.scWait 0) 80 true).team? 0 = some (wArm fun a => { a with wait := .scWait 0 }) ∧
      128 * 0 + 80 ≤ (wParked (.scWait 0) 80 true).sched.gtc ∧ (wParked (.scWait 0) 79 true).sched.gtc < 128 * 0 + 80 ∧
      (wParked (.scWait 0) 80 false).pod.locked = false ∧ (wParked (.scWait 0) 80 true).mgmt.stage = 4 := by
  decide +kernel

/-- Command 7, an MFENCE-like no-op of set 0: a FILL that has done nothing. -/
def wCmd (k : CmdKind) : Cmd where
  kind := k
  launch := 0
  team := 0
  core := 0
  block := 0
  sg := 0
  addr := 0xE0000
  lane := 0
  slices := []
  joining := false
  number := 0
  reserved := 0
  lent := false
  order := 0
  started := false
  startCycle := 0
  progress := 0
  sent := []
  refused := false
  got := 0
  writes := []
  wrote := false
  fail := none
  since := 0
  badEl := false
  drew := false
  vmiss := false
  flags := 0
  tiles := []
  parked := none
  stopped := false

/-- The T arm has a load and a store (operations 3 and 4) and command 7 under way. -/
def wBusy : Team := wArm fun a => { a with ops := [3, 4], cmds := [7] }
def wBusyState : State :=
  let s := wState wBusy
  { s with coh := { s.coh with ops := [(3, some ⟨.load, 0, false, []⟩), (4, some ⟨.store, 0, false, []⟩)] }
           eng := { s.eng with cmds := [(7, some (wCmd .fill))] } }
def wFailed : Team := { wTeam with engcode := some (0x09, 0x40) }

theorem witness_FencesHoldLaterAccesses :
    ((wAt wBusyState wBusy).Ready { qg := 0 } ∧ (wAt wBusyState wBusy).a.cmds.filter wBusyState.cmdLive ≠ []) ∧
      ((wIssue wFailed).Ready { qg := 0 } ∧ (wIssue wFailed).a.cmds.filter (wIssue wFailed).s.cmdLive = [] ∧
        wFailed.engcode = some (0x09, 0x40)) ∧
      (wIssue wTeam).Ready { qg := 0 } ∧ Scope.block.code < 2 ∧ wTeam.engcode = none ∧
      wBusyState.opLive 3 = true ∧ (oget wBusyState.coh.ops 3).map (·.kind) = some .load :=
  ⟨⟨ready_of (by decide +kernel), by decide +kernel⟩, ⟨ready_of (by decide +kernel), by decide +kernel, rfl⟩, ready_of (by decide +kernel),
    by decide, by decide +kernel, by decide +kernel, by decide +kernel⟩

/-- The T arm has a load and a store under way, the store awaiting its ownership of sector 0x4000. -/
def wAwaits : State :=
  let s := wState (wArm fun a => { a with ops := [3, 4] })
  { s with coh := { s.coh with ops := [(3, some ⟨.load, 0, false, []⟩), (4, some ⟨.store, 0, false, []⟩)]
                               owns := [(l1Key 0 0x4000, some [.store 4 0 false [(0x100000, 9)]])] } }
theorem witness_FencesHoldLaterAccesses_own :
    (wAt wAwaits (wTeam0 wAwaits)).Ready { qg := 0 } ∧ wAwaits.awaitsOwn 0 0 false = true ∧ wAwaits.awaitsOwn 1 0 false = false ∧
      (wState wTeam).awaitsOwn 0 0 false = false ∧ wBusyState.awaitsOwn 0 0 false = false ∧ Scope.gang.code ≥ 2 :=
  ⟨ready_of (by decide +kernel), by decide +kernel, by decide +kernel, by decide +kernel, by decide +kernel, by decide⟩

/-- A second arm of the witness team. -/
def wSplit : Team := { wTeam with armF := some (Arm.start 0x80 16) }
/-- The witness team at barrier 1 with a phase under way: expected count and arrivals. -/
def wBar (t : Team) (expected : Option Nat) (arrived : List Nat) : Issue :=
  wAt ((wState t).setBarrier (barKey 0 0 0 1) ⟨0, true, arrived, expected⟩) t

theorem witness_BarriersCountArrivals :
    (∀ p ∈ ([(wIssue wSplit, none), (wIssue wTeam, some 7), (wBar wTeam (some 3) [], some 1), (wBar wTeam (some 6) [0], some 1),
        (wBar wTeam none [], none), (wAt wBusyState wBusy, none), (wIssue wTeam, some 1)] : List (Issue × Option (BitVec 6))).map
          (fun p => (p.1, barUse ⟨0, 1, p.2⟩)), p.1.Ready p.2) ∧
      wTeam.greg 7 = 0 ∧ wTeam.greg 1 = 6 ∧ wBusyState.liveOps (wAt wBusyState wBusy).a.ops ≠ [] :=
  ⟨ready_all (by decide +kernel), by decide +kernel⟩
theorem witness_BarriersCountArrivals_wait :
    (wIssue wSplit).Ready { qg := 0, bars := [1] } ∧ (wIssue wTeam).Ready { qg := 0, bars := [31] } ∧
      oget wTeam.barPhase 31 ≠ some ((wIssue wTeam).s.barrier (barKey 0 0 0 31)).phase ∧
      (wIssue { wTeam with barPhase := oset [] 31 (some 0) }).Ready { qg := 0, bars := [31] } ∧
      oget (oset ([] : Store (Option Nat)) 31 (some 0)) 31 = some ((wIssue wTeam).s.barrier (barKey 0 0 0 31)).phase :=
  ⟨ready_of (by decide +kernel), ready_of (by decide +kernel), by decide +kernel, ready_of (by decide +kernel), by decide +kernel⟩
/-- The gang barrier with this team among its arrivals, and a split team there. -/
theorem witness_BarriersCountArrivals_gangCauses :
    let k := wAt ((wState wTeam).setBarrier (gangBarKey 0 probeLaunch 0) ⟨0, true, [0], none⟩) wTeam
    (k.Ready { qg := 0 } ∧ (wIssue wSplit).Ready { qg := 0 }) ∧
      (k.s.barrier (gangBarKey 0 probeLaunch 0)).counting = true ∧ 0 ∈ (k.s.barrier (gangBarKey 0 probeLaunch 0)).arrived :=
  ⟨⟨ready_of (by decide +kernel), ready_of (by decide +kernel)⟩, by decide +kernel⟩
/-- The witness team alone in its gang, and beside a second team. -/
theorem witness_BarriersCountArrivals_gang :
    let k2 := wAt ((wState wTeam).setTeam 1 { wTeam with geom := { wTeam.geom with index := 1, slot := 1 } }) wTeam
    ((wIssue wTeam).Ready { qg := 0 } ∧ k2.Ready { qg := 0 }) ∧ wTeam.armF = none ∧
      (wIssue wTeam).s.gangLive 0 probeLaunch 0 = [0] ∧ (∃ tid ∈ k2.s.gangLive 0 probeLaunch 0, tid ≠ 0) ∧
      (wIssue wTeam).s.wroteM 0 0 false = false ∧ (wIssue wTeam).s.narrowHomes 0 = [] :=
  ⟨⟨ready_of (by decide +kernel), ready_of (by decide +kernel)⟩, by decide +kernel, by decide +kernel,
    ⟨1, by decide +kernel, by decide⟩, by decide +kernel, by decide +kernel⟩

/-- A range lock that a command of the launch holds on bytes 0 to 63 of virtual address 0. -/
def wLockedPage (e : PalEntry) : State :=
  let s := (wMemState e).setTeam 0 (wPause e)
  { s with eng := { s.eng with locks := [⟨0, 7, 0, 1, 0, 0, 64, true⟩] } }

theorem witness_CacheOperationsCheckAndAct :
    (∀ p ∈ ([(wEnt 5, 5, 4), (wEnt 5, 4, 4), (wEnt 5, 5, 7), (wEnt 5, 5, 1), ({ wEnt 5 with perm := 2 }, 5, 4), (wEnt 2, 5, 4)]
        : List (PalEntry × BitVec 6 × BitVec 6)).map (fun p => (wPauseIssue p.1, cacheUse ⟨0, p.2.1, p.2.2, 4⟩)), p.1.Ready p.2) ∧
      (wPauseIssue (wEnt 5)).s.held (wPauseIssue (wEnt 5)).a false = false ∧
      (wPause (wEnt 5)).handle (wPauseIssue (wEnt 5)).s 0x40 = none ∧ rangeBusy (wPauseIssue (wEnt 5)).s probeLaunch 0 (wEnt 5) 0x40 0x40 = false :=
  ⟨ready_all (by decide +kernel), by decide +kernel⟩
/-- A write waits at the home of the page tables, and no TLB holds the page. -/
theorem witness_CacheOperationsCheckAndAct_busy :
    let s0 := (wPauseIssue (wEnt 5)).s
    let s := { s0 with
      easel := { s0.easel with tlb := [] }
      coh := { s0.coh with dir := [(0, some { DirEnt.init with queue := [⟨.core 0, .write [(0x100000, 7)] 4⟩] })] } }
    (wAt s (wPause (wEnt 5))).Ready (cacheUse ⟨0, 5, 4, 4⟩) ∧
      rangeBusy ((wAt s (wPause (wEnt 5))).before (cacheUse ⟨0, 5, 4, 4⟩) false) probeLaunch 0 (wEnt 5) 0x40 0x40 = true :=
  ⟨ready_of (by decide +kernel), by decide +kernel⟩
theorem witness_CacheOperationsCheckAndAct_locked :
    let k := wAt (wLockedPage (wEnt 5)) (wPause (wEnt 5))
    k.Ready (cacheUse ⟨0, 5, 3, 4⟩) ∧ (wPause (wEnt 5)).greg 3 = 0 ∧ lockedRegion k.s 0 (regionPieces k.l wTeam.geom (wEnt 5) 0 0x40) = true :=
  ⟨ready_of (by decide +kernel), by decide +kernel, by decide +kernel⟩
/-- A modified sector with bytes 0 and 1 dirty. -/
def wSector : L1Sec := ⟨.m, 5 :: 6 :: List.replicate 62 0, 3, 0, [(0, false)]⟩
theorem witness_CacheOperationsCheckAndAct_sector :
    ((wState wTeam).setL1 0 0x4000 (some wSector)).l1? 0 0x4000 = some wSector ∧ wSector.st = .m ∧ wSector.dirty ≠ 0 ∧
      wSector.valid (wState wTeam).sched.gtc = true ∧
      ((wState wTeam).setL1 0 0x4000 (some { wSector with st := .o, dirty := 0 })).l1? 0 0x4000 =
        some { wSector with st := .o, dirty := 0 } := by
  decide +kernel

/-- Tag 1 has one peer, chip 3, with two requests; tag 2 has a close outstanding. -/
def wTagged : Team := { wTeam with peers := [(1, [(3, 2, false)])], closes := oset [] 2 (some ⟨7, [3], 1, [], false, false, false, false, []⟩) }
/-- Chip 3 cannot be reached in one state, and is reached by port 0 in the other. -/
def wReach : State :=
  let s := wState wTagged
  { s with
    mgmt := { s.mgmt with stage := 4, bar0 := sset 0 s.mgmt.bar0 0x800018 0x8000000000000001 }
    pod := { s.pod with ports := [(0, some ⟨true, 0, 0, 0, 0, false⟩)] } }

theorem witness_BatchesClose :
    ((wIssue wTagged).Ready { qg := 0, gw := [7] } ∧ (wAt wReach wTagged).Ready { qg := 0, gw := [7] }) ∧
      wTagged.closing 2 = true ∧ wTagged.closing 1 = false ∧ wTagged.closing 0 = false ∧ sget [] wTagged.peers (wTagged.openBatch 0) = [] ∧
      sget [] wTagged.peers (wTagged.openBatch 1) = [(3, 2, false)] ∧ (wIssue wTagged).s.reachable 3 = false ∧
      wReach.reachable 3 = true ∧ wReach.upPorts 3 [] = [0] :=
  ⟨⟨ready_of (by decide +kernel), ready_of (by decide +kernel)⟩, by decide +kernel⟩

/-- The entry's team with offsets and lengths in pairs: g8, g9 = 64, 128; g10, g11 = 8, 64; g12, g13 = 0, 0; g14, g15 = 64, 0xFC0. -/
def wNarrow : Team :=
  { wMem (wEnt 4) with
    g := [(1, 6), (4, 0x40), (5, 256), (8, 64), (9, 128), (10, 8), (11, 64), (14, 64), (15, 0xFC0)] }
def wNarrowFull : Team := { wNarrow with slots := (List.range 16).map fun i => (i, some (wEnt 4)) }
def wNarrowIssue (t : Team) : Issue := wAt ((wMemState (wEnt 4)).setTeam 0 t) t
def wNarrowUse (ga gb : Nat) : Use := { qg := 0, gr := [(ga, false), (gb, false), (gb + 1, false)], gw := [20] }

theorem witness_HandlesAreNarrowedAndAsked :
    (∀ p ∈ ((wNarrowIssue wNarrowFull, wNarrowUse 5 14) :: [(4, 8), (5, 12), (5, 10), (5, 8), (5, 14)].map fun q =>
      (wNarrowIssue wNarrow, wNarrowUse q.1 q.2)), p.1.Ready p.2) ∧
      wNarrow.handle (wNarrowIssue wNarrow).s 0x40 = none ∧ wNarrow.handle (wNarrowIssue wNarrow).s 0x100 = some (wEnt 4) ∧
      ((1 < 16 ∧ oget wNarrow.slots 1 = none) ∧ ∀ j < 1, ¬ (j < 16 ∧ oget wNarrow.slots j = none)) ∧
      (∀ i, ¬ (i < 16 ∧ oget wNarrowFull.slots i = none)) := by
  refine ⟨ready_all (by decide +kernel), by decide +kernel, by decide +kernel, by decide +kernel, ?_⟩
  intro i h
  exact (by decide +kernel : ∀ i < 16, oget wNarrowFull.slots i ≠ none) i h.1 h.2
theorem witness_HandlesAreNarrowedAndAsked_free :
    (wNarrowIssue wNarrow).Ready { qg := 0, gr := [(5, false)], gn := [0], gw := [63] } ∧
      (wNarrowIssue wNarrow).Ready { qg := 0, gr := [(4, false)], gn := [0], gw := [63] } ∧
      (wNarrow.greg 5).toNat = 256 + 0 ∧ (oget wNarrow.slots 0).isSome = true ∧ (wNarrow.greg 4).toNat < 256 :=
  ⟨ready_of (by decide +kernel), ready_of (by decide +kernel), by decide +kernel, by decide +kernel, by decide +kernel⟩
theorem witness_HandlesAreNarrowedAndAsked_palq :
    (wNarrowIssue wNarrow).Ready { qg := 0, gr := [(5, false)], gw := [63] } ∧
      (wNarrowIssue wNarrow).Ready { qg := 0, gr := [(4, false)], gw := [63] } :=
  ⟨ready_of (by decide +kernel), ready_of (by decide +kernel)⟩

/-! ### Engine commands -/

/-- A tensor entry of binary32 elements in the scratchpad, and one of 8-bit elements with a side plane at byte 0x4000. -/
def wTens : PalEntry := { wEnt 2 with limit := 0x40000, format := 2, recOk := true }
def wSide : PalEntry := { wTens with format := 0x10, scale := 1, splane := 0x4000 }

/-- The witness team with five slots (g8, g10 = the tensor, g12 = DEVICE, g14 = group 1, g16 = group 1 sealed, g18 = the tensor with
a side plane), offsets beside them, and operands of BIND, MWAIT and TEXPECT. -/
def wEng : Team :=
  { wTeam with
    slots := [(0, some wTens), (1, some (wEnt 5)), (2, some (wEnt 7)), (3, some { wEnt 7 with isSealed := true }), (4, some wSide)]
    g := [(1, 6), (2, 3), (4, 0x40), (8, 0x100), (10, 0x100), (11, 0x200), (12, 0x101), (13, 0x40), (14, 0x102), (16, 0x103), (18, 0x104),
      (20, 64), (21, 128), (22, 8), (23, 0x40000200004), (24, 0x8000000000000000), (25, 0x40000200004), (26, 8), (27, 0x8000000000000000),
      (28, 8), (29, 0x40000000004), (30, 0x80000000), (31, 0x100000000), (32, 0xFFFFFFFF),
      (33, 0x101), (34, 0x80)] }

/-- Tiles: t1 of 256 by 128, t2 and t3 of 128 by 128 and 128 by 256, t4 of 4 by 16, t5 filling. -/
def wTile (org rows cols slot : Nat) : Tile := ⟨wTens, org, 0, rows, cols, cols * 4, 0, 0, 0, [], slot⟩
def wTiles : Store (Option Tile) :=
  [(1, some (wTile 0 256 128 0)), (2, some (wTile 0x20000 128 128 1)), (3, some (wTile 0x10000 128 256 2)), (4, some (wTile 0 4 16 3)),
    (5, some { wTile 0 4 16 4 with expect := 8 })]

/-- The witness state of a team whose launch has matrix units, with those tiles. -/
def wEngState (t : Team) : State :=
  let s := (wMemState (wEnt 2)).setTeam 0 t
  { s with eng := { s.eng with tiles := wTiles } }
def wEngIssue (t : Team) : Issue := wAt (wEngState t) t

theorem notFailed {s : State} {g : Nat} (h : s.groupMarked g = none) (hd : s.pod.dead = []) : s.groupFailed g = none := by
  simp [State.groupFailed, h, hd]
theorem loaded_of {k : Issue} (h : k.a.ops = []) : k.Loaded := fun o ho => by simp [h] at ho
theorem names_of {k : Issue} {g : BitVec 6} {e : PalEntry} (h : k.t.handle k.s (k.t.greg g.toNat) = some e) : k.Names g e := h
theorem tileIs_of {k : Issue} {t : BitVec 4} {x : Tile} (h : oget k.s.eng.tiles (k.tile t) = some x) (h0 : x.fail = 0) : k.TileIs t x :=
  ⟨h, h0⟩
theorem fits_of {k : Issue} {g : BitVec 6} {e : PalEntry} {n al : Nat} (h : k.pairOff g % al = 0 ∧ k.pairOff g + n ≤ e.limit) :
    k.Fits g e n al := h

theorem wRoom {t : Team} {n : Nat} {kind : CmdKind} {rs : List (Bool × List Span)} (h : n ≤ 32)
    (held : (wEngIssue t).s.held (wEngIssue t).a false = false) (ops : (wEngIssue t).a.ops = []) : (wEngIssue t).Room n kind rs := by
  refine ⟨held, by simp [ops], ?_, ?_⟩
  · have : ∀ s : State, s.eng.cmds = [] → lockRoom s (wEngIssue t).t.geom (wEngIssue t).tid n = true := fun s hs => by
      simp [lockRoom, tableCmds, hs, slist, h]
    exact this _ rfl
  · have : ∀ s : State, s.eng.cmds = [] → (slotRoom s (wEngIssue t).t.geom (wEngIssue t).tid kind).isSome = true := fun s hs => by
      have : 0 < queueDepth kind := by unfold queueDepth; split <;> first | omega | (split <;> omega)
      simp [slotRoom, hs, slist, this]
    exact this _ rfl
theorem wOpens {n : Nat} {kind : CmdKind} {rs : List (Bool × List Span)} (h : n ≤ 16) : (wEngIssue wEng).Opens n kind rs :=
  { wRoom (n := n * (probeLaunch.lr.teams + 1)) (by rw [show probeLaunch.lr.teams = 0 from rfl]; omega) (by decide +kernel) (by decide +kernel) with
    whole := by decide +kernel, first := by decide +kernel }

theorem witness_TilesAreMappedCountedAndFreed_shape :
    (wEngIssue wEng).Ready { qg := 0, gr := [(8, false), (9, false)] } ∧ (wEngIssue wEng).Names 8 wTens ∧
      (wEngIssue wEng).Ready { qg := 0, gr := [(4, false), (9, false)] } ∧ wEng.handle (wEngState wEng) (wEng.greg 4) = none ∧
      ((wEngIssue wEng).Ready { qg := 0, gr := [(12, false), (9, false)] } ∧ (wEngIssue wEng).Names 12 (wEnt 5) ∧ (wEnt 5).recOk = false) ∧
      (wTens.recOk = true ∧ wTens.format ≠ 0 ∧ wTens.space ∈ [2, 3, 4, 5, 6] ∧ ¬ wTens.scale ≠ 0) ∧
      (oget (wEngState wEng).eng.tiles ((wEngIssue wEng).tile 1)).isSome = true ∧
      (oget (wEngState wEng).eng.tiles ((wEngIssue wEng).tile 6) = none ∧ freeEntry (wEngState wEng) 0 = some 5 ∧ 16 * fmtBits 2 % 512 = 0 ∧
        (wEng.greg 1).toNat % 64 ≠ 0 ∧ (wEng.greg 9).toNat % 64 = 0 ∧ 0 + 0 + 3 * 64 + 64 ≤ wTens.limit) := by
  and_intros <;> first
    | decide +kernel | exact ready_of (by decide +kernel) | exact names_of (by decide +kernel)

/-- A core whose 64 entries are taken. -/
theorem witness_TilesAreMappedCountedAndFreed_full :
    let s := wEngState wEng
    let k := wAt { s with eng := { s.eng with tiles := (List.range 64).map fun n => (tileKey 0 0 (n / 16) (n % 16), some (wTile 0 4 16 n)) } }
      { wEng with geom := { wEng.geom with block := 4 } }
    freeEntry k.s 0 = none ∧ oget k.s.eng.tiles (k.tile 0) = none := by decide +kernel
/-- With a side plane: offsets g20 = 64 and g21 = 128. -/
theorem witness_TilesAreMappedCountedAndFreed_side :
    (wEngIssue wEng).Ready { qg := 0, gr := [(18, false), (20, false)] } ∧ (wEngIssue wEng).Names 18 wSide ∧ wSide.scale ≠ 0 ∧
      (20 + 1 < wEng.geom.gregs ∧ wEng.gMark 21 ≠ .empty) ∧ 64 * fmtBits 0x10 % 512 = 0 ∧ 64 % sideGroup 1 = 0 ∧
      (wEng.greg 20).toNat % 64 = 0 ∧ (wEng.greg 21).toNat % 64 = 0 ∧
      wSide.splane + 128 + (⟨wSide, 64, 0x4080, 4, 64, 64, 0, 0, 0, [], 0⟩ : Tile).sideSpan ≤ wSide.limit := by
  and_intros <;> first
    | decide +kernel | exact ready_of (by decide +kernel) | exact names_of (by decide +kernel)

/-- The side offset of g63 would be g64; that of g20 has not come; rows of one element; offsets of which the element plane, or the side
plane, runs past the entry. -/
def wEngFar : Team := { wEng with g := sset 0 wEng.g 21 0x3FFC0 }
theorem witness_TilesAreMappedCountedAndFreed_traps :
    ∀ p ∈ ([(wEng, 18, 63), (wEng.setGMark 21 .empty, 18, 20), (wEng, 18, 1), (wEngFar, 18, 20), (wEngFar, 8, 21)] : List (Team × Nat × Nat)).map
      (fun p => (wEngIssue p.1, ({ qg := 0, gr := [(p.2.1, false), (p.2.2, false)] } : Use))), p.1.Ready p.2 := ready_all (by decide +kernel)
theorem witness_TilesAreMappedCountedAndFreed_planes :
    wEng.geom.gregs ≤ 63 + 1 ∧ (wEng.setGMark 21 .empty).gMark 21 = .empty ∧ 1 * fmtBits 2 % 512 ≠ 0 ∧ (wEng.greg 1).toNat % 64 ≠ 0 ∧
      (wEngFar.greg 20).toNat % 64 = 0 ∧ (wEngFar.greg 21).toNat % 64 = 0 ∧ wTens.limit < 0x3FFC0 + 63 * 64 + 64 ∧
      wSide.limit < wSide.splane + 0x3FFC0 + (⟨wSide, 64, 0x4080, 4, 64, 64, 0, 0, 0, [], 0⟩ : Tile).sideSpan ∧
      64 + 3 * 64 + 64 ≤ wSide.limit := by decide +kernel
theorem witness_TilesAreMappedCountedAndFreed_count :
    (wEngIssue wEng).Ready { qg := 0, gr := [(31, false)] } ∧ (wEngIssue wEng).Ready { qg := 0, gr := [(32, false)] } ∧
      2 ^ 32 ≤ (wEng.greg 31).toNat ∧ (wEng.greg 32).toNat < 2 ^ 32 ∧ (wEngIssue wEng).TileIs 4 (wTile 0 4 16 3) ∧
      oget (wEngState wEng).eng.tiles ((wEngIssue wEng).tile 6) = none ∧ (wEngIssue wEng).Ready { qg := 0, gw := [63] } := by
  and_intros <;> first
    | decide +kernel | exact ready_of (by decide +kernel)

theorem witness_TilesAreMappedCountedAndFreed_free :
    (wEngIssue wEng).Ready { qg := 0 } ∧ (0 < (8#32 - 0#32).toInt ∧ (0#32 - 0#32).toInt ≤ 0) ∧
      oget (wEngState wEng).eng.tiles ((wEngIssue wEng).tile 5) = some { wTile 0 4 16 4 with expect := 8 } ∧
      oget (wEngState wEng).eng.tiles ((wEngIssue wEng).tile 4) = some (wTile 0 4 16 3) ∧
      namedTile (wEngState wEng) ((wEngIssue wEng).tile 4) = false := by
  and_intros <;> first
    | decide +kernel | exact ready_of (by decide +kernel)

/-- One source of 256 bytes at g8, g9 and one destination at g10, g11; a status register, g63. -/
theorem witness_CopiesAndGathersEnter_cpy :
    (wEngIssue wEng).Ready { qg := 0, gr := pair 8 ++ pair 10, gw := statUse (some 63) } ∧ (wEngIssue wEng).Names 8 wTens ∧
      (wEngIssue wEng).Names 10 wTens ∧ copyFrom (wEngState wEng) wTens = true ∧ copyTo (wEngState wEng) wTens = true ∧
      (wEngIssue wEng).Fits 8 wTens 256 64 ∧ (wEngIssue wEng).Fits 10 wTens 256 64 ∧ (wEngState wEng).held (wEngIssue wEng).a false = false ∧
      (∀ ranges, (wEngIssue wEng).Opens 2 .cpy ranges) ∧ (∀ ranges, (wEngIssue wEng).Opens 1 .fill ranges) ∧
      (wEngIssue wEng).Ready { qg := 0, gr := ((4 : BitVec 6).toNat, false) :: pair 10, gw := statUse none } := by
  and_intros <;> first
    | decide +kernel | exact ready_of (by decide +kernel) | exact names_of (by decide +kernel)
    | exact fits_of (by decide +kernel)
    | exact fun _ => wOpens (by decide)

def wEngSplit : Team := { wEng with armF := some (Arm.start 0x80 16) }
theorem witness_CopiesAndGathersEnter_split :
    (wEngIssue wEngSplit).Ready { qg := 0, gr := pair 8 ++ pair 10, gw := statUse (some 63) } ∧ wEngSplit.armF.isSome = true ∧
      ∀ kind ranges, (wEngIssue wEngSplit).Room 4 kind ranges := by
  and_intros <;> first
    | decide +kernel | exact ready_of (by decide +kernel) | exact names_of (by decide +kernel)
    | exact fits_of (by decide +kernel)
    | (intros; exact wRoom (by decide) (by decide +kernel) (by decide +kernel))
/-- Command 7, opened by another team of the block, is a FILL or a CPY with room for a slice more. -/
def wJoin (kind : CmdKind) : Issue :=
  let s := wEngState wEng
  wAt { s with eng := { s.eng with cmds := [(7, some { wCmd kind with joining := true, team := 1, reserved := 2 })] } } wEng
theorem witness_CopiesAndGathersEnter_join :
    let r : Use := { qg := 0, gr := pair 8 ++ pair 10, gw := statUse (some 63) }
    (wJoin .fill).Ready r ∧ (wJoin .cpy).Ready r ∧ (∀ ranges, (wJoin .cpy).Room 2 .cpy ranges) ∧
      ((wJoin .fill).s.blockCmd (wJoin .fill).t.geom wEng.collSeq).map (·.2.kind) = some .fill ∧
      ((wJoin .cpy).s.blockCmd (wJoin .cpy).t.geom wEng.collSeq).map (fun x => (x.1, x.2.kind)) = some (7, .cpy) ∧
      sliceRoom (wJoin .cpy).s 0 7 { wCmd .cpy with joining := true, team := 1, reserved := 2 } 2 = true :=
  ⟨ready_of (by decide +kernel), ready_of (by decide +kernel),
    fun _ => ⟨by decide +kernel, by rw [show (wJoin .cpy).a.ops = [] by decide +kernel]; simp, by decide +kernel, by decide +kernel⟩,
    by decide +kernel, by decide +kernel, by decide +kernel⟩
theorem witness_CopiesAndGathersEnter_cpyv :
    (wEngIssue wEng).Ready { qg := 0, gr := ((4 : BitVec 6).toNat, false) :: (pair 8 ++ pair 10), gw := statUse (some 63) } ∧
      (wEngIssue wEng).Fits 10 wTens (256 + 64) 64 ∧ wTens.space ∈ [2, 3, 4, 5, 6] ∧ wTens.perm.testBit 1 = true ∧
      ∀ ranges, (wEngIssue wEng).Room 2 (.cpyv 0x40) ranges := by
  and_intros <;> first
    | decide +kernel | exact ready_of (by decide +kernel) | exact names_of (by decide +kernel)
    | exact fits_of (by decide +kernel)
    | exact fun _ _ => wOpens (by decide)
    | (intros; exact wRoom (by decide) (by decide +kernel) (by decide +kernel))
/-- GATH and SCAT of 4 elements of 4 bytes with 32-bit indices: table at g12, indices at g8, elements at g10. -/
def wGath : CGath := ⟨0, 0, 12, 8, 10, some 63, false, 2, 3⟩

theorem witness_CopiesAndGathersEnter_gath :
    (wEngIssue wEng).Ready (gathUse wGath) ∧ (wEngIssue wEng).Names 12 (wEnt 5) ∧ (wEnt 5).space ∈ [2, 3, 4, 5, 6] ∧
      wTens.space ∈ [2, 3, 4, 5] ∧ (wEnt 5).perm.testBit 0 = true ∧ (wEnt 5).perm.testBit 1 = true ∧ wTens.perm.testBit 0 = true ∧
      (wEngIssue wEng).pairOff 12 % 4 = 0 ∧ (wEngIssue wEng).Fits 8 wTens 16 64 ∧ (wEngIssue wEng).Fits 10 wTens 16 64 ∧
      (∀ kind ranges, (wEngIssue wEng).Room 3 kind ranges) := by
  and_intros <;> first
    | decide +kernel | exact ready_of (by decide +kernel) | exact names_of (by decide +kernel)
    | exact fits_of (by decide +kernel)
    | (intros; exact wRoom (by decide) (by decide +kernel) (by decide +kernel))

/-- The same with a launch that has no matrix units. -/
def wNoMatrix : Issue :=
  let l := { probeLaunch with lr := { probeLaunch.lr with mx := false } }
  { wEngIssue wEng with
    s := { wEngState wEng with alloc := { (wEngState wEng).alloc with launches := oset (wEngState wEng).alloc.launches 0 (some l) } }, l := l }

theorem witness_MatrixCommandsEnter_none :
    wNoMatrix.s.held wNoMatrix.a false = false ∧ wNoMatrix.l.lr.mx = false ∧ wNoMatrix.Ready { qg := 0 } := by
  and_intros <;> first
    | decide +kernel | exact ready_of (by decide +kernel)

theorem witness_MatrixCommandsEnter_forms :
    ∀ p ∈ ([mepiUse ⟨0, 0, 1, 8, 3, true, 0, false, false⟩ false, mepiUse ⟨0, 0, 1, 13, 3, true, 0, false, false⟩ true, { gr := [(4, false)] },
      { gw := [63] }, { vw := [1], gr := [(4, false)] }] : List Use).map (fun u => (wNoMatrix, u)), p.1.Ready p.2 := ready_all (by decide +kernel)
theorem witness_MatrixCommandsEnter_mma :
    (wEngIssue wEng).l.lr.mx = true ∧ (wEngIssue wEng).Ready { qg := 0 } ∧ (wEngIssue wEng).TileIs 1 (wTile 0 256 128 0) ∧
      (wEngIssue wEng).TileIs 2 (wTile 0x20000 128 128 1) ∧ setMode (wEngState wEng) wEng.geom 0 = false ∧
      mmaFormats false 2 2 = true ∧ 128 % kBlock 2 2 = 0 ∧ 128 % mmaPoints 3 = 0 ∧ (0#32 - 0#32).toInt ≤ 0 ∧
      (∀ kind ranges, (wEngIssue wEng).Room 2 kind ranges) := by
  and_intros <;> first
    | decide +kernel | exact ready_of (by decide +kernel) | exact names_of (by decide +kernel)
    | exact fits_of (by decide +kernel)
    | (intros; exact wRoom (by decide) (by decide +kernel) (by decide +kernel))
theorem witness_MatrixCommandsEnter_mepi :
    (wEngIssue wEng).Ready (mepiUse ⟨0, 0, 1, 8, 3, true, 0, false, false⟩ false) ∧ mepiTile (wTile 0 256 128 0) 256 128 true = true ∧
      (wEngIssue wEng).TileIs 3 (wTile 0x10000 128 256 2) ∧ mepiTile (wTile 0x10000 128 256 2) 128 256 true = true ∧
      (∀ kind ranges, (wEngIssue wEng).Room 2 kind ranges) ∧ (∀ kind ranges, (wEngIssue wEng).Room 0 kind ranges) := by
  and_intros <;> first
    | decide +kernel | exact ready_of (by decide +kernel) | exact names_of (by decide +kernel)
    | exact fits_of (by decide +kernel)
    | (intros; exact wRoom (by decide) (by decide +kernel) (by decide +kernel))
/-- SEND forms: the group handle is g14 (scale g13) or the sealed g16 (scale g15). -/
theorem witness_MatrixCommandsEnter_send :
    (wEngIssue wEng).Ready (mepiUse ⟨0, 0, 1, 13, 3, true, 0, false, false⟩ true) ∧
      wEng.handle (wEngState wEng) (wEng.greg 14) = some (wEnt 7) ∧ (wEngState wEng).groupValid 1 = true ∧
      (wEngIssue wEng).Ready (mepiUse ⟨0, 0, 1, 15, 3, true, 0, false, false⟩ true) ∧
      wEng.handle (wEngState wEng) (wEng.greg 16) = some { wEnt 7 with isSealed := true } ∧
      mepiTile (wTile 0 256 128 0) 256 128 false = true ∧ rtypeFormat (wEnt 7).rtype = some wTens.format := by
  and_intros <;> first
    | decide +kernel | exact ready_of (by decide +kernel)

theorem witness_MatrixCommandsEnter_group : (wEngState wEng).groupFailed 1 = none := notFailed (by decide +kernel) (by decide +kernel)
theorem witness_MatrixCommandsEnter_mzero :
    (wEngIssue wEng).Ready { qg := 0, gr := [(4, false)] } ∧ (wEngIssue wEng).Ready { qg := 0, gr := [] } := by
  and_intros <;> first
    | decide +kernel | exact ready_of (by decide +kernel)

/-- The witness team after two matrix batches: of the first a command is still live, the second failed with code 0x0F; batch 3 is empty. -/
def wBatches : Team :=
  { wEng with
    batchNo := 3, batches := [(1, some ⟨[7], none⟩), (2, some ⟨[], some 0x0F⟩), (3, some ⟨[9], none⟩)]
    g := [(1, 1), (2, 2), (3, 3), (4, 4), (5, 0x80000003), (6, 300)] }
def wBatchIssue : Issue :=
  let s := wEngState wBatches
  wAt { s with eng := { s.eng with cmds := [(7, some (wCmd (.mzero 1 0 false)))] } } wBatches

theorem witness_MatrixBatchesAndReadback_fence :
    wBatchIssue.l.lr.mx = true ∧ wBatchIssue.Ready { qg := 0, gw := [63] } := by
  and_intros <;> first
    | decide +kernel | exact ready_of (by decide +kernel)

theorem witness_MatrixBatchesAndReadback_wait :
    wBatchIssue.Ready { qg := 0, gr := [(1, false)] } ∧ wBatchIssue.Ready { qg := 0, gr := [(2, false)] } ∧
      wBatchIssue.Ready { qg := 0, gr := [(3, false)] } ∧ wBatchIssue.Ready { qg := 0, gr := [(4, false)] } ∧
      wBatchIssue.Ready { qg := 0, gr := [(5, false)] } ∧ 2 ^ 31 < (3#32 - 4#32).toNat ∧ (3#32 - 0x80000003#32).toNat = 2 ^ 31 ∧
      wBatchIssue.s.cmdLive 7 = true ∧ wBatchIssue.s.cmdLive 9 = false ∧ oget wBatches.batches 0 = none ∧
      wBatchIssue.Ready { qg := 0, gr := [(7, false)] } ∧ (wBatches.greg 7).setWidth 32 = 0#32 := by
  and_intros <;> first
    | decide +kernel | exact ready_of (by decide +kernel)

theorem witness_MatrixBatchesAndReadback_get :
    wBatchIssue.Ready { qg := 0, vw := [1], gr := [(7, false)] } ∧ wBatchIssue.Ready { qg := 0, vw := [1], gr := [(6, false)] } ∧
      setCmds wBatchIssue.s wBatches.geom 0 = [] ∧ 256 ≤ (wBatches.greg 6).toNat ∧ (wBatches.greg 7).toNat < 256 ∧
      (wBatchIssue.s.acc? 0 0 0).f64 = false := by
  and_intros <;> first
    | decide +kernel | exact ready_of (by decide +kernel)

theorem witness_CollectivesOpen :
    (wEngIssue wEng).Ready (collUse ⟨0, 0, 4, 14, some 63, 3⟩) ∧ (wEngState wEng).held (wEngIssue wEng).a false = false ∧ (wEngIssue wEng).Names 14 (wEnt 7) ∧
      (wEngIssue wEng).Names 16 { wEnt 7 with isSealed := true } ∧ (wEngIssue wEng).Ready (collUse ⟨0, 0, 4, 16, none, 0⟩) ∧
      (wEngIssue wEng).Names 8 wTens ∧ (wEngIssue wEng).Ready (collUse ⟨0, 0, 4, 8, none, 0⟩) ∧
      (wEngState wEng).groupValid 1 = true ∧ (wEngState wEng).groupMember 1 = true ∧ (wEngState wEng).groupSize 1 = 4 ∧
      (wEngIssue wEng).TileIs 4 (wTile 0 4 16 3) ∧ (wTile 0 4 16 3).stride = (wTile 0 4 16 3).rowBytes ∧ collFormat 1 2 = true ∧
      (wTile 0 4 16 3).bytes % (64 * 4) = 0 ∧ ∀ kind ranges, (wEngIssue wEng).Opens 1 kind ranges := by
  and_intros <;> first
    | decide +kernel | exact ready_of (by decide +kernel) | exact names_of (by decide +kernel)
    | exact fits_of (by decide +kernel)
    | exact fun _ _ => wOpens (by decide)

/-- The engines' witness state with site 0 attested and 4 queues, and a contract kind at byte 0x200 of the scratchpad. -/
def wGuestIssue : Issue :=
  let s := wEngState wEng
  wAt { s with
    easel := { s.easel with sites := [(0, some ⟨true, false, 0, 3, 0, 0, [], [], [], []⟩)] }
    mem := Memory.putAll s.mem [(2 ^ 58 + 0x201, 0xF0)] } wEng

/-- g13 = 0x40 is no multiple of 128, the pair at g30 lies past the entry. -/
theorem witness_EaselSendsItsPacket :
    wGuestIssue.Ready { qg := 0, gr := pair 8, gw := statUse (some 63) } ∧ wGuestIssue.s.held wGuestIssue.a false = false ∧
      wGuestIssue.Names 8 wTens ∧ wTens.space ∈ [2, 4, 5] ∧ wTens.perm.testBit 0 = true ∧
      (wGuestIssue.Ready { qg := 0, gr := pair 8, gw := statUse none } ∧ wGuestIssue.TileIs 4 (wTile 0 4 16 3)) ∧
      (wGuestIssue.s.site 0).attested = true ∧ (wGuestIssue.s.site 0).isolated = false ∧ (wGuestIssue.s.site 0).qm1 = 3 ∧
      (wGuestIssue.s.site 1).attested = false ∧ wGuestIssue.s.freeSlotOf 0 2 = some 0 := by
  and_intros <;> first
    | decide +kernel | exact ready_of (by decide +kernel) | exact names_of (by decide +kernel)

theorem witness_EaselSendsItsPacket_checks :
    wGuestIssue.Ready { qg := 0, gr := pair 10, gw := statUse (some 63) } ∧ wGuestIssue.Names 10 wTens ∧
      wGuestIssue.Ready { qg := 0, gr := pair 12, gw := statUse (some 63) } ∧ wGuestIssue.Names 12 (wEnt 5) ∧
      (wEng.greg 13).toNat % 128 ≠ 0 ∧ (0x1000 - 64) + 128 > (wEnt 5).limit := by
  and_intros <;> first
    | decide +kernel | exact ready_of (by decide +kernel) | exact names_of (by decide +kernel)

theorem witness_EaselSendsItsPacket_image :
    wGuestIssue.Image wTens 0 (Memory.bytes wGuestIssue.s.mem (2 ^ 58) 128) ∧
      leNat ((Memory.bytes wGuestIssue.s.mem (2 ^ 58) 128).take 2) < 0xF000 ∧
      wGuestIssue.Image wTens 0x200 (Memory.bytes wGuestIssue.s.mem (2 ^ 58 + 0x200) 128) ∧
      0xF000 ≤ leNat ((Memory.bytes wGuestIssue.s.mem (2 ^ 58 + 0x200) 128).take 2) :=
  ⟨Or.inl ⟨2 ^ 58, by decide +kernel, by decide +kernel, by decide +kernel, rfl⟩, by decide +kernel,
    Or.inl ⟨2 ^ 58 + 0x200, by decide +kernel, by decide +kernel, by decide +kernel, rfl⟩, by decide +kernel⟩

/-- The two sectors at byte 0x80 of the DEVICE entry (g33, g34) have been read for the arm. -/
def wGuestDevice : Issue :=
  let s := wGuestIssue.s
  let r := fun sec => some (⟨.arm ⟨0, false⟩, sec, some (List.replicate 64 7, false, 0)⟩ : AgentRead)
  wAt { s with coh := { s.coh with reads := [(1, r 0x4002), (2, r 0x4003)] } } wEng
theorem witness_EaselSendsItsPacket_device :
    wGuestDevice.Ready { qg := 0, gr := pair 33, gw := statUse (some 63) } ∧ wGuestDevice.Names 33 (wEnt 5) ∧ (wEng.greg 34).toNat % 128 = 0 ∧
      0x80 + 128 ≤ (wEnt 5).limit ∧ wGuestDevice.Image (wEnt 5) 0x80 (List.replicate 64 7 ++ List.replicate 64 7) :=
  ⟨ready_of (by decide +kernel), names_of (by decide +kernel), by decide +kernel, by decide, Or.inr ⟨0x80, List.replicate 64 7, List.replicate 64 7,
    by decide +kernel, ⟨0x100080, 1, _, 0, by decide +kernel, rfl, rfl⟩, ⟨0x1000C0, 2, _, 0, by decide +kernel, rfl, rfl⟩, rfl, rfl, rfl⟩⟩

/-- g22 and g23 configure 4 by 1 by 1 elements at a stride of 8; g24 and g27 have bit 63 set; g29 has a zero extent. -/
theorem witness_loaded : (wEngIssue wEng).Loaded ∧ wGuestIssue.Loaded ∧ wGuestDevice.Loaded := by
  refine ⟨loaded_of ?_, loaded_of ?_, loaded_of ?_⟩ <;> decide +kernel

theorem witness_WalkersBindAndUnbind :
    (wEngIssue wEng).Ready { qg := 0, gr := ((8 : BitVec 6).toNat, false) :: pair 22, vn := [61] } ∧ (wEngIssue wEng).Names 8 wTens ∧
      wEng.vMark 61 = .full ∧
      ((wEngIssue wEng).Ready { qg := 0, gr := ((14 : BitVec 6).toNat, false) :: pair 22, vn := [61] } ∧ (wEngIssue wEng).Names 14 (wEnt 7)) ∧
      (wEngIssue wEng).Ready { qg := 0, gr := ((8 : BitVec 6).toNat, false) :: pair 24, vn := [61] } ∧
      (wEngIssue wEng).Ready { qg := 0, gr := ((8 : BitVec 6).toNat, false) :: pair 26, vn := [61] } ∧
      (wEngIssue wEng).Ready { qg := 0, gr := ((8 : BitVec 6).toNat, false) :: pair 28, vn := [61] } ∧
      (wEng.greg 24).getLsbD 63 = true ∧ (wEng.greg 27).getLsbD 63 = true ∧ 0 ∈ [0, 1, 2].map (fun i => ((wEng.greg 29).extractLsb' (21 * i) 21).toNat) := by
  and_intros <;> first
    | decide +kernel | exact ready_of (by decide +kernel) | exact names_of (by decide +kernel)

theorem witness_WalkersBindAndUnbind_bound :
    (wEngIssue (wEng.setWalker 1 (some wWalker))).Ready { qg := 0 } ∧ (wEng.setWalker 1 (some wWalker)).walker? 1 = some wWalker ∧
      wEng.walker? 1 = none :=
  ⟨ready_of (by decide +kernel), by decide +kernel, by decide +kernel⟩

/-! ### The events of teams, cores and homes -/

/-- The witness team with every lane parked in record j1. -/
def wAllParked : Team :=
  { wTeam.setJoin 1 ⟨some 0x40, 0, 15, 0, false, 0⟩ with armT := some (Arm.start 0x44 0) }

theorem witness_TeamEventsComplete_parked :
    (wState wAllParked).team? 0 = some wAllParked ∧ allParked wAllParked = true ∧ oldestHolding wAllParked = some 1 := by decide +kernel
/-- A team without lanes whose one operation under way is a load. -/
theorem witness_TeamEventsComplete_end :
    let t := { wTeam with live := 0 }
    let s := wState t
    let s' : State := { s with coh := { s.coh with ops := [(3, some ⟨.load, 0, false, []⟩), (4, some ⟨.store, 0, false, []⟩)] } }
    s'.team? 0 = some t ∧ t.live = 0 ∧ ∀ o ∈ slist s'.coh.ops, o.2.team = 0 → o.2.kind ≠ .load → accepted s' o.1 = true := by
  decide +kernel
theorem witness_TeamEventsComplete_walker :
    let t := wTeam.setWalker 1 (some wWalker)
    (wState t).team? 0 = some t ∧ t.walker? 1 = some wWalker ∧ (wState t).launch? t.geom.launch = some probeLaunch ∧
      wWalker.pos = some (0, 0, 0) ∧ probeLaunch.onCore = true ∧ (wState t).coh.loads = [] ∧
      ((lanesOf (t.live &&& 3) t.geom.lanes).filter (fun L => !wWalker.arrived.any (fun x => x.1 = L))).filterMap
        (walkKey (wState t) probeLaunch t wWalker (0, 0, 0)) ≠ [] := by decide +kernel
/-- The elements of the walker's load are there. -/
theorem witness_TeamEventsComplete_elements :
    let l : Load := ⟨0, some 1, 0, noTeam, 61, 8, false, [(0, some ⟨0x4000, [(0, 0), (1, 8)], .ready [5, 6], true⟩)], 0, []⟩
    let s := wState (wTeam.setWalker 1 (some wWalker))
    let s' : State := { s with coh := { s.coh with loads := [(2, some l)] } }
    (slist s'.coh.loads).find? (fun x => x.2.team = 0 ∧ x.2.walker = some 1) = some (2, l) ∧ ∀ y ∈ slist l.parts, y.2.st ≠ .waiting := by
  decide +kernel

/-- A load into v9 of lanes 1 and 3, whose one part has its values. -/
def wPart : Part := ⟨0x4000, [(1, 0), (3, 8)], .ready [5, 6], true⟩
def wLoad : Load := ⟨0, none, 0, 3, 9, 8, false, [(0, some wPart)], 0, []⟩
def wLoadState : State :=
  let s := wState (wTeam.setVMark 9 .empty)
  { s with coh := { s.coh with loads := [(2, some wLoad)], ops := [(3, some ⟨.load, 0, false, []⟩)] } }

theorem witness_TeamEventsComplete_load :
    oget wLoadState.coh.loads 2 = some wLoad ∧ oget wLoad.parts 0 = some wPart ∧ wPart.st ≠ .waiting ∧ wPart.st = .ready [5, 6] ∧ wLoad.walker = none ∧
      oset wLoad.parts 0 none = [] ∧ wLoad.lost = [] ∧ wLoad.poison = 0 ∧ wLoadState.team? wLoad.team = some (wTeam.setVMark 9 .empty) ∧
      (wPart.lanes.map (·.1)).Nodup ∧ wPart.lanes[1]? = some (3, 8) ∧ ([5, 6] : List Word)[1]? = some 6 ∧
      (wTeam.setVMark 9 .empty).live.getLsbD 3 = true ∧ 3 < (wTeam.setVMark 9 .empty).lanes.length := by decide +kernel

/-- A message between core 0 and the home of sector 0x4000, the only one under way. -/
def wMsg (toHome : Bool) (b : MsgBody) : Msg := ⟨5, toHome, 0, 0x4000, b, []⟩
def wNet (toHome : Bool) (b : MsgBody) : State :=
  { wLoadState with coh := { wLoadState.coh with net := [wMsg toHome b] } }

theorem wNet_delivers (toHome : Bool) (b : MsgBody) : (wNet toHome b).Delivers 5 toHome (wMsg toHome b) :=
  ⟨by cases toHome <;> rfl, rfl⟩

/-- A copy on its way to the scratchpad, whose sector no CPYV holds. -/
theorem witness_TeamEventsComplete_copy :
    let m : Msg := ⟨5, true, 0, 2 ^ 52, .stmCopy [(2 ^ 58, 7)] 4, []⟩
    let s : State := { wLoadState with coh := { wLoadState.coh with net := [m] } }
    s.Delivers 5 true m ∧ (s.dirEnt m.sector).held = false := ⟨⟨rfl, rfl⟩, rfl⟩
theorem witness_TeamEventsComplete_data :
    let b := MsgBody.data (List.replicate 64 5) false 2 0
    (wNet false b).coh.net.find? (fun m => m.body.fills 2 0) = some (wMsg false b) ∧ (wNet false b).deliverable 5 = some (wMsg false b) ∧
      (wNet false (.ack 3)).coh.net.find? (fun m => m.body.fills 2 0) = none := ⟨rfl, rfl, rfl⟩
theorem witness_TeamEventsComplete_ack : (wNet false (.ack 3)).Delivers 5 false (wMsg false (.ack 3)) := wNet_delivers _ _

/-- The same with a sector in core 0's L1. -/
def wHolds (b : MsgBody) (st : L1State) : State := (wNet false b).setL1 0 0x4000 (some { wSector with st := st, expiry := 100 })

theorem witness_CoresServeTheirMessages_lease :
    ((wState wTeam).setL1 0 0x4000 (some { wSector with st := .l })).l1? 0 0x4000 = some { wSector with st := .l } := by decide +kernel
theorem witness_CoresServeTheirMessages_install :
    (wNet false (.lease 1000 [] 2 0)).Delivers 5 false (wMsg false (.lease 1000 [] 2 0)) ∧
      (wNet false (.lease 1000 [] 2 0)).mayInstall 0 0x4000 2 0 = true ∧ (wNet false (.lease 1000 [] 2 0)).l1? 0 0x4000 = none ∧
      (wNet false (.lease 1000 [] 2 0)).sched.gtc < 1000 - 64 ∧ (wNet false (.lease 64 [] 2 0)).Delivers 5 false (wMsg false (.lease 64 [] 2 0)) ∧
      ¬ (wNet false (.lease 64 [] 2 0)).sched.gtc < 64 - 64 ∧
      (wNet false (.wiCopy [] 2 0)).Delivers 5 false (wMsg false (.wiCopy [] 2 0)) ∧ (wNet false (.wiCopy [] 2 0)).mayInstall 0 0x4000 2 0 = true :=
  ⟨wNet_delivers _ _, by decide +kernel, by decide +kernel, by decide +kernel, wNet_delivers _ _, by decide +kernel,
    wNet_delivers _ _, by decide +kernel⟩
/-- A copy for a load that is gone: where the core holds none of the sector, and where it holds one; a lease for a load that goes on. -/
theorem witness_CoresServeTheirMessages_unwanted :
    let s := wNet false (.wiCopy [] 9 0)
    let h := wHolds (.wiCopy [] 9 0) .k
    s.mayInstall 0 0x4000 9 0 = false ∧ s.l1? 0 0x4000 = none ∧
      h.mayInstall 0 0x4000 9 0 = false ∧ (h.l1? 0 0x4000).map (·.st) = some .k ∧
      (oget s.coh.loads 9).bind (fun l => oget l.parts 0) = none ∧
      (oget s.coh.loads 2).bind (fun l => oget l.parts 0) = some wPart := by decide +kernel
theorem witness_CoresServeTheirMessages_grant :
    (wNet false (.grant [])).Delivers 5 false (wMsg false (.grant [])) ∧ oget (wNet false (.grant [])).coh.owns (l1Key 0 0x4000) = none ∧
      (∀ acts, oget (oset (wNet false (.grant [])).coh.owns (l1Key 0 0x4000) (some acts)) (l1Key 0 0x4000) = some acts) :=
  ⟨wNet_delivers _ _, by decide +kernel, fun _ => rfl⟩
theorem wHolds_delivers (b : MsgBody) (st : L1State) : (wHolds b st).Delivers 5 false (wMsg false b) := ⟨rfl, rfl⟩
theorem witness_CoresServeTheirMessages_held :
    (wHolds .inval .k).Delivers 5 false (wMsg false .inval) ∧ ((wHolds .inval .k).l1? 0 0x4000).map (·.st) = some .k ∧
      (wHolds .recall .m).Delivers 5 false (wMsg false .recall) ∧ ((wHolds .recall .m).l1? 0 0x4000).map (·.st) = some .m ∧
      (wHolds .publish .o).Delivers 5 false (wMsg false .publish) ∧ ((wHolds .publish .o).l1? 0 0x4000).map (·.st) = some .o ∧
      (wHolds .forced .m).Delivers 5 false (wMsg false .forced) ∧
      (wNet false .inval).Delivers 5 false (wMsg false .inval) ∧ (wNet false .recall).l1? 0 0x4000 = none :=
  ⟨wHolds_delivers _ _, by decide +kernel, wHolds_delivers _ _, by decide +kernel, wHolds_delivers _ _, by decide +kernel,
    wHolds_delivers _ _, wNet_delivers _ _, by decide +kernel⟩

/-- The same with a directory entry at the home. -/
def wHome (b : MsgBody) (d : DirEnt) : State := (wNet true b).setDir 0x4000 d
theorem wHome_delivers (b : MsgBody) (d : DirEnt) : (wHome b d).Delivers 5 true (wMsg true b) := ⟨rfl, rfl⟩

theorem witness_HomesServeTheirMessages_write :
    let b := HomeBody.write [(0x100000, 7)] 4
    (wNet true (.req b)).Delivers 5 true (wMsg true (.req b)) ∧ (wNet true (.req b)).homeAccepts 0x4000 = true ∧ bankSector 0x4000 = false ∧ bankSector (2 ^ 52) = true ∧
      (wNet true (.req b)).FreeFor 0x4000 0 ∧ b.isWrite = true ∧
      (wHome (.req b) { DirEnt.init with exp := 9 }).Delivers 5 true (wMsg true (.req b)) ∧
      (wHome (.req b) { DirEnt.init with exp := 9 }).sched.gtc < ((wHome (.req b) { DirEnt.init with exp := 9 }).dirEnt 0x4000).exp := by
  refine ⟨wNet_delivers _ _, rfl, rfl, by decide, ⟨rfl, rfl, Nat.le_refl 0, by intro c h; cases h⟩, rfl, wHome_delivers _ _, by decide +kernel⟩
theorem witness_HomesServeTheirMessages_requests :
    (HomeBody.siRead 9 false 2 0).isSi = true ∧ (HomeBody.wiRead false 2 0).isWi = true ∧ (HomeBody.wtRead false 2 0).isWt = true ∧
      (HomeBody.atomic .add true 0 1 0 false 3 2 0).isAtomic = true ∧ (HomeBody.own false).isOwn = true ∧
      ∀ b, (wNet true (.req b)).Delivers 5 true (wMsg true (.req b)) ∧ (wNet true (.req b)).homeAccepts 0x4000 = true ∧
        ((wNet true (.req b)).dirEnt 0x4000).held = false :=
  ⟨rfl, rfl, rfl, rfl, rfl, fun _ => ⟨wNet_delivers _ _, rfl, rfl⟩⟩
/-- Answers and notices: to a queue of reads that wait for a publish, and at an entry with no, one and four narrow-release holders. -/
theorem witness_HomesServeTheirMessages_answers :
    (∀ b, (wHome b DirEnt.init).Delivers 5 true (wMsg true b)) ∧
      ((wHome (.publishAnswer [] []) { DirEnt.init with pubWait := [⟨.core 1, .wtRead false 2 0⟩] }).dirEnt 0x4000).pubWait =
        [⟨.core 1, .wtRead false 2 0⟩] ∧
      0 ∈ ((wHome .narrowRelease { DirEnt.init with nrh := [0] }).dirEnt 0x4000).nrh ∧
      (let d := (wHome .narrowRelease { DirEnt.init with nrh := [1, 2, 3, 4] }).dirEnt 0x4000
       0 ∉ d.nrh ∧ d.nrh = 1 :: [2, 3, 4] ∧ 4 ≤ d.nrh.length ∧ d.forced = []) :=
  ⟨fun _ => wHome_delivers _ _, by decide +kernel, by decide +kernel, by decide +kernel⟩

/-- A home with a queued write under an ended lease; entries with an owner, a sharer, a holder, nothing; exports of the Gallery and
DEVICE memory. -/
def wDir (d : DirEnt) : State := (wState wTeam).setDir 0x4000 d

theorem witness_HomesServeAndReuseTheirEntries_queue :
    queueFree (wDir { DirEnt.init with queue := [⟨.core 0, .write [(0x100000, 7)] 4⟩] }) 0x4000 = true ∧
      ((wDir { DirEnt.init with queue := [⟨.core 0, .write [(0x100000, 7)] 4⟩] }).dirEnt 0x4000).exp =
        sget 0 (wDir { DirEnt.init with queue := [⟨.core 0, .write [(0x100000, 7)] 4⟩] }).coh.summary (dirSetOf 0x4000) :=
  ⟨by decide +kernel, rfl⟩
theorem witness_HomesServeAndReuseTheirEntries_entry :
    (oget (wDir { DirEnt.init with owner := some 1 }).coh.dir 0x4000).map (·.owner) = some (some 1) ∧
      (oget (wDir { DirEnt.init with sharers := [1] }).coh.dir 0x4000).map (·.sharers) = some [1] ∧
      (oget (wDir { DirEnt.init with nrh := [1] }).coh.dir 0x4000).map (·.nrh) = some [1] ∧
      oget (wDir { DirEnt.init with exp := 9 }).coh.dir 0x4000 = some { DirEnt.init with exp := 9 } := by decide +kernel
def wExports : State :=
  let s := wState wTeam
  { s with mgmt := { s.mgmt with bar0 := [(0x300400, 0), (0x400040, 0x8000000000000704), (0x400050, 0x1000), (0x400080, 0x8000000000000705),
    (0x400090, 0x1000)] } }
def wAllDead (s : State) : State := { s with pod := { s.pod with dead := [3] } }
theorem witness_HomesServeAndReuseTheirEntries_watch :
    wExports.deaf 3 = false ∧ (wAllDead wExports).deaf 3 = true ∧ wExports.exportAt 1 6 1 .read = .bank (2 ^ 57 + 6) ∧ wExports.exportAt 2 6 1 .read = .mem 0 6 0xE0006 := by
  decide +kernel

/-! ### The events of engines -/

/-- The engines' witness state with command 7, in a launch of a status, at a cycle. -/
def wRun (c : Cmd) (st : LaunchStatus) : State :=
  let s := wEngState wEng
  { s with
    eng := { s.eng with cmds := [(7, some c)] }
    sched := { s.sched with cycle := 65536 }
    atrium := { s.atrium with results := sset 0 [] (resultKey 1 5) 256 }
    alloc := { s.alloc with launches := oset [] 0 (some { probeLaunch with status := st }) } }

theorem wRun_running (c : Cmd) (st : LaunchStatus) (h : c.launch = 0 ∧ c.parked = none) :
    (wRun c st).Running 7 c { probeLaunch with status := st } := ⟨rfl, by rw [h.1]; rfl, h.2⟩

/-- A FILL of one sector that has moved it, with status register g63. -/
def wFill : Cmd :=
  { wCmd .fill with started := true, slices := [⟨0, 0, false, some 63, none, some ⟨wTens, 256, 64⟩, 7, 64, 0x100, []⟩] }

theorem witness_EngineEventsComplete_streams :
    streamLaunches (wRun wFill .resident) 0 = [0] ∧ [0].Nodup ∧ (wRun wFill .resident).launch? 0 = some { probeLaunch with status := .resident } ∧
      (wRun wFill .resident).cmd? 7 = some wFill ∧ wFill.kind.streams = true ∧ wFill.joining = false ∧ wFill.writes = [] ∧
      wFill.started = true ∧ doneMoving wFill = true ∧ wFill.kind = .fill ∧ (wFill.slices.map (·.team)).Nodup ∧
      wFill.slices.map (·.stat) = [some 63] ∧ (wRun wFill .resident).team? 0 = some wEng := by
  decide +kernel
/-- A CPYV that has ended, one that holds its version word's sector and has failed, and a GATH and a SCAT with an element out of bounds. -/
def wCpyv (got : Nat) (f : Option Fail) : Cmd :=
  { wCmd (.cpyv 5) with
    started := true, got := got, fail := f
    slices := [⟨0, 0, false, some 63, some ⟨wTens, 0, 64⟩, some ⟨wTens, 256, 128⟩, 7, 64, 0x100, []⟩] }
def wGathered (scat : Bool) : Cmd :=
  { wCmd (.gath ⟨wTens, 0, 4096⟩ ⟨wTens, 0x1000, 16⟩ 0 false 4 4 scat) with
    started := true, badEl := true, got := 3, progress := 4
    slices := [⟨0, 0, false, some 63, none, some ⟨wTens, 256, 16⟩, 7, 16, 0x100, []⟩] }
theorem witness_EngineEventsComplete_elements :
    (∀ c ∈ [wCpyv 5 none, wCpyv 0 (some ⟨0x0A, 0, false, false⟩), wCpyv 2 (some ⟨0x0A, 0, false, false⟩), wGathered false, wGathered true],
      (wRun c .resident).cmd? 7 = some c ∧ c.kind.streams = true ∧ c.joining = false ∧ c.writes = [] ∧ c.started = true ∧ doneMoving c = true ∧
        c.parked = none ∧ ((c.settled 0).reports.map (·.team)).Nodup ∧ c.slices.length = 1) ∧
      (wGathered true).badEl = true ∧ (wGathered true).fail = none ∧ (wCpyv 2 none).got = 2 ∧ wTens.space ≠ 6 := by decide +kernel
/-- A CPY that failed before it started, and its status word's fields. -/
theorem witness_EngineEventsComplete_failed :
    let c := { wCmd .cpy with fail := some ⟨0x09, 3, true, false⟩ }
    (wRun c .resident).cmd? 7 = some c ∧ c.kind = .cpy ∧ c.fail.isSome = true ∧ doneMoving c = true ∧ 0x09 < 2 ^ 8 ∧ 3 < 2 ^ 10 := by
  decide +kernel

/-- MMA of 1 by 40 and 1 by 40 elements into set 0 from byte 0 of the scratchpad. -/
def wMma : Cmd := wCmd (.mma 0 (wTile 0 1 40 0) (wTile 0 1 40 1) none 0)
def wMepi : Cmd := wCmd (.mepi 0 (wTile 0 4 16 3) false none 0 none true false false 0 0 0)

theorem ok_of {x : Io} (h : (match x with | .ok .. => true | _ => false) = true) : ∃ d s, x = .ok d s := by
  cases x <;> first | exact ⟨_, _, rfl⟩ | cases h

theorem witness_EngineEventsComplete_mma :
    (wRun wMma .resident).Running 7 wMma { probeLaunch with status := .resident } ∧ matrixTurn (wRun wMma .resident) 7 wMma = true ∧
      (wMma.fail = none ∧ wMma.stopped = false ∧ wMma.sg < 3 ∧ wMma.progress + mmaStep none = 32 ∧ 32 % splitStep wMma.sg = 0 ∧
        mayFinish { probeLaunch with status := .resident } wMma = true) ∧
      (∃ d s1, mmaAdd (wRun wMma .resident) { probeLaunch with status := .resident } 7 wMma 0 (wTile 0 1 40 0) (wTile 0 1 40 1) none 0 40 =
        .ok d s1) ∧
      (∃ d s1, mmaAdd (wRun wMma .resident) { probeLaunch with status := .resident } 7 wMma 0 (wTile 0 1 40 0) (wTile 0 1 40 1) none 0 32 =
        .ok d s1) :=
  ⟨wRun_running _ _ ⟨rfl, rfl⟩, by decide +kernel, by decide +kernel, ok_of (by decide +kernel), ok_of (by decide +kernel)⟩
/-- The same, started, in a launch that is being pre-empted, and one that failed. -/
theorem witness_EngineEventsComplete_stopping :
    let c := { wMma with started := true }
    (wRun c (.stopping 9)).Running 7 c { probeLaunch with status := .stopping 9 } ∧ matrixTurn (wRun c (.stopping 9)) 7 c = true ∧
      (∃ d s1, mmaAdd (wRun c (.stopping 9)) { probeLaunch with status := .stopping 9 } 7 c 0 (wTile 0 1 40 0) (wTile 0 1 40 1) none 0 32 =
        .ok d s1) ∧
      matrixTurn (wRun { wMma with fail := some ⟨0x0A, 0, false, false⟩ } .resident) 7 { wMma with fail := some ⟨0x0A, 0, false, false⟩ } = true :=
  ⟨wRun_running _ _ ⟨rfl, rfl⟩, by decide +kernel, ok_of (by decide +kernel), by decide +kernel⟩
theorem witness_EngineEventsComplete_sets :
    (wRun (wCmd (.mzero 1 5 true)) .resident).Running 7 (wCmd (.mzero 1 5 true)) { probeLaunch with status := .resident } ∧
      matrixTurn (wRun (wCmd (.mzero 1 5 true)) .resident) 7 (wCmd (.mzero 1 5 true)) = true ∧
      (wRun wMepi .resident).Running 7 wMepi { probeLaunch with status := .resident } ∧ matrixTurn (wRun wMepi .resident) 7 wMepi = true ∧
      wMepi.fail = none ∧ heldIn (wRun wMepi .resident) ((wTile 0 4 16 3).pieces probeLaunch wMepi.geom) = false :=
  ⟨wRun_running _ _ ⟨rfl, rfl⟩, by decide +kernel, wRun_running _ _ ⟨rfl, rfl⟩, by decide +kernel, rfl, by decide +kernel⟩
/-- A SEND form whose 256 bytes the group has taken, and one that has sent a sector of four. -/
def wSend (n : Nat) : Cmd :=
  { wCmd (.mepi 0 (wTile 0 4 16 3) false none 0 (some (wEnt 7, 5)) true false false 0 0 0) with started := true, sent := List.replicate n 0 }
theorem witness_EngineEventsComplete_send :
    matrixTurn (wRun (wSend 4) .resident) 7 (wSend 4) = true ∧ (wTile 0 4 16 3).bytes ≤ 64 * (wSend 4).sent.length ∧
      64 * (wSend 1).sent.length < (wTile 0 4 16 3).bytes ∧ ({ probeLaunch with status := .resident } : Launch).onCore = true ∧
      (wRun (wSend 1) (.stopping 9)).cmd? 7 = some (wSend 1) ∧ (wSend 1).fail = none ∧ (wSend 1).stopped = false := by decide +kernel

/-- An all-reduce of group 1 by tile 4, operation 5, that has contributed and received its 256 bytes; status register g63. -/
def wColl : Cmd :=
  { wCmd (.coll 0 (wTile 0 4 16 3) (wEnt 7) 0 5) with
    sent := [192, 128, 64, 0], slices := [⟨0, 0, false, some 63, none, none, 0, 0, 0x100, []⟩], sg := 3, started := true }

theorem witness_EngineEventsComplete_coll :
    (wRun wColl .resident).Running 7 wColl { probeLaunch with status := .resident } ∧ wColl.joining = false ∧ wColl.writes = [] ∧
      collGets (wRun wColl .resident) 0 (wTile 0 4 16 3) (wEnt 7) ≤ sget 0 (wRun wColl .resident).atrium.results (resultKey (wEnt 7).target 5) ∧
      collSends (wRun wColl .resident) 0 (wTile 0 4 16 3) (wEnt 7) 0 ≤ 64 * wColl.sent.length ∧ (wColl.slices.map (·.team)).Nodup ∧
      (wRun wColl .resident).team? 0 = some wEng ∧ (wRun wColl .resident).eng.tiles ≠ [] ∧
      wColl.sg = 3 ∧ wColl.started = true ∧ wColl.startCycle + 65536 ≤ (wRun wColl .resident).sched.cycle :=
  ⟨wRun_running _ _ ⟨rfl, rfl⟩, by decide +kernel⟩

/-- In a launch that is being pre-empted: a FILL that has moved one granule of two, and a COLL that has sent one of two. -/
theorem witness_EngineEventsComplete_granules :
    let l := { probeLaunch with status := .stopping 9 }
    let c := { wCmd .fill with started := true, progress := 65536, slices := [⟨0, 0, false, none, none, some ⟨wTens, 0, 131072⟩, 7, 65536, 0x100, []⟩] }
    let x := { wColl with kind := .coll 0 (wTile 0 256 128 0) (wEnt 7) 0 5, sent := List.replicate 1024 0, sg := 0 }
    l.isStopping = true ∧ ((wRun c (.stopping 9)).cmd? 7 = some c ∧ (wRun c (.stopping 9)).launch? 0 = some l ∧ doneMoving c = false ∧
      stopsHere l c = true) ∧ (wRun x (.stopping 9)).cmd? 7 = some x ∧ x.fail = none ∧ x.stopped = false ∧ x.started = true ∧
      collAtSplit x = true ∧ 64 * x.sent.length < collSends (wRun x (.stopping 9)) 0 (wTile 0 256 128 0) (wEnt 7) 0 := by decide +kernel

/-! ### The Atriums -/

/-- A state of group 1, of four members, with word 0 of its entry and the nodes over ranks 0 to 3 and 0 to 1 hosted here; exports of
the Gallery and of a DEVICE page that is read-only. -/
def wAtr (w0 : Word) (ps : List Position) : State :=
  let s := wEngState wEng
  { s with
    mgmt := { s.mgmt with bar0 := [(0x200040, w0), (0x200048, 0x8000030000280C00), (0x200050, 0x80000101C0000200), (0x300400, 0),
      (0x400040, 0x8000000000000704), (0x400050, 0x1000), (0x400080, 0x8000000000000705), (0x400090, 0x1000)] }
    sched := { s.sched with gtc := 1000000000 }
    atrium := { s.atrium with positions := ps } }

/-- Word 0: valid, member of rank 0 of four, ROOT 8, LEAF-UP 9, LAND 1; with LAND 0. -/
def wW0 : Word := 0xC0800C0002400001
def wW0full : Word := 0xC0800C0002400000

/-- A sector of ranks a to b of operation 5, which adds 64-bit integers and delivers to an export. -/
def wSec (a b : Nat) (flow : Flow) (down : Bool) (exp : Nat) : GroupSec :=
  ⟨1, 5, flow, 0, 3, 0, 64, exp, 64, 3, a, b, 2 ^ 64 - 1, none, down, false, List.replicate 64 1, true⟩
def wNodeA : TreeNode := ⟨0, 3, 0, 0, 5, 6⟩
def wNodeB : TreeNode := ⟨0, 1, 0, 7, 0, 1⟩
/-- The place of operation 5 at a node, with its left or right operand, or both. -/
def wPos (n : TreeNode) (left right : Bool) (x : GroupSec) : Position := ⟨1, 5, n.a, n.b, 0, x, left, right, false⟩

theorem wArrives (w0 : Word) (ps : List Position) (x : GroupSec) (n : TreeNode)
    (h : (decide ((wAtr w0 ps).groupValid x.group = true ∧ (wAtr w0 ps).deaf x.src = false ∧ (wAtr w0 ps).groupMarked x.group = none ∧
      (wAtr w0 ps).pod.dead = []) && decide (x.down = false) && flowCombines x.flow
      && decide ((wAtr w0 ps).nodeOver x.group x.a x.b = some n)) = true) : (wAtr w0 ps).ArrivesAt x n := by
  simp only [Bool.and_eq_true, decide_eq_true_eq] at h
  obtain ⟨⟨⟨⟨h1, h2, h3, h4⟩, h5⟩, h6⟩, h7⟩ := h
  exact { alive := notFailed h3 h4, entry := h1, heard := h2, up := h5, combines := h6, node := h7 }

theorem witness_NodesCombineInTreeOrder_free :
    (wAtr wW0 []).ArrivesAt (wSec 0 0 .allReduce false 1) wNodeB ∧ (wAtr wW0 []).positionFor (wSec 0 0 .allReduce false 1) wNodeB = none ∧
      (wAtr wW0 []).nodeFree 1 wNodeB = true ∧ (wAtr wW0full []).ArrivesAt (wSec 1 1 .send false 1) wNodeB ∧
      (wAtr wW0full []).positionFor (wSec 1 1 .send false 1) wNodeB = none ∧ (wAtr wW0full []).nodeFree 1 wNodeB = false :=
  ⟨wArrives _ _ _ _ (by decide +kernel), by decide +kernel, by decide +kernel, wArrives _ _ _ _ (by decide +kernel), by decide +kernel⟩
/-- At node (0, 1): the right operand is held and the left arrives; one that does not agree in its operation. -/
theorem witness_NodesCombineInTreeOrder_pair :
    let p := wPos wNodeB false true (wSec 1 1 .allReduce false 1)
    let x := wSec 0 0 .allReduce false 1
    (wAtr wW0 [p]).ArrivesAt x wNodeB ∧ (wAtr wW0 [p]).positionFor x wNodeB = some p ∧ p.left = (!wNodeB.fromLeft x) ∧
      p.right = wNodeB.fromLeft x ∧ Agrees p.sec x ∧ (wAtr wW0 [p]).isRoot 1 wNodeB = false ∧ ¬ Agrees p.sec { x with rop := 1 } ∧
      (wAtr wW0 [p]).ArrivesAt { x with rop := 1 } wNodeB :=
  ⟨wArrives _ _ _ _ (by decide +kernel), by decide +kernel, by decide +kernel, by decide +kernel, ⟨rfl, rfl, rfl, rfl, rfl⟩, by decide +kernel,
    fun h => absurd h.rop (by decide), wArrives _ _ _ _ (by decide +kernel)⟩
/-- At the root: its left operand is held and the right arrives, of an all-reduce and of a reduce-scatter. -/
theorem witness_NodesCombineInTreeOrder_root :
    let p := fun f => wPos wNodeA true false (wSec 0 1 f false 1)
    let x := fun f => wSec 2 3 f false 1
    (wAtr wW0 [p .allReduce]).ArrivesAt (x .allReduce) wNodeA ∧ (wAtr wW0 [p .allReduce]).positionFor (x .allReduce) wNodeA = some (p .allReduce) ∧
      (p .allReduce).left = (!wNodeA.fromLeft (x .allReduce)) ∧ (p .allReduce).right = wNodeA.fromLeft (x .allReduce) ∧
      (wAtr wW0 [p .allReduce]).isRoot 1 wNodeA = true ∧ (wAtr wW0 [p .reduceScatter]).ArrivesAt (x .reduceScatter) wNodeA ∧
      (wAtr wW0 [p .reduceScatter]).positionFor (x .reduceScatter) wNodeA = some (p .reduceScatter) ∧ Agrees (p .reduceScatter).sec (x .reduceScatter) :=
  ⟨wArrives _ _ _ _ (by decide +kernel), by decide +kernel, by decide +kernel, by decide +kernel, by decide +kernel,
    wArrives _ _ _ _ (by decide +kernel), by decide +kernel, ⟨rfl, rfl, rfl, rfl, rfl⟩⟩

theorem sec_of {o : Offer} {p : GroupSec → State → Bool} (h : (match o with | .sec x s => p x s | _ => false) = true) :
    ∃ x s, o = .sec x s ∧ p x s = true := by
  cases o <;> first | exact ⟨_, _, rfl, h⟩ | cases h

/-- A command that contributes tile 4 to group 1, in a group of four and in one of one member. -/
def wOffers (w0 : Word) (form : Nat) : State :=
  let s := wAtr w0 []
  { s with eng := { s.eng with cmds := [(7, some (wCmd (.coll form (wTile 0 4 16 3) (wEnt 7) 0 5)))] } }
def wW0one : Word := 0xC080000002400001

theorem witness_NodesCombineInTreeOrder_offers :
    (∃ x s1, offerOf (wOffers wW0one 0) 7 0 = .sec x s1 ∧ decide ((s1.cmd? 7).isSome = true ∧ s1.groupSize x.group = 1) = true) ∧
      (∃ x s1, offerOf (wOffers wW0 2) 7 0 = .sec x s1 ∧
        decide ((s1.cmd? 7).isSome = true ∧ s1.groupSize x.group ≠ 1 ∧ flowCombines x.flow = false) = true) ∧
      (∃ x s1, offerOf (wOffers wW0 0) 7 0 = .sec x s1 ∧ decide ((s1.cmd? 7).isSome = true ∧ s1.groupSize x.group ≠ 1 ∧
        flowCombines x.flow = true ∧ s1.leafUp x.group ≠ s1.self ∧ (wOffers wW0 0).groupSize x.group ≠ 1 ∧
        (wOffers wW0 0).leafUp x.group ≠ (wOffers wW0 0).self) = true) :=
  ⟨sec_of (by decide +kernel), sec_of (by decide +kernel), sec_of (by decide +kernel)⟩
/-- Node (0, 1) has combined a sector for its parent on chip 7. -/
theorem witness_NodesCombineInTreeOrder_up :
    let p := wPos wNodeB true true (wSec 0 1 .allReduce false 1)
    (wAtr wW0 [p]).positionOf (nodeKey 1 5 0 1) p.off = some p ∧ (wAtr wW0 [p]).nodeAt p.group p.a p.b = some wNodeB ∧
      (wAtr wW0 [p]).groupSize p.sec.group ≠ 1 ∧ flowCombines p.sec.flow = true ∧ wNodeB.parent ≠ (wAtr wW0 [p]).self ∧
      (wPos wNodeB true true (wSec 0 1 .allReduce false 1)).a ≠ (wPos wNodeB true true (wSec 0 1 .allReduce false 1)).b := by decide +kernel

theorem groupUp_of {s : State} {g chip : Nat}
    (h : s.groupMarked g = none ∧ s.pod.dead = [] ∧ s.groupValid g = true ∧ s.deaf chip = false) : s.GroupUp g chip :=
  ⟨notFailed h.1 h.2.1, h.2.2.1, h.2.2.2⟩
theorem wGroupUp : (wAtr wW0 []).GroupUp 1 3 := groupUp_of (by decide +kernel)

/-- No TLB holds a page and there are no tables; tables that say of page 0 of context 0 that it is not resident. -/
def wUnpaged (s : State) : State := { s with easel := { s.easel with tlb := [] } }
def wAbsent (s : State) : State :=
  { wUnpaged s with mem := Memory.putAll s.mem [(0, 1), (2, 2), (0x20000, 3), (0x20002, 4), (0x40000, 3), (0x40002, 6), (0x60000, 61)] }

theorem witness_GroupsDeliverAndFail_down :
    (wAtr wW0 []).GroupUp 1 3 ∧ (wSec 0 1 .allReduce true 1).src = 3 ∧ (wSec 0 1 .allReduce true 1).down = true ∧
      (wAtr wW0 []).nodeAt 1 0 1 = some wNodeB ∧ (wAtr wW0 []).groupMember 1 = true ∧ (wSec 0 0 .allReduce true 1).data.length = 64 ∧
      (wAtr wW0 []).exportHere 1 (64 + 0) 64 .write = .bank (2 ^ 57 + 64) ∧ (wAtr wW0 []).exportHere 3 (64 + 0) 64 .write = .bad ∧
      (wAtr wW0 []).exportHere 1 (4096 - 63) 64 .write = .bad ∧ (wUnpaged (wAtr wW0 [])).exportHere 2 (64 + 0) 64 .write = .fatal ∧
      (wAbsent (wAtr wW0 [])).exportHere 2 (64 + 0) 64 .write = .replay 0 0 :=
  ⟨wGroupUp, by decide +kernel⟩
/-- Without tables, and with the page absent, the group is up all the same; the copy of a store whose record is there, whose record has
room, and whose record has none. -/
theorem witness_GroupsDeliverAndFail_paged : (wUnpaged (wAtr wW0 [])).GroupUp 1 3 ∧ (wAbsent (wAtr wW0 [])).GroupUp 1 3 :=
  ⟨groupUp_of (by decide +kernel), groupUp_of (by decide +kernel)⟩
def wCopy : GroupSec := { wSec 0 0 .store true 1 with batch := some (0, 1) }
def wCopied (batches : List BatchRec) : State :=
  let s := wAtr wW0 []
  { s with pod := { s.pod with served := [(memberKey 3 5, some ⟨copyRequest wCopy, none, 0, false⟩)], batches := batches } }
theorem witness_GroupsDeliverAndFail_copy :
    (wCopied []).GroupUp 1 3 ∧ oget (wCopied []).pod.served (memberKey wCopy.src wCopy.op) = some ⟨copyRequest wCopy, none, 0, false⟩ ∧
      oget (wAtr wW0 []).pod.served (memberKey wCopy.src wCopy.op) = none ∧ (wAtr wW0 []).recordFree wCopy.src wCopy.batch = true ∧
      wCopy.flow = .store ∧ wCopy.tagOk = true := ⟨groupUp_of (by decide +kernel), by decide +kernel⟩
theorem noRecord (n : Nat) (h : 16384 ≤ n) :
    (wCopied (List.replicate n ⟨9, 0, 1, 0, none, false, false, false⟩)).recordFree wCopy.src wCopy.batch = false := by
  simp [State.recordFree, State.batch?, BatchRec.is, wCopied, wCopy, wSec, h]
theorem witness_GroupsDeliverAndFail_noRecord : ∃ bs, (wCopied bs).recordFree wCopy.src wCopy.batch = false :=
  ⟨_, noRecord 16384 (Nat.le_refl _)⟩
theorem witness_GroupsDeliverAndFail_error :
    (wOffers wW0 0).groupMarked 1 = none ∧ (wOffers wW0 0).atrium.rloads = [] ∧ (wOffers wW0 0).pod.remotes = [] ∧
      0 ∉ (wOffers wW0 0).pod.dead ∧ (wAllDead (wOffers wW0 0)).pod.dead = [3] ∧
      ((wOffers wW0 0).cmd? 7).map (fun c => c.uses 1) = some true := by decide +kernel
/-- A position of node (0, 1) that has waited for 1 s, with its left operand only. -/
theorem witness_GroupsDeliverAndFail_stall :
    let p := wPos wNodeB true false (wSec 0 0 .allReduce false 1)
    p ∈ (wAtr wW0 [p]).atrium.positions ∧ p.right = false ∧ ((wAtr wW0 [p]).nodeAt 1 0 1).isSome = true ∧
      sget 0 (wAtr wW0 [p]).atrium.lastMove (nodeKey 1 5 0 1) + 1000000000 ≤ (wAtr wW0 [p]).sched.gtc := by decide +kernel
/-- A BROADCAST of this chip that has waited for 1 s since it started. -/
theorem witness_GroupsDeliverAndFail_member :
    (wOffers wW0 3).groupMember 1 = true ∧ (wOffers wW0 3).groupRank 1 = 0 ∧ (wOffers wW0 3).memberStalled 1 5 = true := by decide +kernel
/-- A result of operation 5 has waited for its page for 1 s. -/
theorem witness_GroupsDeliverAndFail_memberWait :
    let s0 := wOffers wW0 0
    let s := { s0 with atrium := { s0.atrium with memberWaits := [(1, 5, 0)] } }
    s.groupMember 1 = true ∧ s.groupRank 1 = 0 ∧ ∃ w ∈ s.atrium.memberWaits, w.1 = 1 ∧ w.2.1 = 5 ∧ w.2.2 + 1000000000 ≤ s.sched.gtc := by
  decide +kernel
/-- Result sectors: a bank that no CPYV holds; a sealed one whose tag failed. -/
theorem witness_GroupsDeliverAndFail_result :
    (wAtr wW0 []).bankHeld ((2 ^ 57 + 64) / 64) = false ∧ { wSec 0 0 .allReduce true 1 with tagOk := false }.tagOk = false ∧
      (wSec 0 0 .allReduce true 1).flow ≠ .store ∧ (wSec 0 0 .allReduce true 1).tagOk = true := by decide +kernel
/-- A reducing load's request at the node over ranks 0 to 1, and at this member. -/
theorem witness_GroupsDeliverAndFail_request :
    (wAtr wW0 []).GroupUp 1 3 ∧ (wAtr wW0 []).nodeAt 1 0 1 = some wNodeB ∧ (wAtr wW0 []).groupMember 1 = true ∧
      (wAtr wW0 []).exportHere 1 8 8 .read = .bank (2 ^ 57 + 8) ∧ (wAtr wW0 []).exportHere 1 4089 8 .read = .bad :=
  ⟨wGroupUp, by decide +kernel⟩
/-- A value from rank 0 at the node over ranks 0 to 1: alone, and after the value of rank 1. -/
theorem witness_GroupsDeliverAndFail_partner :
    let s := wAtr wW0 []
    let s' : State := { s with atrium := { s.atrium with partials := [⟨9, 4, 1, 1, 1, .val 5 false⟩] } }
    s'.GroupUp 1 9 ∧ (0 ≠ 0 ∨ 0 + 1 ≠ s'.groupSize 1) ∧ s'.nodeOver 1 0 0 = some wNodeB ∧ s.atrium.partials = [] ∧
      s'.atrium.partials.find? (fun p => p.chip = 9 && p.seq = 4 && p.group = 1 &&
        (p.a, p.b) = if decide (wNodeB.leftRange = (0, 0)) then wNodeB.rightRange else wNodeB.leftRange) = some ⟨9, 4, 1, 1, 1, .val 5 false⟩ :=
  ⟨groupUp_of (by decide +kernel), by decide +kernel⟩

/-- Load 2 waits for the values of group 1. -/
def wReduces : State :=
  let s := wAtr wW0 []
  { s with
    atrium := { s.atrium with rloads := [(4, some ⟨0, true, 0, [], false, 0, 2, 0, 1, 1, 8, 8, 0, 3⟩)] }
    coh := { s.coh with loads := [(2, some { wLoad with parts := [(0, some { wPart with lanes := [(1, 0)], st := .waiting })] })] } }

theorem witness_GroupsDeliverAndFail_values :
    wReduces.GroupUp 1 wReduces.self ∧ 0 < wReduces.groupSize 1 ∧ (oget wReduces.atrium.rloads 4).map (·.load) = some 2 ∧
      (wReduces.partState 2 0).isSome = true := ⟨groupUp_of (by decide +kernel), by decide +kernel⟩

/-- The entry of a group whose one member is this chip: it has no node here, so it needs no ways. -/
def wOne : List Word := [0xC000000000000000, 0, 0, 0, 0, 0, 0, 0]
def wStageB : State := { State.reset with mgmt := { State.reset.mgmt with stage := 2 } }
theorem wOne_need (d : Nat) : landNeed wStageB 2 wOne d = 0 := by
  unfold landNeed
  refine List.sum_eq_zero fun x hx => ?_
  obtain ⟨i, hi, rfl⟩ := List.mem_map.1 hx
  by_cases h : i = 2
  · have : entryNodes wOne = [] := by decide +kernel
    simp [h, this]
  · have : wStageB.treeWord i 0 = 0 := (by decide +kernel : ∀ i < 256, wStageB.treeWord i 0 = 0) i (List.mem_range.1 hi)
    simp [h, this]

/-- That entry, and one with a reserved bit set; group 2 is not valid. -/
theorem witness_GroupsDeliverAndFail_table :
    (((wOne[0]?).getD 0).getLsbD 63 = true ∧ wStageB.mgmt.stage = 2 ∧ State.reset.mgmt.stage = 1 ∧
      ((wOffers wW0 0).groupValid 1 = true ∧ (wOffers wW0 0).groupBusy 1 = true)) ∧ treeEntryOk wStageB 2 wOne = true ∧
      treeEntryOk (wAtr wW0 []) 255 [0xC000000000000400, 0, 0, 0, 0, 0, 0, 0] = false ∧ wStageB.groupValid 2 = false := by
  refine ⟨by decide +kernel, ?_, by decide +kernel, by decide +kernel⟩
  simp only [treeEntryOk, List.all_cons, List.all_nil, wOne_need, Nat.zero_le, decide_true, Bool.and_true]
  decide +kernel

/-! ### The pod -/

/-- Ports 0 (up, silent since 0, its flit counter full) and 2 (down); chip 3 is reached by port 0; exports as in `wAtr`; a load and an
operation under way; offset 21 from the master by port 0; closes of tags 1 and 2 wait for chips 3 and 5, and for 3. -/
def wPodTeam : Team :=
  { wTeam with closes := oset (oset [] 1 (some ⟨7, [3, 5], 2, [], false, false, false, false, []⟩)) 2 (some ⟨7, [3], 1, [], false, false, false, false, []⟩) }
def wPod : State :=
  let s := wAtr wW0 []
  { s with
    mgmt := { s.mgmt with stage := 4, bar0 := s.mgmt.bar0 ++ [(0x800018, 0x8000000000000001)] }
    sched := { s.sched with gtc := 2000128, hbeat := 15625 }
    alloc := { s.alloc with teams := [(0, some wPodTeam)] }
    coh := wLoadState.coh
    pod := { s.pod with
      ports := [(0, some ⟨true, 0, 0, 5, 2 ^ 48, false⟩), (2, some ⟨false, 0, 0, 0, 0, false⟩)]
      timeStarted := true, locked := true, bounded := true, offset := 21, lostSince := some 7 } }

theorem witness_PortsTimeAndScaleOut_ports :
    wPod.port? 0 = some ⟨true, 0, 0, 5, 2 ^ 48, false⟩ ∧ wPod.port? 2 = some ⟨false, 0, 0, 0, 0, false⟩ ∧ 2 ∉ wPod.mgmt.badPorts ∧ wPod.self = 0 ∧
      (7 : Nat) < 8 ∧ 0 + 10000 ≤ wPod.sched.gtc ∧ (2 ^ 48 - 1 : Nat) < 2 ^ 48 := by decide +kernel
theorem witness_PortsTimeAndScaleOut_route : 3 ≠ wPod.self ∧ wPod.pickPort 3 3 [] = some 0 := by
  have h : wPod.upPorts 3 [] = [0] := by decide +kernel
  refine ⟨by decide +kernel, ?_⟩
  simp [State.pickPort, h, Nat.mod_one]

/-- A request numbered 9 of chip 3 for an export. -/
def wReq (exp off n : Nat) (op : RemoteOp) : RemoteReq := ⟨3, 9, exp, off, n, op, false, none, true⟩
/-- A state that has answered it, or still serves it, since 128. -/
def wServed (e : Option RemoteEnd) : State :=
  { wPod with pod := { wPod.pod with served := oset [] (remoteKey 3 9) (some ⟨wReq 1 8 8 .wtRead, e, 128, false⟩), dead := [6] } }

theorem hears_of {s : State} {chip : Nat} (h : s.deaf chip = false ∧ s.pod.answering = true) : s.Hears chip := ⟨h.1, h.2⟩
theorem wPod_hears : wPod.Hears 3 := hears_of (by decide +kernel)

theorem witness_RemoteRequestsAreServedAndEnd_known :
    ((wServed (some (.done [1] 0))).Hears 3 ∧ (wServed none).Hears 3) ∧ (wServed none).deaf 6 = true ∧
      (64 < (wReq 1 60 8 .wtRead).off % 64 + 8 ∧ 56 % 64 + 8 ≤ 64) ∧
      oget (wServed (some (.done [1] 0))).pod.served (remoteKey 3 9) = some ⟨wReq 1 8 8 .wtRead, some (.done [1] 0), 128, false⟩ ∧
      128 + 2000000 ≤ (wServed (some (.done [1] 0))).sched.gtc ∧
      oget (wServed none).pod.served (remoteKey 3 9) = some ⟨wReq 1 8 8 .wtRead, none, 128, false⟩ :=
  ⟨⟨hears_of (by decide +kernel), hears_of (by decide +kernel)⟩, by decide +kernel⟩
theorem witness_RemoteRequestsAreServedAndEnd_new :
    wPod.Hears 3 ∧ oget wPod.pod.served (remoteKey 3 9) = none ∧ (wReq 1 8 8 .wtRead).batch = none ∧
      wPod.bankHeld ((2 ^ 57 + 8) / 64) = false ∧ (wReq 1 8 8 .wtRead).tagOk = true ∧
      wPod.exportAt 1 8 8 (remoteAcc .wtRead) = .bank (2 ^ 57 + 8) ∧ wPod.poisoned ((2 ^ 57 + 8) / 64) = false ∧
      wPod.exportAt 1 8 8 (remoteAcc (.write [(8, 1)])) = .bank (2 ^ 57 + 8) ∧
      wPod.exportAt 1 8 16 (remoteAcc (.atomic .add true [(8, 1, 0), (16, 2, 0)])) = .bank (2 ^ 57 + 8) ∧
      wPod.servedAhead (wReq 1 8 8 .wtRead) = false ∧
      wPod.exportHere 1 4080 8 (remoteAcc .wtRead) = .bank (2 ^ 57 + 4080) ∧ wPod.exportHere 3 8 8 (remoteAcc .wtRead) = .bad ∧
      (wUnpaged wPod).exportHere 2 8 8 (remoteAcc (.write [(8, 1)])) = .fatal ∧
      (wUnpaged wPod).exportRoom (wReq 2 8 8 (.write [(8, 1)])) = true ∧ wPod.exportRoom (wReq 3 8 8 .wtRead) = true ∧
      wPod.exportRoom { wReq 1 8 8 .wtRead with tagOk := false } = true := ⟨wPod_hears, by decide +kernel⟩
theorem witness_RemoteRequestsAreServedAndEnd_unpaged : (wUnpaged wPod).Hears 3 := hears_of (by decide +kernel)
/-- An earlier request of chip 3 for the sector, number 8, waits for its page. -/
def wAhead : State :=
  { wPod with pod := { wPod.pod with served := [(remoteKey 3 8, some ⟨{ wReq 1 16 8 .wtRead with seq := 8 }, none, 128, true⟩)] } }
theorem witness_RemoteRequestsAreServedAndEnd_ahead :
    wAhead.Hears 3 ∧ wAhead.servedAhead (wReq 1 8 8 .wtRead) = true ∧ oget wAhead.pod.served (remoteKey 3 9) = none ∧
      wAhead.exportAt 1 8 8 (remoteAcc .wtRead) = .bank (2 ^ 57 + 8) ∧ wAhead.bankHeld ((2 ^ 57 + 8) / 64) = false :=
  ⟨hears_of (by decide +kernel), by decide +kernel⟩

/-- What is left of a lease of 3,000,000 ticks given at 128. -/
theorem witness_RemoteRequestsAreServedAndEnd_lease :
    let x : Served := ⟨wReq 1 8 8 (.siRead 3000000), some (.done [1] 3000000), 128, false⟩
    x.again 2000128 = some (.done [1] (3000000 - (2000128 - 128))) := by decide +kernel

/-- This chip's request numbered 9 to chip 3, on its way since 0. -/
def wRemote (op : RemoteOp) (opId : Nat) : Remote :=
  ⟨3, 9, 0, podSector 3 1 8, 1, 8, 8, op, false, none, opId, 2, 0, 0, [], true, false, 0, none, [], none⟩
def wAsked (r : Remote) : State := { wPod with pod := { wPod.pod with remotes := oset [] (remoteKey 3 9) (some r) } }

theorem witness_RemoteRequestsAreServedAndEnd_answers :
    (wAsked (wRemote (.write [(8, 1)]) 3)).remote? (remoteKey 3 9) = some (wRemote (.write [(8, 1)]) 3) ∧
      (wAsked (wRemote .wtRead 99)).remote? (remoteKey 3 9) = some (wRemote .wtRead 99) ∧
      oget (wAsked (wRemote .wtRead 99)).coh.ops 99 = none ∧ oget (wAsked (wRemote .wtRead 99)).coh.loads 2 = some wLoad ∧
      oget wLoad.parts 0 = some wPart ∧ (wAsked (wRemote .wtRead 99)).poisoned wPart.sector = false ∧ remoteIsRead .wtRead = true ∧
      ((wAsked (wRemote .wtRead 99)).partState 2 0).isSome = true ∧
      ((wRemote .wtRead 99).sent = true ∧ (wRemote .wtRead 99).receipt = false ∧
        (wRemote .wtRead 99).since + 200000 ≤ (wAsked (wRemote .wtRead 99)).sched.gtc) := by decide +kernel

/-- A reducing load numbered 4 of group 1, on its way since 0 by port 0. -/
def wReducing : State :=
  { wPod with atrium := { wPod.atrium with rloads := [(4, some ⟨0, true, 0, [], false, 0, 2, 0, 1, 1, 8, 8, 0, 3⟩)] } }
theorem witness_RemoteRequestsAreServedAndEnd_reducing :
    wReducing.remote? 4 = none ∧ oget wReducing.atrium.rloads 4 = some ⟨0, true, 0, [], false, 0, 2, 0, 1, 1, 8, 8, 0, 3⟩ ∧
      0 + 200000 ≤ wReducing.sched.gtc ∧ wReducing.groupRoot 1 ≠ wReducing.self := by decide +kernel

/-- Batches of teams of chip 3: five operations done. -/
def wBatched : State := { wPod with pod := { wPod.pod with batches := [⟨3, 0, 1, 5, none, false, false, false⟩], dead := [6] } }

theorem witness_RemoteRequestsAreServedAndEnd_batches :
    wBatched.Hears 3 ∧ wBatched.deaf 6 = true ∧ 3 ∉ wBatched.pod.dead ∧ wBatched.batch? 3 0 1 = some ⟨3, 0, 1, 5, none, false, false, false⟩ ∧ (5 ≤ 5 ∧ 5 < 6) ∧
      wBatched.batch? 3 0 2 = none ∧ wBatched.pod.batches.length < 16384 ∧ 0 < 1 ∧ 6 ∈ wBatched.pod.dead :=
  ⟨hears_of (by decide +kernel), by decide +kernel⟩
theorem witness_RemoteRequestsAreServedAndEnd_closes :
    wPod.team? 0 = some wPodTeam ∧ oget wPodTeam.closes 1 = some ⟨7, [3, 5], 2, [], false, false, false, false, []⟩ ∧
      oget wPodTeam.closes 2 = some ⟨7, [3], 1, [], false, false, false, false, []⟩ ∧ (∃ c ∈ [3, 5], c ≠ 3) ∧ 3 < 1024 := by decide +kernel
/-- The same with no port up. -/
theorem witness_RemoteRequestsAreServedAndEnd_dead :
    let s := { wAsked (wRemote .wtRead 99) with pod := { (wAsked (wRemote .wtRead 99)).pod with ports := [] } }
    3 ∉ s.pod.dead ∧ s.unanswered 3 = true ∧ s.remote? (remoteKey 3 9) = some (wRemote .wtRead 99) ∧ (wRemote .wtRead 99).chip = 3 ∧
      remoteIsWrite .wtRead = false ∧ (s.partState 2 0).isSome = true := by decide +kernel

/-- The same with the T arm at a draining FENCE.SC. -/
def wBeat (ops : List Nat) : State :=
  { wPod with alloc := { wPod.alloc with teams := [(0, some (wArm fun a => { a with wait := .scDrain ops [] }))] } }

theorem witness_PortsTimeAndScaleOut_beat :
    (wBeat []).sched.gtc % 128 = 0 ∧ (wBeat []).sched.hbeat < (wBeat []).sched.gtc / 128 ∧ (wBeat []).portUp 0 = true ∧
      (wBeat []).team? 0 = some (wArm fun a => { a with wait := .scDrain [] [] }) ∧ (wBeat []).liveOps [] = [] ∧ (wBeat []).liveCmds [] = [] ∧
      (wBeat [3]).liveOps [3] ≠ [] := by decide +kernel
theorem witness_PortsTimeAndScaleOut_time :
    (wPod.portUp 0 = true ∧ wPod.isMaster = false ∧ wPod.pod.timeStarted = true ∧ fld wPod.timectl 0 6 = 0) ∧
      ((20 : Int).natAbs ≤ 20 ∧ 20 < (-21 : Int).natAbs) ∧
      (wPod.pod.locked = true ∧ wPod.pod.bounded = true ∧ 20 < wPod.pod.offset.natAbs ∧ wPod.pod.lastTime + 100000 ≤ wPod.sched.gtc) ∧
      (wPod.pod.lostSince = some 7 ∧ wPod.pod.answering = true ∧ 7 + 1000000 ≤ wPod.sched.gtc) := by decide +kernel
/-- Before any launch, with an entry and a summary that expired. -/
def wLoadsTime : State :=
  let s := State.reset
  { s with
    sched := { s.sched with gtc := 500 }
    coh := { s.coh with dir := [(5, some { DirEnt.init with exp := 400 })], summary := [(1, 500)] }
    pod := { s.pod with timeStarted := true, offset := 21 } }

theorem witness_PortsTimeAndScaleOut_load :
    wLoadsTime.noLeases = true ∧ wLoadsTime.quiet = true ∧ (∀ d ∈ slist wLoadsTime.coh.dir, d.2.exp ≤ wLoadsTime.sched.gtc) ∧
      ∀ x ∈ wLoadsTime.coh.summary, x.2 ≤ wLoadsTime.sched.gtc := by decide +kernel

/-- A CPY of 64 bytes from the network, operation 11 under way, and one into it that has moved all. -/
def wNetCopy (space : Nat) : Cmd :=
  { wCmd .cpy with
    writes := [11], started := true
    slices := [⟨0, 0, false, none, some ⟨wEnt space, 0, 64⟩, some ⟨wTens, 0, 64⟩, 0, 64, 0x100, []⟩] }
def wUet (space : Nat) : State :=
  { wPod with
    eng := { wPod.eng with cmds := [(7, some (wNetCopy space))] }
    coh := { wPod.coh with ops := [(11, some ⟨if space = Sp.net then .cmdRead 7 0 0 else .cmdWrite 7 none, noTeam, false, []⟩)] } }

theorem witness_PortsTimeAndScaleOut_uet :
    (60 % 64 + 4 ≤ 64 ∧ 3 ≤ wPod.mgmt.stage ∧ wPod.exportHere 1 60 4 .write = .bank (2 ^ 57 + 60)) ∧ wPod.exportHere 3 60 4 .write = .bad ∧
      (wUnpaged wPod).exportHere 2 60 4 .write = .fatal ∧ (wUet Sp.net).cmd? 7 = some (wNetCopy Sp.net) ∧
      netOp (wUet Sp.net) (wNetCopy Sp.net) OpKind.reads = some 11 ∧ netBytes (wNetCopy Sp.net) = 64 ∧ (wNetCopy Sp.net).fail = none ∧
      netOp (wUet 2) (wNetCopy 2) OpKind.reads = none ∧ netOp (wUet 2) (wNetCopy 2) OpKind.netWrite = some 11 ∧ netBytes (wNetCopy 2) = 0 ∧ doneMoving (wNetCopy 2) = true := by decide +kernel

/-! ### Rings, graphs, the allocator -/

/-- Words at an address, as cells. -/
def wWords (k : Nat) (ws : List Nat) : List (Nat × Byte) := ws.zipIdx.flatMap fun w => cellsOf (k + 8 * w.2) (leBytes 8 w.1)

/-- Context 0 with page 0 read-only, page 1 at 0x100000 with every permission, page 2 to be supplied, page 3 without an entry and page 4 to be supplied, read-only, the
chip out of its stages. -/
def wPages (cells : List (Nat × Byte)) (bar0 : Store Word) : State :=
  let s := wState wTeam
  { s with
    mem := Memory.putAll s.mem (wWords 0xC0008 [0x10001D, 0x3D, 0, 0x25] ++ cells)
    mgmt := { s.mgmt with stage := 4, bar0 := bar0 } }

/-- On page 1 a graph entry at byte 0, its graph of one COND node, a launch record at 0x200, 1 at 0x500, 0 at 0x508. -/
def wGraph (bar0 : Store Word) : State :=
  wPages (wWords 0x100000 [0x20040, 5, 0x20400] ++ wWords 0x100040 [1] ++ wWords 0x100080 [0x30002, 2 ^ 64 - 1, 0x20500]
    ++ wWords 0x100200 [0x20000, 0x100, 4, 0x100000000] ++ wWords 0x100500 [1]) bar0

/-- Ring 0 enabled, of 16 entries, with a base, its doorbell one ahead of its head. -/
def wRing (base : Word) : State := wGraph [(0x100000, base), (0x100008, 0x80000004), (0x100010, 1)]

theorem read_of {r : GraphRead} {p : Inst → State → Bool} (h : (match r with | .inst x s => p x s | _ => false) = true) :
    ∃ x s, r = .inst x s ∧ p x s = true := by
  cases r <;> first | exact ⟨_, _, rfl, h⟩ | cases h
theorem replay_of {r : GraphRead} {p : Nat} (h : (match r with | .replay q _ => q = p | _ => false) = true) : ∃ s, r = .replay p s := by
  cases r with
  | replay q s => exact ⟨s, by rw [show q = p by simpa using h]⟩
  | _ => cases h
theorem busy_of {r : GraphRead} (h : (match r with | .busy _ => true | _ => false) = true) : ∃ s, r = .busy s := by
  cases r <;> first | exact ⟨_, rfl⟩ | cases h

theorem witness_WalkersRunInstances_rings :
    (wRing 0x20000).ringOn 0 = true ∧ (∀ x ∈ slist (wRing 0x20000).alloc.insts, x.2.ring ≠ 0) ∧ nextRing (wRing 0x20000) 0 = some 0 ∧
      State.reset.mgmt.stage < 2 ∧ 3 ≤ (wRing 0x20000).mgmt.stage ∧
      ((slist (wRing 0x20000).alloc.insts).filter (fun x => x.2.die = 0)).length < 32 ∧
      2 ^ (wRing 0x20000).ringLog 0 < ((17 : BitVec 32) - ((wRing 0x20000).ring 0 0x18).setWidth 32).toNat := by decide +kernel
/-- The entry's instance, an entry on the page to be supplied, and one whose home is held by a CPYV. -/
theorem witness_WalkersRunInstances_entries :
    (∃ x s1, readEntry (wRing 0x20000) 0 7 = .inst x s1 ∧ decide (x.graph = some 0x20040) = true) ∧
      (∃ s1, readEntry (wRing 0x40000) 0 7 = .replay 2 s1) ∧
      ∃ s1, readEntry ((wRing 0x20000).setDir 0x4000 { DirEnt.init with queue := List.replicate 16 ⟨.core 0, .own false⟩ }) 0 7 = .busy s1 :=
  ⟨read_of (by decide +kernel), replay_of (by decide +kernel), busy_of (by decide +kernel)⟩

/-- An instance whose graph is still to be read: the graph above, one on the page to be supplied, one whose home takes nothing; a walker
with that instance and no ring to serve. -/
def wUnreadInst (g : Nat) : Inst := ⟨0, 0, 0, 5, 0x20400, [], [], 0, 0, none, false, false, 0, some g⟩
def wUnreadState (g : Nat) : State :=
  let s := wGraph []
  { s with alloc := { s.alloc with insts := [(9, some (wUnreadInst g))] } }
theorem witness_WalkersRunInstances_graph :
    unread (wUnreadState 0x20040) 0 ≠ [] ∧ nextRing (wUnreadState 0x20040) 0 = none ∧
      (wUnreadState 0x20040).inst? 9 = some (wUnreadInst 0x20040) ∧ (wUnreadInst 0x20040).graph = some 0x20040 ∧
      (∃ x s1, readGraph (wUnreadState 0x20040).freeWord.2 (wUnreadInst 0x20040) 0x20040 7 = .inst x s1 ∧
        ((slist x.states).any fun p => !p.2.idle (x.aborted || x.err.isSome)) = true) ∧
      (∃ s1, readGraph (wUnreadState 0x40040) (wUnreadInst 0x40040) 0x40040 7 = .replay 2 s1) ∧
      (∃ s1, readGraph ((wUnreadState 0x20040).setDir 0x4001 { DirEnt.init with queue := List.replicate 16 ⟨.core 0, .own false⟩ })
        (wUnreadInst 0x20040) 0x20040 7 = .busy s1) ∧
      [[0x30001], [0x30002]][1]? = some [0x30002] ∧ (parseNode [0x30002]).preds = 0 ∧ (parseNode [0x30102]).preds ≠ 0 :=
  ⟨by decide +kernel, by decide +kernel, by decide +kernel, rfl, read_of (by decide +kernel), replay_of (by decide +kernel),
    busy_of (by decide +kernel), by decide +kernel, by decide +kernel, by decide +kernel⟩

/-- An instance whose one node, ready to start, is of a kind, with operands. -/
def wNode (kind a b c : Nat) : Node := ⟨kind, 0, 3, [0xFFFF, 0xFFFF, 0xFFFF, 0xFFFF], 0, a, BitVec.ofNat 64 b, BitVec.ofNat 64 c⟩
def wInst (ns : List (Node × NodeState)) : Inst :=
  ⟨0, 0, 0, 5, 0x20400, ns.zipIdx.map (fun x => (x.2, some x.1.1)), ns.zipIdx.map (fun x => (x.2, some x.1.2)), 0, 1, none, false, false, 0, none⟩
def wNodes (ns : List (Node × NodeState)) : State :=
  let s := wGraph []
  { s with alloc := { s.alloc with insts := [(9, some (wInst ns))] } }
def wOneNode (kind a b c : Nat) : State := wNodes [(wNode kind a b c, .ready 0)]
/-- The same with the sector at 0x20500 poisoned. -/
def wBadNode (kind a b c : Nat) : State :=
  let s := wOneNode kind a b c
  { s with coh := { s.coh with poison := [(0x100500 / 64, true)] } }

theorem virt_of {α : Type} {r : Virt α} {p : α → State → Bool} (h : (match r with | .ok x s => p x s | _ => false) = true) :
    ∃ x s, r = .ok x s ∧ p x s = true := by
  cases r <;> first | exact ⟨_, _, rfl, h⟩ | cases h

/-- What the walker reads for a node, with `p` of the bytes, the poison and the state after. -/
def wReads (s : State) (a n : Nat) (p : List Byte × Bool → State → Bool) : Prop := ∃ d s1, readVirt s (.node 9 0) 0 a n = .ok d s1 ∧ p d s1 = true

theorem witness_WalkersRunInstances_poison :
    startable (wBadNode 1 0x20500 0 0) 9 0 1 = some (wInst [(wNode 1 0x20500 0 0, .ready 0)], wNode 1 0x20500 0 0) ∧
      wReads (wBadNode 1 0x20500 0 0) 0x20500 64 (fun d _ => d.2) ∧
      startable (wBadNode 2 0x20500 0 0) 9 0 2 = some (wInst [(wNode 2 0x20500 0 0, .ready 0)], wNode 2 0x20500 0 0) ∧
      wReads (wBadNode 2 0x20500 0 0) 0x20500 8 (fun d _ => d.2) ∧
      startable (wBadNode 4 0x20500 0x20600 8) 9 0 4 = some (wInst [(wNode 4 0x20500 0x20600 8, .ready 0)], wNode 4 0x20500 0x20600 8) ∧
      wReads (wBadNode 4 0x20500 0x20600 8) 0x20500 8 (fun d _ => d.2) :=
  ⟨by decide +kernel, virt_of (by decide +kernel), by decide +kernel, virt_of (by decide +kernel), by decide +kernel, virt_of (by decide +kernel)⟩
/-- A launch record and one that is none; the words 1 and 0 of the other nodes that read. -/
theorem witness_WalkersRunInstances_read :
    startable (wOneNode 1 0x20200 0 0) 9 0 1 = some (wInst [(wNode 1 0x20200 0 0, .ready 0)], wNode 1 0x20200 0 0) ∧
      wReads (wOneNode 1 0x20200 0 0) 0x20200 64 (fun d s1 => !d.2 && recordOk (wordsOf 8 d.1)
        && decide (s1.inst? 9 = some (wInst [(wNode 1 0x20200 0 0, .ready 0)]))) ∧
      wReads (wOneNode 1 0x20500 0 0) 0x20500 64 (fun d _ => !d.2 && !recordOk (wordsOf 8 d.1)) ∧
      (startable (wOneNode 3 0x20500 0 0) 9 0 3).isSome = true ∧ (startable (wOneNode 5 0x20500 1 0) 9 0 5).isSome = true ∧
      wReads (wOneNode 3 0x20500 0 0) 0x20500 8 (fun d s1 => !d.2 && decide (leNat d.1 = 1)
        && decide (s1.inst? 9 = some (wInst [(wNode 3 0x20500 0 0, .ready 0)]))) ∧
      wReads (wOneNode 3 0x20508 0 0) 0x20508 8 (fun d _ => !d.2 && decide (leNat d.1 = 0)) :=
  ⟨by decide +kernel, virt_of (by decide +kernel), virt_of (by decide +kernel), by decide +kernel, by decide +kernel, virt_of (by decide +kernel),
    virt_of (by decide +kernel)⟩
/-- A COPY of 8 bytes and a SIGNAL. -/
theorem witness_WalkersRunInstances_write :
    copyChunk 0x20500 0x20600 8 0 = (0, 8) ∧
      wReads (wOneNode 4 0x20500 0x20600 8) 0x20500 8 (fun d s1 => !d.2 &&
        (match writeVirt s1 0 0x20600 d.1 (copyWrite 9 0 0) (copyWrite 9 0 0) with | .ok .. => true | _ => false)) ∧
      (startable (wOneNode 6 0x20600 7 0) 9 0 6).isSome = true ∧
      ∃ ops s1, writeVirt (wOneNode 6 0x20600 7 0) 0 0x20600 (leBytes 8 7) (fun _ => .nodeWrite 9 0 none) (fun _ => .nodeWrite 9 0 none) = .ok ops s1 ∧
        decide (0 < ops.length) = true :=
  ⟨by decide +kernel, virt_of (by decide +kernel), by decide +kernel, virt_of (by decide +kernel)⟩

/-- A node that has run, with a successor that waits for it alone, or for it and two more beside a running node. -/
theorem witness_WalkersRunInstances_complete :
    let d := { wNode 2 0x20500 0 0 with succ := [1, 0xFFFF, 0xFFFF, 0xFFFF] }
    let x := wInst [(d, .ending [1]), (wNode 2 0x20500 0 0, .blocked 1)]
    let y := wInst [(d, .ending [1]), (wNode 2 0x20500 0 0, .blocked (1 + 2)), (wNode 2 0x20500 0 0, .running)]
    (wNodes [(d, .ending [1]), (wNode 2 0x20500 0 0, .blocked 1)]).Ends 9 0 x d [1] ∧ x.state? 1 = some (.blocked 1) ∧
      (wNodes [(d, .ending [1]), (wNode 2 0x20500 0 0, .blocked (1 + 2)), (wNode 2 0x20500 0 0, .running)]).Ends 9 0 y d [1] ∧
      y.state? 1 = some (.blocked (1 + 2)) ∧ ∃ p ∈ slist y.states, p.1 ≠ 0 ∧ p.1 ≠ 1 ∧ p.2 = .running :=
  ⟨⟨by decide +kernel, by decide +kernel, by decide +kernel, rfl, rfl, rfl⟩, by decide +kernel,
    ⟨by decide +kernel, by decide +kernel, by decide +kernel, rfl, rfl, rfl⟩, by decide +kernel, ⟨(2, .running), by decide +kernel⟩⟩
/-- A LAUNCH node whose launch has no team left, with and without a modified sector of one of its arms in core 0's L1. -/
def wLaunched (l1 : Store (Option L1Sec)) : State :=
  let s := wNodes [(wNode 1 0x20200 0 0, .running)]
  { s with
    alloc := { s.alloc with teams := [], launches := [(3, some { probeLaunch with inst := 9 })] }
    coh := { s.coh with l1 := l1 } }
theorem witness_WalkersRunInstances_launched :
    (wLaunched []).inst? 9 = some (wInst [(wNode 1 0x20200 0 0, .running)]) ∧
      (wInst [(wNode 1 0x20200 0 0, .running)]).node? 0 = some (wNode 1 0x20200 0 0) ∧
      nodeLaunch (wLaunched []) 9 0 = some (3, { probeLaunch with inst := 9 }) ∧ (wLaunched []).teamsOf 3 = [] ∧
      (∀ c ∈ slist (wLaunched []).eng.cmds, c.2.launch ≠ 3) ∧ (∀ o ∈ slist (wLaunched []).coh.ops, opHolds 3 o.2 = false) ∧
      launchDirty (wLaunched []) 3 = [] ∧
      launchDirty (wLaunched [(l1Key 0 0x4000, some { wSector with writers := [(3 * 65536, false)] })]) 3 ≠ [] := by decide +kernel

/-- DLAUNCH from a GALLERY entry: offsets 0x40, 6 and 0x1000. -/
theorem witness_WalkersRunInstances_dlaunch :
    let k := wPauseIssue (wEnt 4)
    k.Ready { qg := 0, gr := [(5, false), (4, false)], gw := [63] } ∧ k.Ready { qg := 0, gr := [(5, false), (1, false)], gw := [63] } ∧
      k.Ready { qg := 0, gr := [(5, false), (7, false)], gw := [63] } ∧ k.Ready { qg := 0, gr := [(4, false), (4, false)], gw := [63] } ∧
      k.t.handle k.s 0x40 = none ∧ k.Names 5 (wEnt 4) ∧ k.s.awaitsOwn 0 0 false = false ∧ k.s.wroteM 0 0 false = false ∧
      k.s.liveOps k.a.ops = [] ∧ k.s.liveCmds k.a.cmds = [] ∧ placeOf k.l wTeam.geom (wEnt 4) 0 0x40 = .bank (galleryKey 0x40) ∧
      k.s.poisoned (galleryKey 0x40 / 64) = false ∧
      ((wPauseIssue (wEnt 2)).Ready { qg := 0, gr := [(5, false), (4, false)], gw := [63] } ∧ (wEnt 2).space ∉ [4, 5]) :=
  by and_intros <;> first | apply ready_of | apply names_of | skip
     all_goals decide +kernel
/-- The T arm at a DLAUNCH of a COND node, in an instance; the status is there or not. -/
def wAdds (status : Option Word) (w : List Word) (i : Inst) : State :=
  let s := wNodes []
  let t := wArm fun a => { a with wait := .dlaunch 63 w 0 status }
  { s with alloc := { s.alloc with
    insts := [(9, some i)], launches := [(0, some { probeLaunch with inst := 9 })], teams := [(0, some t)] } }
def wCond : List Word := [0x30002, 2 ^ 64 - 1, 0x20500, 0, 0, 0, 0, 0]
theorem witness_WalkersRunInstances_adds :
    ((wAdds none wCond (wInst [])).armOf ⟨0, false⟩).map (fun x => x.2.wait) = some (.dlaunch 63 wCond 0 none) ∧
      ((wAdds none wCond (wInst [])).launch? 0).map (·.inst) = some 9 ∧ (wAdds none wCond (wInst [])).inst? 9 = some (wInst []) ∧
      nodeBitsOk wCond = true ∧ (parseNode wCond).preds = 0 ∧ (parseNode wCond).kind ≠ 3 ∧ (parseNode wCond).names = [] ∧
      (∀ m ∈ (parseNode wCond).succ, m = 0xFFFF) ∧ (wInst []).dyn < 256 ∧ { wInst [] with dyn := 256 }.dyn = 256 ∧
      nodeBitsOk [0x30007, 0, 0, 0, 0, 0, 0, 0] = false ∧ { wInst [] with aborted := true }.aborted = true ∧
      ((wAdds (some 5) wCond (wInst [])).armOf ⟨0, false⟩).map (fun x => x.2.wait) = some (.dlaunch 63 wCond 0 (some 5)) := by decide +kernel

/-- Launch 5 of one core waits beside the resident launch 0, with its palette on a page; the save pool has 200 slots. -/
def wWaiting (st : LaunchStatus) (f : LaunchRec → LaunchRec) : State :=
  let s := wPages [] [(0x300008, 200)]
  { s with alloc := { s.alloc with launches := [(0, some probeLaunch), (5, some { probeLaunch with
    lr := f probeLaunch.lr, prio := 1, status := st, scratchAt := [(16, 0)], x0 := 1 })] } }
def wPal (va : Nat) (r : LaunchRec) : LaunchRec := { r with palette := va }
/-- Page 1 in the die's TLB. -/
def wPageTlb : TlbEnt := ⟨0, 0, 1, 0x100000, true, true, true, false⟩
/-- The same with the palette's page there and its sectors read. -/
def wPalette : State :=
  let s := wWaiting .waiting (wPal 0x20000)
  { s with easel := { s.easel with tlb := [wPageTlb] }, coh := { s.coh with reads := (List.range 256).map fun i => (i, some ⟨.launch 5, 0x4000 + i, some (List.replicate 64 0, false, 0)⟩) } }

theorem wPalette_page (va : Nat) (h : va / 2 ^ 17 = 1) : physOne wPalette 0 va .read = .ok (0x100000 + va % 2 ^ 17) wPalette := by
  have f : wPalette.tlbFind (dieUnit 0) 0 va = some wPageTlb := by
    rw [State.tlbFind, show unitsOf (dieUnit 0) = [0] from rfl]
    simp only [List.findSome?_cons, wPalette, List.find?_cons, TlbEnt.covers, wPageTlb, h]
    rfl
  simp [physOne, State.walked, xlHeld, xlNow, f, Acc.allowed, TlbEnt.phys, wPageTlb]
theorem wPalette_phys (l : List Nat) (h : ∀ va ∈ l, va / 2 ^ 17 = 1) :
    physOf 0 .read l wPalette = .ok (l.map fun va => 0x100000 + va % 2 ^ 17) wPalette := by
  induction l with
  | nil => rfl
  | cons va r ih =>
    unfold physOf
    rw [wPalette_page va (h va (by simp))]
    show ((physOf 0 .read r wPalette).bind _) = _
    rw [ih fun v hv => h v (by simp [hv])]
    rfl
theorem witness_LaunchesArePlacedSuspendedAndResumed_palette :
    ∃ d s1, readVirt wPalette (.launch 5) 0 0x20000 16384 = .ok d s1 ∧ (!d.2) = true := by
  unfold readVirt
  dsimp only
  rw [wPalette_phys _ (by decide +kernel)]
  exact virt_of (p := fun (d : List Byte × Bool) _ => !d.2) (by decide +kernel)
theorem witness_LaunchesArePlacedSuspendedAndResumed_place :
    (allocHead wPalette).map (fun x => (x.1, x.2.status)) = some (5, .waiting) ∧ 3 ≤ wPalette.mgmt.stage ∧
      (planFirst wPalette [] (wPal 0x20000 probeLaunch.lr) (origins probeLaunch.lr)).map (·.1) = some (1, 0) ∧
      (planFirst (wWaiting .waiting (wPal 0x60000)) [] (wPal 0x60000 probeLaunch.lr) (origins probeLaunch.lr)).map (·.1) = some (1, 0) := by
  decide +kernel
theorem fatal_of {α : Type} {r : Virt α} (h : (match r with | .fatal _ => true | _ => false) = true) : ∃ s, r = .fatal s := by
  cases r <;> first | exact ⟨_, rfl⟩ | cases h
theorem witness_LaunchesArePlacedSuspendedAndResumed_fatal :
    ∃ s1, readVirt (wWaiting .waiting (wPal 0x60000)) (.launch 5) 0 0x60000 16384 = .fatal s1 := fatal_of (by decide +kernel)
/-- The same launch over every core. -/
def wWhole (r : LaunchRec) : LaunchRec := { r with lw := 15, lh := 11 }
theorem witness_LaunchesArePlacedSuspendedAndResumed_preempt :
    planFirst (wWaiting .waiting wWhole) [] (wWhole probeLaunch.lr) (origins (wWhole probeLaunch.lr)) = none ∧
      (((slist (wWaiting .waiting wWhole).alloc.launches).filter (fun kl => kl.2.isStopping)).map (·.1)) = [] ∧
      (firstVictims (wWaiting .waiting wWhole) { probeLaunch with lr := wWhole probeLaunch.lr, prio := 1 } []
        (origins (wWhole probeLaunch.lr))).map (fun vs => vs.map (·.1)) = some [0] := by decide +kernel
/-- The resident launch told to stop at 0, its team gone or its arm running on; also with a trap due. -/
def wStopping (teams : Store (Option Team)) : State :=
  let s := wPages [] []
  { s with
    sched := { s.sched with gtc := 2000 }
    alloc := { s.alloc with teams := teams, launches := [(0, some { probeLaunch with status := .stopping 0 })] } }
theorem witness_LaunchesArePlacedSuspendedAndResumed_stop :
    ((wStopping [(0, some wTeam)]).armOf ⟨0, false⟩).map (fun x => x.2.stopped) = some false ∧
      (wStopping [(0, some wTeam)]).launch? 0 = some { probeLaunch with status := .stopping 0 } ∧
      ({ probeLaunch with status := .stopping 0 } : Launch).since? = some 0 ∧ 0 + 2000 ≤ (wStopping []).sched.gtc ∧
      ((wStopping [(0, some wTeam)]).armOf ⟨0, false⟩).map (fun x => x.2.due?) = some none := by decide +kernel
theorem witness_LaunchesArePlacedSuspendedAndResumed_stop_due :
    let s := wStopping [(0, some (wArm fun a => { a with wait := .fatal 0x40 }))]
    (s.armOf ⟨0, false⟩).map (fun x => (x.2.stopped, x.2.due?, armTakes s x.1 false x.2)) = some (false, some 0x40, true) := by decide +kernel
theorem witness_LaunchesArePlacedSuspendedAndResumed_suspend :
    let s := wStopping [(0, some (wArm fun a => { a with stopped := true }))]
    let l := { probeLaunch with status := .stopping 0 }
    s.launch? 0 = some l ∧ l.isStopping = true ∧ l.isAborting = false ∧ armsHalted s 0 = true ∧
      (∀ c ∈ slist s.eng.cmds, c.2.launch = 0 → cmdHalted s c.1 c.2 = true) ∧ (∀ o ∈ slist s.coh.ops, opHolds 0 o.2 = false) ∧
      writesOut s l.keyRanges = false ∧ (∀ c ∈ l.cores, ∀ kx ∈ slist s.coh.l1, kx.1 % 256 = c → kx.2.st ≠ .m) ∧
      (∀ c ∈ l.cores, writeBacksOut s c = false) := by decide +kernel
theorem witness_LaunchesArePlacedSuspendedAndResumed_resume :
    let s := wWaiting .suspended id
    (allocHead s).map (fun x => (x.1, x.2.status)) = some (5, .suspended) ∧
      (∀ l, allocHead s = some (5, l) → (∀ c ∈ l.cores, coreFreeFor s 5 l c = true) ∧ Memory.wf l.saved = true ∧
        ∀ c ∈ l.saved, inRanges l.keyRanges c.1 = true) := by
  refine ⟨by decide +kernel, fun l h => ?_⟩
  have : allocHead (wWaiting .suspended id) = some (5, (((wWaiting .suspended id).launch? 5).getD probeLaunch)) := by decide +kernel
  rw [h] at this
  cases this
  decide +kernel

/-! ### Translation and guests -/

/-- The T arm waits for a load's page (address `va`, no write) beside what the witness pages hold. -/
def wXlate (va : Nat) : State :=
  let s := wPages [] []
  { s with alloc := { s.alloc with teams := [(0, some (wArm fun a => { a with wait := .xlate [(va, false, true)] }))] } }
/-- The state after the core's walk of a page. -/
def wWalked (va page : Nat) : State := (wXlate va).walked (coreUnit 0) 0 (page * 2 ^ 17)
/-- Pages 1 (in a table), 2 (to be supplied), 3 (with no entry), 4 (to be supplied, with no write). -/
theorem witness_TranslationsAreWalkedAndAnswered_walks :
    (wXlate 0x20040).pageWaiters 0 1 = [(⟨0, false⟩, 0, 0x20040, false)] ∧
      (∀ p ∈ [((0x20040 : Nat), false, true)], p.1 / 2 ^ 17 = 1) ∧
      walk (wWalked 0x20040 1) 0 (1 * 2 ^ 17) = .page 0x100000 true true true false ∧
      (wXlate 0x20040).tlbFind (coreUnit 0) 0 (1 * 2 ^ 17) = none ∧ walk (wXlate 0x20040) 0 (1 * 2 ^ 17) = .page 0x100000 true true true false ∧
      ((wWalked 0x20040 1).armOf ⟨0, false⟩).map (fun x => x.2.wait) = some (.xlate [(0x20040, false, true)]) ∧
      walk (wWalked 0x40000 2) 0 (2 * 2 ^ 17) = .replay true true true ∧
      (wWalked 0x40000 2).waiterDenied 2 (⟨0, false⟩, 0, 0x40000, false) true true true = false ∧
      (wXlate 0x40000).pageWaiters 0 2 = [(⟨0, false⟩, 0, 0x40000, false)] ∧ (wWalked 0x40000 2).easel.faults = [] := by decide +kernel
theorem witness_TranslationsAreWalkedAndAnswered_refused :
    walk (wWalked 0x80000 4) 0 (4 * 2 ^ 17) = .replay true false false ∧
      (wWalked 0x80000 4).waiterDenied 4 (⟨0, false⟩, 0, 0x80000, false) true false false = true ∧
      (wXlate 0x80000).pageWaiters 0 4 = [(⟨0, false⟩, 0, 0x80000, false)] ∧
      walk (wWalked 0x60000 3) 0 (3 * 2 ^ 17) = .fatal ∧
      (wXlate 0x60000).pageWaiters 0 3 = [(⟨0, false⟩, 0, 0x60000, false)] := by decide +kernel
/-- Another chip's request waits for page 0, and no arm. -/
def wServedWait : State :=
  let s := wAbsent (wAtr wW0 [])
  { s with
    pod := { s.pod with served := [(memberKey 3 5, some ⟨{ copyRequest wCopy with exp := 2, off := 64 }, none, 0, true⟩)] }
    alloc := { s.alloc with teams := [] } }
theorem witness_TranslationsAreWalkedAndAnswered_served : wServedWait.pageWaiters 0 0 = [] ∧ wServedWait.servedWaits 0 0 = true := by decide +kernel

/-- The current T arm's page was answered as fatal. -/
def wFatal : State := wState (wArm fun a => { a with wait := .fatal 0x60000 })
theorem witness_TranslationsAreWalkedAndAnswered_fatal :
    wFatal.curArm.map (fun x => (x.1, x.2.1, x.2.2.2.wait)) = some (0, false, .fatal 0x60000) ∧ wFatal.launch? 0 = some probeLaunch ∧
      (∀ tid f t a, wFatal.curArm = some (tid, f, t, a) → armTakes wFatal t f a = true) := by
  refine ⟨by decide +kernel, by decide +kernel, fun tid f t a h => ?_⟩
  have : wFatal.curArm = some (0, false, wArm fun a => { a with wait := .fatal 0x60000 },
      { (wTeam.armT.getD (Arm.start 0 0)) with wait := .fatal 0x60000 }) := by decide +kernel
  rw [h] at this
  cases this
  decide +kernel

/-- A work packet of site 0, queue 1, SEQ 5, of command 7, with page 1 granted; pages it waits for, reports it owes, a STOPPED due. -/
def wPacket (waits : List Nat) (owes : List (Nat × Nat)) (stopBy : Option Nat) : Packet :=
  ⟨0, 1, 5, 0, 7, 0, 0, List.replicate 64 0, waits, owes, [], [(1, false)], stopBy, some 0, 0, false⟩
def wEasel : Cmd :=
  { wCmd (.easel 0 1 5 0 [] none 1) with slices := [⟨0, 0, false, some 63, none, none, 0, 0, 0x100, []⟩], started := true }
/-- The witness pages with site 0 serving (SEQ of queue 1 past 5, an invalidation unanswered since 10), page 1 in its TLB, that packet. -/
def wGuest (p : Packet) : State :=
  let s := wPages [] []
  { s with
    sched := { s.sched with gtc := 20000 }
    eng := { s.eng with cmds := [(7, some wEasel)] }
    easel := { s.easel with
      sites := [(0, some ⟨true, false, 0, 3, 0, 0, [(1, 6)], [⟨4, 10, 0, 0, 1, false⟩], [], []⟩)]
      packets := [p]
      tlb := [⟨0, 0, 1, 0x100000, true, true, true, false⟩] } }
def wFrom : GuestPkt := ⟨0, 1, 5⟩
theorem wSays (p : Packet) (h : (p.site, p.queue, p.seq) = (0, 1, 5)) : (wGuest p).GuestSays wFrom p := by
  simp only [Prod.mk.injEq] at h
  obtain ⟨h1, h2, h3⟩ := h
  exact ⟨by simp [wGuest, State.site]; decide, by simp [wGuest, State.packet?, wFrom, Packet.is, h1, h2, h3]⟩

/-- Page 2 was reported for two arms, a command parked on it, and a guest that waits for it. -/
def wReported : State :=
  let s := wGuest (wPacket [0x40000] [] none)
  { s with
    eng := { s.eng with cmds := [(7, some { wCmd .fill with parked := some (2, false) })] }
    alloc := { s.alloc with teams := [(0, some (wArm fun a => { a with wait := .xlate [(0x40000, false, true)] }))] }
    easel := { s.easel with faults := [⟨0, 2, 0⟩] } }
theorem witness_TranslationsAreWalkedAndAnswered_answers :
    wReported.faulted 0 2 = true ∧ wReported.alloc.insts = [] ∧ wReported.pod.served = [] ∧ wReported.pageWaiters 0 2 ≠ [] ∧
      (wReported.cmd? 7).map (·.parked) = some (some (2, false)) ∧ (wReported.cmd? 7).map (·.fail) = some none ∧
      wReported.launch? 0 = some probeLaunch ∧ probeLaunch.ctx = 0 ∧ (∃ p ∈ wReported.easel.packets, p.ctx = 0 ∧ ∃ va ∈ p.waits, va / 2 ^ 17 = 2) := by
  and_intros <;> decide +kernel

/-- An invalidation of pages 0 to 3 of context 0; one under way that nothing holds up. -/
def wInval (sites : Store (Option Site)) : State :=
  let s := wGuest (wPacket [] [] none)
  { s with
    mgmt := { s.mgmt with bar0 := [(0x300300, 0), (0x300308, 0x8000000000000000)] }
    easel := { s.easel with xinvBusy := true, sites := sites } }
theorem witness_TranslationsAreWalkedAndAnswered_invalidate :
    (wGuest (wPacket [] [] none)).easel.xinvBusy = false ∧ (0x8000000000040000 : Word).getLsbD 63 = true ∧
      (0x40000 : Word).getLsbD 63 = false ∧ (wGuest (wPacket [] [] none)).liveSites = [0] ∧
      (∃ e ∈ (wGuest (wPacket [] [] none)).easel.tlb, e.ctx = fld (0x8000000000040000 : Word) 0 16) ∧
      (wGuest (wPacket [] [] none)).mgmt.stage = 4 ∧ State.reset.mgmt.stage < 2 ∧ (∀ r ∈ (wInval []).easel.xinvReads, oget (wInval []).coh.reads r = none) ∧
      (wInval []).easel.xinvBusy = true ∧ (wInval []).liveOps (wInval []).easel.xinvOps = [] ∧ (wInval []).easel.xinvLoads = [] ∧
      (∀ d ∈ (wInval []).liveSites, ((wInval []).site d).invals = []) ∧ (wInval []).easel.xinvServed = [] := by
  and_intros <;> decide +kernel

theorem witness_GuestsAreServedAndIsolated_packet :
    (wGuest (wPacket [] [] none)).GuestSays wFrom (wPacket [] [] none) ∧ (wGuest (wPacket [] [] none)).guestWrites wFrom = false ∧
      (wGuest (wPacket [] [] none)).Reports (wPacket [] [] none) wEasel ⟨0, 0, false, some 63, none, none, 0, 0, 0x100, []⟩ 63 wTeam ∧
      (wPacket [] [] none).denied.contains (0x40000 / 2 ^ 17) = false ∧ (wPacket [] [] none).stopBy = none ∧
      (wGuest (wPacket [] [] (some 9))).GuestSays wFrom (wPacket [] [] (some 9)) ∧ (wPacket [] [] (some 9)).stopBy ≠ none ∧
      (wPacket [] [] (some 9)).stopBy = some 9 ∧ (9 : Nat) < (wGuest (wPacket [] [] (some 9))).sched.gtc ∧
      1 ≠ ((wGuest (wPacket [] [] (some 9))).site 0).bufferAddr ((wPacket [] [] (some 9)).buf.getD 0) :=
  ⟨wSays _ rfl, by decide +kernel, ⟨by decide +kernel, ⟨0, 1, 5, 0, [], 1, rfl⟩, rfl, rfl, by decide +kernel, rfl⟩, by decide +kernel, rfl,
    wSays _ rfl, by decide, rfl, by decide, by decide +kernel⟩
/-- A write of the packet's under way; a report due that is late, and one in time; a page whose fault fails it; a STOPPED in time. -/
def wWrites : State :=
  let s := wGuest (wPacket [] [] none)
  { s with coh := { s.coh with ops := [(2, some ⟨.guest 0 1 5 none, 0, false, []⟩)] } }
def wDenied : Packet := { wPacket [] [(2, 30000)] none with denied := [2] }
theorem witness_GuestsAreServedAndIsolated_late :
    wWrites.guestWrites wFrom = true ∧ (wWrites.site wFrom.site).serves = true ∧ wWrites.packet? wFrom = some (wPacket [] [] none) ∧
      ((2, 100) : Nat × Nat) ∈ (wPacket [] [(2, 100)] none).owes ∧ (100 : Nat) < (wGuest (wPacket [] [(2, 100)] none)).sched.gtc ∧
      (∀ o ∈ wDenied.owes, o.1 = 0x40000 / 2 ^ 17 → (wGuest wDenied).sched.gtc ≤ o.2) ∧ wDenied.denied.contains (0x40000 / 2 ^ 17) = true ∧
      (wGuest (wPacket [] [] (some 30000))).sched.gtc ≤ 30000 ∧
      (∀ i ∈ ((wGuest (wPacket [] [] none)).site 0).invals, i.num = 5 → (wGuest (wPacket [] [] none)).sched.gtc ≤ i.by_) ∧
      (((wGuest (wPacket [] [] none)).site 0).invals.find? (fun x => x.num = 4)).map (·.by_) = some 10 := by
  and_intros <;> decide +kernel
theorem witness_GuestsAreServedAndIsolated_denied :
    (wGuest wDenied).GuestSays wFrom wDenied ∧ (wGuest (wPacket [] [] (some 30000))).GuestSays wFrom (wPacket [] [] (some 30000)) ∧
      (wGuest (wPacket [] [(2, 100)] none)).GuestSays wFrom (wPacket [] [(2, 100)] none) :=
  ⟨wSays _ rfl, wSays _ rfl, wSays _ rfl⟩
/-- What an XLREQ of an address, for a read, finds. -/
def wGets (va : Nat) : Walk := (xlNow (((wGuest (wPacket [] [] none)).heard 0).walked (dieUnit 0) 0 va) (dieUnit 0) 0 va .read).1
/-- The page in its table and not in the guest's TLB; a page never granted; a granted page whose sector nobody holds, poisoned or not. -/
def wGuestPoison : State :=
  let s := wGuest (wPacket [] [] none)
  { s with coh := { s.coh with poison := [(0x100040 / 64, true)] } }
theorem witness_GuestsAreServedAndIsolated_unshared : (wGuest (wPacket [] [] none)).Unshared (0x100040 / 64) :=
  by constructor <;> decide +kernel
theorem witness_GuestsAreServedAndIsolated_port :
    wGets 0x40 = .page 0xE0000 true false false false ∧ wGets 0x40000 = .replay true true true ∧ wGets 0x60000 = .fatal ∧
      (wPacket [] [] none).granted.any (fun g => pageHolds g.1 g.2 (0x40000 / 2 ^ 17)) = false ∧
      (wPacket [] [] none).granted.any (fun g => pageHolds g.1 g.2 (0x20040 / 2 ^ 17)) = true ∧
      tlbLook ((wGuest (wPacket [] [] none)).heard 0) 0 0 0x20040 .read = .pa 0x100040 ∧
      tlbLook ((wGuest (wPacket [] [] none)).heard 0) 0 0 0x20040 .write = .pa 0x100040 ∧
      (wGuest (wPacket [] [] none)).agentRead? (.guest 0 1 5) (0x100040 / 64) = none ∧
      (wGuest (wPacket [] [] none)).poisoned (0x100040 / 64) = false ∧ (wGuest (wPacket [] [] none)).noLeases = false ∧
      wGuestPoison.poisoned (0x100040 / 64) = true := by decide +kernel
theorem pair_of {α β : Type} {r : α × β} {x : α} (h : r.1 = x) : ∃ s, r = (x, s) := ⟨r.2, Prod.ext h rfl⟩
theorem witness_GuestsAreServedAndIsolated_reads :
    (∃ s1, ((wGuest (wPacket [] [] none)).setDir (0x100040 / 64) { DirEnt.init with owner := some 3 }).agentReads (.guest 0 1 5) none
      [0x100040 / 64] = (none, s1)) ∧
      ∃ x s1, (wGuest (wPacket [] [] none)).agentReads (.guest 0 1 5) none [0x100040 / 64] = (some [x], s1) := by
  exact ⟨pair_of (by decide +kernel), (List.replicate 64 0, false, 0), pair_of (by decide +kernel)⟩
theorem witness_GuestsAreServedAndIsolated_breaks :
    let s := wGuest (wPacket [] [(2, 100)] (some 100))
    (s.site 0).serves = true ∧ s.packet? ⟨0, 1, 4⟩ = none ∧ (∃ i ∈ (s.site 0).invals, i.by_ < s.sched.gtc) ∧
      (s.site 0).lastFlit + 10000 < s.sched.gtc ∧ (0xF006 : BitVec 16).toNat > 0xF005 ∧
      (∃ p, s.packet? ⟨0, 1, 5⟩ = some p ∧ p.stopBy = some 100 ∧ ((2, 100) : Nat × Nat) ∈ p.owes) ∧ 100 < s.sched.gtc ∧
      ((s.isolate 0 1).site 0).isolated = true :=
  ⟨by decide +kernel, by decide +kernel, ⟨⟨4, 10, 0, 0, 1, false⟩, by decide +kernel⟩, by decide +kernel, by decide,
    ⟨wPacket [] [(2, 100)] (some 100), by decide +kernel⟩, by decide +kernel, by decide +kernel⟩

/-! ### The host, the controller, errors -/

/-- The part running with nothing under way, its mailbox command answered or not; in an earlier stage. -/
def wStage (n : Nat) (ran : Bool) : State :=
  let s := wState wTeam
  { s with mgmt := { s.mgmt with stage := n, mailRan := ran } }
theorem witness_HostAccessesComplete :
    runReaches (2 ^ 60) 8 = false ∧ (wStage 4 false).HostMay ∧ runReaches 0x100040 2 = true ∧ (wStage 4 false).Unshared (0x100040 / 64) ∧
      (wStage 4 false).agentRead? .host (0x100040 / 64) = none ∧ 0x100040 % 8 = 0 ∧ runReaches 0x100040 8 = true :=
  ⟨by decide +kernel, ⟨by decide, by decide +kernel⟩, by decide +kernel,
    ⟨by decide +kernel, by decide +kernel, by decide +kernel, by decide +kernel, by decide +kernel⟩, by decide +kernel,
    by decide, by decide +kernel⟩
/-- A read whose home has an owner waits; one of a free home is answered. -/
theorem witness_HostAccessesComplete_reads :
    (∃ s1, ((wStage 4 false).setDir 0x4001 { DirEnt.init with owner := some 3 }).agentReads .host none [0x100040 / 64] = (none, s1)) ∧
      ∃ d s1, (wStage 4 false).agentReads .host none [0x100040 / 64] = (some [d], s1) :=
  ⟨pair_of (by decide +kernel), (List.replicate 64 0, false, 0), pair_of (by decide +kernel)⟩

theorem witness_RegistersTakeTheHostsWrites :
    (500 ≤ fld (3000 : Word) 0 12 ∧ fld (3000 : Word) 0 12 ≤ 3000) ∧ (fld (499 : Word) 0 12 < 500 ∧ 3000 < fld (3001 : Word) 0 12) ∧
      2 ≤ (wStage 4 false).mgmt.stage ∧ (2 ≤ fld (2 : Word) 0 4 ∧ fld (1 : Word) 0 4 < 2) ∧
      ((wStage 2 false).mgmt.stage < 3 ∧ (wStage 3 false).mgmt.stage = 3) ∧ (wStage 1 false).mgmt.stage < 2 ∧
      (wStage 4 false).mgmt.mailRan = false ∧ (wStage 4 true).mgmt.mailRan = true := by decide +kernel
/-- Die 0 holds an abort record. -/
def wRecord : State :=
  let s := wStage 4 false
  { s with alloc := { s.alloc with aborts := [(0, some [0x8000000000000003, 7])] } }
theorem witness_RegistersTakeTheHostsWrites_record :
    2 ≤ wRecord.mgmt.stage ∧ oget wRecord.alloc.aborts 0 = some [0x8000000000000003, 7] ∧ 0 < [(0x8000000000000003 : Word), 7].length := by
  decide +kernel

/-- The smallest boot image of version 5: its magic, version, length of no payload, zeros. -/
def wImage : List Byte := leBytes 4 0x5A455046 ++ leBytes 4 5 ++ leBytes 8 0 ++ List.replicate 4080 0
/-- The digest of its key, in the controller's memory. -/
def wRom : List Byte := sha3 ((wImage.drop 16).take 1312)
theorem wImage_ok (sig : Bool) : imageOk wRom wImage sig = sig := by
  have h : 4096 ≤ wImage.length ∧ leNat (wImage.take 4) = 0x5A455046 ∧ leNat ((wImage.drop 8).take 8) = wImage.length - 4096 ∧
      ((wImage.drop 3748).take 348).all (· = 0) = true := by decide +kernel
  simp only [imageOk, wRom, h.1, h.2.1, h.2.2.1, h.2.2.2, decide_true, Bool.and_true]
/-- Stage A after a power-on that had seen version 6, or version 5; Stage C over and Stage D due with the time locked. -/
def wBoot (rollback : Nat) : State :=
  { State.reset with mgmt := { State.reset.mgmt with rollback := rollback, romDigest := wRom } }
theorem witness_StagesPowerAndErrors_image (rollback : Nat) :
    imageOk (wBoot rollback).mgmt.romDigest wImage true = true ∧ imageOk (wBoot rollback).mgmt.romDigest wImage false = false ∧
      leNat ((wImage.drop 4).take 4) = 5 := by
  simp only [wBoot]
  exact ⟨wImage_ok true, wImage_ok false, by decide +kernel⟩
/-- The same part, tripped. -/
def wTripped : State :=
  let s := wBoot 5
  { s with mgmt := { s.mgmt with tripped := true } }
theorem witness_StagesPowerAndErrors_tripped : wTripped.mgmt.tripped = true ∧ (wBoot 5).mgmt.tripped = false := ⟨rfl, rfl⟩
def wStageD : State :=
  { State.reset with
    pod := { State.reset.pod with locked := true }
    mgmt := { State.reset.mgmt with stage := 3, stageDPending := true } }
theorem witness_StagesPowerAndErrors_stages :
    State.reset.mgmt.tripped = false ∧ (wBoot 5).mgmt.stage = 1 ∧ 5 < (wBoot 6).mgmt.rollback ∧ (wBoot 5).mgmt.rollback ≤ 5 ∧
      (wStage 2 false).mgmt.stage = 2 ∧ (wStage 2 false).mgmt.tripped = false ∧ wStageD.mgmt.stage = 3 ∧ wStageD.mgmt.stageDPending = true ∧
      wStageD.quiet = true ∧ wStageD.pod.locked = true ∧ State.reset.mgmt.gated ≤ 192 ∧ 2000 % 4096 ≤ fld (State.reset.bar0 0x20) 0 12 := by
  decide +kernel
/-- Seven corrected errors of core 0's L1 in this window; the window before the present one. -/
def wErrors (gtc : Nat) : State :=
  let s := wStage 4 false
  { s with sched := { s.sched with gtc := gtc }, mgmt := { s.mgmt with errors := [(.l1 0, 7)] } }
theorem witness_StagesPowerAndErrors_errors :
    2 ≤ (wErrors 0).mgmt.stage ∧ (wErrors 0).errCount (.l1 1) + 1 < fld ((wErrors 0).bar0 0x300040) 0 4 ∧ ErrSource.OfCore (.l1 0) 0 ∧
      fld ((wErrors 0).bar0 0x300040) 0 4 ≤ (wErrors 0).errCount (.l1 0) + 1 ∧ (wErrors 0).mgmt.lasting.contains (.l1 0) = false ∧
      (wErrors 0).eng.fenced.contains 0 = false ∧ (wErrors 0).coh.net = [] ∧ (wErrors 0).coh.l1 = [] ∧ (wErrors 0).coh.dir = [] ∧
      (wErrors 0).coh.owns = [] ∧ (wErrors 0).team? 0 = some wTeam ∧ wTeam.geom.core = 0 ∧ (wErrors 0).launch? 0 = some probeLaunch ∧
      probeLaunch.status = .resident ∧ (wErrors (2 ^ 30)).mgmt.window < (wErrors (2 ^ 30)).sched.gtc / 2 ^ 30 :=
  ⟨by decide +kernel, by decide +kernel, Or.inr (Or.inl rfl), by and_intros <;> decide +kernel⟩

/-! ### The machine as a whole -/

/-- Reset with the bits of a unit placed where the next step fetches, and the issue of its one arm there. -/
def wUnit (nbits w : Nat) : State := State.reset.withFetchWord nbits w
def wUnitArm : Arm := { Arm.start 0 1 with last := 1 }
def wUnitTeam : Team := { probeTeam with armT := some wUnitArm }
def wUnitIssue (s : State) (pipe : Nat) : Issue := ⟨s.noteIssue ⟨0, false⟩ pipe, 0, false, wUnitTeam, wUnitArm, probeLaunch, wUnitTeam, []⟩
/-- The same in the state that the fetch leaves. -/
def wUnitRuns (s : State) (pipe : Nat) : Issue := { wUnitIssue s pipe with s := (wUnitIssue s pipe).s.fetched }

def currentB (k : Issue) : Bool :=
  decide (k.s.sched.cur = some ⟨k.tid, k.f⟩) && decide (k.s.team? k.tid = some k.t) && decide (k.t.arm? k.f = some k.a)
    && decide (k.s.launch? k.t.geom.launch = some k.l) && armMayIssue k.s k.t k.f k.a
theorem current_of {k : Issue} (h : currentB k = true) : k.Current := by
  simp only [currentB, Bool.and_eq_true, decide_eq_true_eq] at h
  exact ⟨h.1.1.1.1, h.1.1.1.2, h.1.1.2, h.1.2, h.2⟩

/-- The T arm is the choice, with no passes of a unit to go; its issue is current, also after the fetch; the first word is as given. -/
def unitB (pipe : Nat) (s : State) (r : FetchRes) : Bool :=
  (match s.anyChoice with
    | some x => decide (x.id = ⟨0, false⟩ ∧ x.pipe s = pipe ∧ x.arm.todo = 0)
    | none => false)
    && currentB (wUnitIssue s pipe) && currentB (wUnitRuns s pipe)
    && decide (fetchWord (wUnitIssue s pipe).s (wUnitIssue s pipe).l 0 0 = r)

theorem unit_of {pipe : Nat} {s : State} {r : FetchRes} (h : unitB pipe s r = true) :
    ∃ x, s.anyChoice = some x ∧ x.arm.todo = 0 ∧ (wUnitIssue s pipe).s = s.noteIssue x.id (x.pipe s) ∧
      (wUnitIssue s pipe).tid = x.id.team ∧ (wUnitIssue s pipe).f = x.id.f ∧ (wUnitIssue s pipe).Current ∧
      (wUnitRuns s pipe).Current ∧ (wUnitIssue s pipe).t.geom.core = 0 ∧ (wUnitIssue s pipe).a.pc.toNat = 0 ∧
      fetchWord (wUnitIssue s pipe).s (wUnitIssue s pipe).l 0 0 = r := by
  simp only [unitB, Bool.and_eq_true, decide_eq_true_eq] at h
  obtain ⟨⟨⟨h0, h1⟩, h2⟩, h3⟩ := h
  split at h0
  · rename_i x hx
    obtain ⟨ha, hp, ht⟩ := of_decide_eq_true h0
    exact ⟨x, hx, ht, by rw [ha, hp]; rfl, by rw [ha]; rfl, by rw [ha]; rfl, current_of h1, current_of h2, rfl, rfl, h3⟩
  · cases h0

/-- FFMA of one word; ORD with its LD; no unit; EXT before no unit; LOOP whose body ends in a prefix. -/
theorem witness_StepRunsTheDecodedUnit_word : unitB 0 (wUnit 32 0x4A440830) (.word 0x4A440830) = true ∧
    decode 0x4A440830 none = .ok (.ffma ⟨1, 4, 2, 3, .f64, false, false⟩) ∧
    checkBody (wUnitIssue (wUnit 32 0x4A440830) 0).s probeLaunch 0 0 (.ffma ⟨1, 4, 2, 3, .f64, false, false⟩)
      = .unit (.ffma ⟨1, 4, 2, 3, .f64, false, false⟩) := by decide +kernel
theorem witness_StepRunsTheDecodedUnit_pair : unitB 0 (wUnit 64 0x6E0504227A800000) (.word 0x7A800000) = true ∧ decode 0x7A800000 none = .error .more ∧
    fetchWord (wUnitIssue (wUnit 64 0x6E0504227A800000) 0).s probeLaunch 0 4 = .word 0x6E050422 ∧
    decode 0x7A800000 (some 0x6E050422) = .ok (.ord .acquire .team (.ld ⟨0, 5, 1, 2, .si, .w32⟩)) := by decide +kernel
theorem witness_StepRunsTheDecodedUnit_traps : unitB 0 (wUnit 32 0) (.word 0) = true ∧ decode 0 none = .error (.illop (oneInfo 0)) ∧
    unitB 0 (wUnit 64 0x7C000000) (.word 0x7C000000) = true ∧ decode 0x7C000000 none = .error .more ∧
    decode 0x7C000000 (some 0) = .error (.prefixBad (pairInfo 0x7C000000 0)) := by decide +kernel
theorem witness_StepRunsTheDecodedUnit_body : unitB 16 (wUnit 64 0x7A800000C0030001) (.word 0xC0030001) = true ∧ decode 0xC0030001 none = .ok (.loop 3 1) ∧
    checkBody (wUnitIssue (wUnit 64 0x7A800000C0030001) 16).s probeLaunch 0 0 (.loop 3 1) = .trap 4 Code.illop (unitWords (.loop 3 1)) := by
  decide +kernel
/-- The same with the arm outside the code segment. -/
def wOutside : State := (wUnit 32 0).setTeam 0 { probeTeam with armT := some (Arm.start 0x10000 1) }
theorem witness_StepRunsTheDecodedUnit_bounds :
    (wOutside.anyChoice.map fun x => (x.id, x.arm.todo)) = some (⟨0, false⟩, 0) ∧
      fetchWord (wOutside.noteIssue ⟨0, false⟩ 0) probeLaunch 0 0x10000 = .bounds := by decide +kernel
/-- The page of the unit has no entry, or is to be supplied. -/
def wNoTables : State := { wUnit 32 0 with mem := [] }
theorem witness_StepRunsTheDecodedUnit_pages :
    unitB 16 (wUnpaged wNoTables) .fatal = true ∧ unitB 16 (wAbsent wNoTables) .replay = true := by decide +kernel
/-- A park that has reached its limit of cycles, and one that has not. -/
def wPark (since : Nat) : State :=
  let s := (wUnit 32 0).setTeam 0 { probeTeam with armT := some { Arm.start 0 1 with wait := .paused since none } }
  { s with sched := { s.sched with cycle := 100 } }
theorem witness_StepRunsTheDecodedUnit_parks :
    36 + (if (none : Option (Nat × Nat)).isSome then 4096 else 64) ≤ (wPark 36).sched.cycle ∧
      (wPark 37).sched.cycle < 37 + (if (none : Option (Nat × Nat)).isSome then 4096 else 64) ∧
      ((wPark 36).team? 0).map (fun t => (t.armT.map (·.wait))) = some (some (.paused 36 none)) := by decide +kernel
/-- An arm with passes to go; none that may issue; two arms, one older. -/
def wPasses (n : Nat) : State := (wUnit 32 0).setTeam 0 { probeTeam with armT := some { Arm.start 0 1 with todo := n } }
theorem witness_StepRunsTheDecodedUnit_turns :
    ((wPasses 3).anyChoice.map fun x => x.arm.todo) = some 3 ∧ (wPasses 3).sched.agenda = [] ∧
      ((wPasses 3).choice 0).isSome = true ∧ State.reset.anyChoice = none ∧ State.reset.sched.agenda = [] ∧
      (wUnit 32 0).team? 0 = some probeTeam ∧ (wUnit 32 0).launch? 0 = some probeLaunch ∧ probeTeam.armT = some (Arm.start 0 1) ∧
      (∀ x ∈ (wUnit 32 0).seats, x.launch.isStopping = false) := by decide +kernel
theorem witness_StepRunsTheDecodedUnit_agenda :
    ((wUnit 32 0).seats.find? (fun y => y.id = ⟨0, false⟩)).map (·.id) = some ⟨0, false⟩ ∧
      (((wUnit 32 0).choice 0).map (·.id)) = some ⟨0, false⟩ ∧ (Instr.portDown 0).isUnit = false := by
  refine ⟨by decide +kernel, by decide +kernel, rfl⟩

/-- A unit that is well formed. -/
theorem witness_DecodingReadsBackEveryUnit :
    (Instr.ffma ⟨1, 4, 2, 3, .f64, false, false⟩).WellFormed ∧ (Instr.ffma ⟨1, 4, 2, 3, .f64, false, false⟩).isUnit = true := by
  exact ⟨by decide, rfl⟩
/-- The first step after reset, of a cycle in which nothing runs. -/
theorem witness_EveryStepKeepsMemoryCanonical :
    State.reset.MemCanonical ∧ (match step State.reset with | .next s' => decide (s'.sched.cycle = 1) | _ => false) = true := by
  exact ⟨(rfl : Memory.wf State.reset.mem = true), by decide +kernel⟩

/-! ### Ill-formed terms are refused -/

/-- One term for each check on a unit. -/
theorem test_wf_units : ([
    .fcvtn ⟨0, 1, 2, 3, .e8m0⟩, .lds ⟨0, 1, 2, 3, .si, .w64⟩, .ord .release .team (.ld ⟨0, 1, 2, 3, .si, .w32⟩),
    .ord .acquire .team (.lds ⟨0, 1, 2, 3, .si, .w64⟩), .ord .acqRel .team (.st ⟨0, 1, 2, 3, .si, .w32⟩), .bra 0 true 4, .brd 0 1 false 4,
    .loop 3 0, .fence 0 .gang .sc false, .setc 0 1 .gtc, .hnarrow ⟨0, 1, 2, 3⟩ 9, .cpyv ⟨0, 1, 2, 4, none, 16385⟩, .mma ⟨0, 0, 0, 1, 2, 1, 1⟩,
    .mmaH ⟨0, 0, 0, 1, 2, 3, 1⟩, .mepi ⟨0, 0, 1, 8, 2, false, 0, false, false⟩, .mepiSend ⟨0, 0, 1, 8, 2, false, 0, false, false⟩,
    .collAr ⟨0, 0, 1, 8, none, 1⟩, .collRs ⟨0, 0, 1, 8, none, 1⟩, .collAg ⟨0, 0, 1, 8, none, 1⟩, .easel ⟨0, 0, 8, some 4, 1, 0, false⟩]
    : List Instr).any (·.wf) = false := by decide +kernel
/-- One term for each check on an event. -/
theorem test_wf_events : ([
    .lostReconvergenceRelease (2 ^ 64), .teamEnd (2 ^ 64), .pauseTimeout ⟨2 ^ 64, false⟩, .scFenceWaitEnd ⟨2 ^ 64, true⟩,
    .walkerElementArrival 0 4 0, .validityEnd 192 0, .watchRegistration 1024 0 0 0, .watchRegistration 0 65536 0 0, .wake 1024 ⟨0, false⟩,
    .streamerRound 48, .acceptSignal 256 0 0 0, .groupSector { wSec 0 1 .allReduce false 1 with group := 256 },
    .resultSector { wSec 0 1 .allReduce true 1 with group := 256 }, .groupError 256 0, .groupStallTimeout 256 0 0 0,
    .reducingLoadRequest ⟨0, 0, 0, 4, 0⟩ 0 0 8 0 1, .reducingLoadRequest ⟨0, 0, 0, 0, 0⟩ 0 0 8 2 1, .reducingLoadValue ⟨0, 0, 0, 0, 3⟩ (0, 1) (.val 0 false),
    .treeTableWrite 0 [0], .flitReceive 48 true 0 0, .flitReceive 0 true 1024 0, .replayRequest 48 0, .idleFlit 48, .portDown 48, .linkRekey 48]
    : List Instr).any (·.wf) = false := by decide +kernel
theorem test_wf_events_pod : ([
    .remoteRequest { wReq 1 8 8 .wtRead with chip := 1024 }, .duplicateRecordExpiry 1024 0, .closeRequest 0 0 4 0,
    .summaryReply 0 4 0 false false false, .endNotice 1024 0, .deadPeerDeclaration 1024, .timeMessage 48 0, .uetWrite 1 60 (List.replicate 5 0),
    .doorbell 64 0, .enableClear 64, .instanceStart 2, .dlaunchDescriptor ⟨2 ^ 64, false⟩, .dlaunchStatus ⟨2 ^ 64, false⟩,
    .armStopDeadline ⟨2 ^ 64, false⟩, .tableWalk 65536 0, .faultResolve 0 (2 ^ 40), .faultFatal 65536 0] : List Instr).any (·.wf) = false := by
  decide +kernel
theorem test_wf_events_guest : ([
    .complete ⟨2, 0, 0⟩ 0, .fault ⟨0, 16, 0⟩ 0 false false, .fault ⟨0, 0, 0⟩ (2 ^ 57) false false, .stopped ⟨0, 0, 2 ^ 32⟩ 0 0 false, .invack 2 0,
    .xlreq ⟨0, 0, 0⟩ (2 ^ 57) false false, .rdcurr ⟨0, 0, 0⟩ (2 ^ 57), .rdshared ⟨0, 0, 0⟩ (2 ^ 57), .wrcur ⟨0, 0, 0⟩ (2 ^ 57) [],
    .faultReportDeadline ⟨2, 0, 0⟩, .invackDeadline 2, .stoppedDeadline ⟨2, 0, 0⟩, .linkSilent 2, .guestSiteReset 2 none,
    .unlistedContractKind 2 0] : List Instr).any (·.wf) = false := by decide +kernel
theorem test_wf_events_host : ([
    .hostWrite (2 ^ 57) [], .hostRead (2 ^ 57) 1, .hostAtomic (2 ^ 57) true .add 0 0, .attest [0], .keyload 65536 false 0 [], .abortRecordRead 2,
    .registerWrite 4 0, .registerWrite 16777216 0, .temperatureTrip 2, .portRetrain 48, .deadPeerClear 1024] : List Instr).any (·.wf) = false := by
  decide +kernel

/-! ### Words

Written out from R14, R18, R19 to R25, R28, R30, R31, R248 and R249: every field holds a value with a different bit pattern. -/

/-- LR: pg 5, vd 21, va 42, vb 51, ty, ta 1, tb 0. -/
theorem test_words_integer : ([
    (0x0355AB3A, .add ⟨5, 21, 42, 51, .w16, true, false⟩),
    (0x0555AB3A, .sub ⟨5, 21, 42, 51, .w16, true, false⟩),
    (0x0755AB3A, .mul ⟨5, 21, 42, 51, .w16, true, false⟩),
    (0x0955AB3A, .mad ⟨5, 21, 42, 51, .w16, true, false⟩),
    (0x0B55AB3A, .min ⟨5, 21, 42, 51, .w16, true, false⟩),
    (0x0D55AB3A, .max ⟨5, 21, 42, 51, .w16, true, false⟩),
    (0x0F55AB3A, .minn ⟨5, 21, 42, 51, .w16, true, false⟩),
    (0x1155AB3A, .maxn ⟨5, 21, 42, 51, .w16, true, false⟩),
    (0x1355AB3A, .and ⟨5, 21, 42, 51, .w16, true, false⟩),
    (0x1555AB3A, .or ⟨5, 21, 42, 51, .w16, true, false⟩),
    (0x1755AB3A, .xor ⟨5, 21, 42, 51, .w16, true, false⟩),
    (0x1955AB3A, .andn ⟨5, 21, 42, 51, .w16, true, false⟩),
    (0x1B55AB3A, .shl ⟨5, 21, 42, 51, .w16, true, false⟩),
    (0x1D55AB3A, .shr ⟨5, 21, 42, 51, .w16, true, false⟩),
    (0x1F55AB3A, .sar ⟨5, 21, 42, 51, .w16, true, false⟩),
    (0x5355AB3E, .fdot ⟨5, 21, 42, 51, true, true, false⟩),
    (0x5F55AB3E, .fcvtr ⟨5, 21, 42, 51, true, true, false⟩)] : List (Nat × Instr)).all (fun x => decide (decode x.1 none = .ok x.2)) = true := by decide +kernel
/-- LRF: ty 1. -/
theorem test_words_selected : ([
    (0x2155AB34, .mulh ⟨5, 21, 42, 51, .w32⟩),
    (0x2155AB35, .mulhn ⟨5, 21, 42, 51, .w32⟩),
    (0x2355AB34, .div ⟨5, 21, 42, 51, .w32⟩),
    (0x2355AB35, .divn ⟨5, 21, 42, 51, .w32⟩),
    (0x2355AB36, .rem ⟨5, 21, 42, 51, .w32⟩),
    (0x2355AB37, .remn ⟨5, 21, 42, 51, .w32⟩),
    (0x2555AB34, .adds ⟨5, 21, 42, 51, .w32⟩),
    (0x2555AB35, .subs ⟨5, 21, 42, 51, .w32⟩),
    (0x2555AB36, .addsn ⟨5, 21, 42, 51, .w32⟩),
    (0x2555AB37, .subsn ⟨5, 21, 42, 51, .w32⟩),
    (0x2755AB34, .bfx ⟨5, 21, 42, 51, .w32⟩),
    (0x2755AB35, .bfxn ⟨5, 21, 42, 51, .w32⟩),
    (0x2755AB36, .bfi ⟨5, 21, 42, 51, .w32⟩),
    (0x2755AB37, .prmb ⟨5, 21, 42, 51, .w32⟩),
    (0x6755AB34, .shfl ⟨5, 21, 42, 51, .w32⟩),
    (0x6755AB35, .shup ⟨5, 21, 42, 51, .w32⟩),
    (0x6755AB36, .shdn ⟨5, 21, 42, 51, .w32⟩),
    (0x6755AB37, .shxor ⟨5, 21, 42, 51, .w32⟩)] : List (Nat × Instr)).all (fun x => decide (decode x.1 none = .ok x.2)) = true := by decide +kernel
/-- LU: pg 3, fn6, ty 2, ta 1. -/
theorem test_words_unary : ([
    (0x28D5A80A, .abs ⟨3, 21, 42, .w16, true⟩),
    (0x28D5A81A, .neg ⟨3, 21, 42, .w16, true⟩),
    (0x28D5A82A, .not ⟨3, 21, 42, .w16, true⟩),
    (0x28D5A83A, .popc ⟨3, 21, 42, .w16, true⟩),
    (0x28D5A84A, .clz ⟨3, 21, 42, .w16, true⟩),
    (0x28D5A85A, .ctz ⟨3, 21, 42, .w16, true⟩),
    (0x28D5A86A, .brev ⟨3, 21, 42, .w16, true⟩),
    (0x56D5A80A, .sqrt ⟨3, 21, 42, .f16, true⟩),
    (0x56D5A81A, .rcp ⟨3, 21, 42, .f16, true⟩),
    (0x56D5A82A, .rsq ⟨3, 21, 42, .f16, true⟩),
    (0x56D5A83A, .exp2 ⟨3, 21, 42, .f16, true⟩),
    (0x56D5A84A, .log2 ⟨3, 21, 42, .f16, true⟩),
    (0x56D5A85A, .sin ⟨3, 21, 42, .f16, true⟩),
    (0x56D5A86A, .cos ⟨3, 21, 42, .f16, true⟩),
    (0x56D5A87A, .tanh ⟨3, 21, 42, .f16, true⟩),
    (0x56D5A88A, .fabs ⟨3, 21, 42, .f16, true⟩),
    (0x56D5A89A, .fneg ⟨3, 21, 42, .f16, true⟩),
    (0x56D5A8AA, .fclass ⟨3, 21, 42, .f16, true⟩)] : List (Nat × Instr)).all (fun x => decide (decode x.1 none = .ok x.2)) = true := by decide +kernel
/-- LS and LI. -/
theorem test_words_immediate : ([
    (0x2B55AB3D, .sel ⟨5, 21, 42, 51, 6, true⟩),
    (0x2D55AAC7, .addi ⟨5, 21, 42, 0x2C7⟩),
    (0x2F55AAC7, .muli ⟨5, 21, 42, 0x2C7⟩),
    (0x3155AAC7, .andi ⟨5, 21, 42, 0x2C7⟩),
    (0x3355AAC7, .ori ⟨5, 21, 42, 0x2C7⟩),
    (0x3555AAC7, .xori ⟨5, 21, 42, 0x2C7⟩),
    (0x3755A835, .shli ⟨5, 21, 42, 53⟩),
    (0x3955A835, .shri ⟨5, 21, 42, 53⟩),
    (0x3B55A835, .sari ⟨5, 21, 42, 53⟩),
    (0x3D5502C7, .movi ⟨5, 21, 0x2C7⟩)] : List (Nat × Instr)).all (fun x => decide (decode x.1 none = .ok x.2)) = true := by decide +kernel
/-- LC: pd 3, cc, ty, cmb. -/
theorem test_words_compare : ([
    (0x3F5CAB3E, .cmp ⟨5, 3, .ltn, 42, 51, .w8, .or⟩),
    (0x415EAB3D, .fcmp ⟨5, 3, .un, 42, 51, .bf16, .and⟩)] : List (Nat × Instr)).all (fun x => decide (decode x.1 none = .ok x.2)) = true := by decide +kernel
/-- LQ, and LANEIX. -/
theorem test_words_predicates : ([
    (0x435E2000, .pand ⟨5, 3, 6, 1⟩),
    (0x435E2001, .por ⟨5, 3, 6, 1⟩),
    (0x435E2002, .pxor ⟨5, 3, 6, 1⟩),
    (0x435E2003, .pandn ⟨5, 3, 6, 1⟩),
    (0x435E0004, .pnot 5 3 6),
    (0x43580005, .pset 5 3),
    (0x43580006, .pclr 5 3),
    (0x6D550050, .laneix 5 21)] : List (Nat × Instr)).all (fun x => decide (decode x.1 none = .ok x.2)) = true := by decide +kernel
/-- LR with a float format. -/
theorem test_words_float : ([
    (0x4555AB3E, .fadd ⟨5, 21, 42, 51, .bf16, true, false⟩),
    (0x4755AB3E, .fsub ⟨5, 21, 42, 51, .bf16, true, false⟩),
    (0x4955AB3E, .fmul ⟨5, 21, 42, 51, .bf16, true, false⟩),
    (0x4B55AB3E, .ffma ⟨5, 21, 42, 51, .bf16, true, false⟩),
    (0x4D55AB3E, .fmin ⟨5, 21, 42, 51, .bf16, true, false⟩),
    (0x4F55AB3E, .fmax ⟨5, 21, 42, 51, .bf16, true, false⟩),
    (0x5155AB3E, .fdiv ⟨5, 21, 42, 51, .bf16, true, false⟩),
    (0x5555AB3E, .fscl ⟨5, 21, 42, 51, .bf16, true, false⟩)] : List (Nat × Instr)).all (fun x => decide (decode x.1 none = .ok x.2)) = true := by decide +kernel
/-- Conversions: overrides in their places. -/
theorem test_words_conversions : ([
    (0x5955A8E6, .fcvt ⟨5, 21, 42, some .rup, .f16, .f32, true⟩),
    (0x5B55AB36, .fcvtn ⟨5, 21, 42, 51, .sm4⟩),
    (0x5D55A886, .fcvtw ⟨5, 21, 42, .e8m0, .f32, true⟩),
    (0x6155AB6E, .fcvti ⟨5, 21, 42, some .rsr, true, .w16, .bf16, true⟩),
    (0x6355AB6E, .icvtf ⟨5, 21, 42, some .rsr, true, .w16, .bf16, true⟩),
    (0x6555A89A, .icvt ⟨5, 21, 42, true, false, .w32, .w16, true⟩)] : List (Nat × Instr)).all (fun x => decide (decode x.1 none = .ok x.2)) = true := by decide +kernel
/-- Cross-lane forms. -/
theorem test_words_lanes : ([
    (0x6955A886, .xred ⟨5, 21, 42, .fadd, 1, true⟩),
    (0x6B55AA3A, .xscan ⟨5, 21, 42, true, .minn, 2, true⟩),
    (0x6D55A802, .bcast ⟨5, 21, 42, true⟩),
    (0x6D55A812, .getl ⟨5, 21, 42, true⟩),
    (0x6D460C20, .voteAny ⟨5, 6, 3⟩),
    (0x6D460C30, .voteAll ⟨5, 6, 3⟩),
    (0x6D550C40, .voteCnt ⟨5, 21, 3⟩)] : List (Nat × Instr)).all (fun x => decide (decode x.1 none = .ok x.2)) = true := by decide +kernel
/-- LM: pol 2, sz 1; LA: aop 14. -/
theorem test_words_memory : ([
    (0x6F55AB39, .ld ⟨5, 21, 42, 51, .own, .w16⟩),
    (0x7155AB39, .lds ⟨5, 21, 42, 51, .own, .w16⟩),
    (0x7355AB39, .st ⟨5, 21, 42, 51, .own, .w16⟩),
    (0x7555AB39, .stm ⟨5, 21, 42, 51, .own, .w16⟩),
    (0x7755AB3E, .atom32 ⟨5, 21, 42, 51, .decn⟩),
    (0x7955AB3E, .atom64 ⟨5, 21, 42, 51, .decn⟩)] : List (Nat × Instr)).all (fun x => decide (decode x.1 none = .ok x.2)) = true := by decide +kernel
/-- Synchronisation and system forms. -/
theorem test_words_system : ([
    (0x80000000, .nop),
    (0xCD400046, .fence 5 .pod .release true),
    (0xCF4AD500, .barArr ⟨5, 21, some 42⟩),
    (0xCF5A8000, .barWait 5 21),
    (0xCF6AD500, .barSync ⟨5, 21, some 42⟩),
    (0xCF700000, .barGang 5),
    (0xD1456ACC, .cachePub ⟨5, 21, 42, 51⟩),
    (0xD1556ACC, .cacheInvl ⟨5, 21, 42, 51⟩),
    (0xD1656ACC, .cacheDrop ⟨5, 21, 42, 51⟩),
    (0xD1756ACC, .cachePref ⟨5, 21, 42, 51⟩),
    (0xD3600000, .btag 5 2),
    (0xD5558000, .bclose 5 21 2),
    (0xD75503C0, .getc 5 21 .arminfo),
    (0xD96A02C0, .setc 5 42 .trapvec),
    (0xDB55AB37, .hnarrow ⟨5, 21, 42, 51⟩ 7),
    (0xDD55A807, .palq ⟨5, 21, 42⟩ .format),
    (0xDF40C0D7, .trap 5 0xC0D7),
    (0xE0000000, .tret),
    (0xE1000000, .tretReplay)] : List (Nat × Instr)).all (fun x => decide (decode x.1 none = .ok x.2)) = true := by decide +kernel
/-- UR: qg 5, gd 21, ga 42, gb 51, fn. -/
theorem test_words_uniform : ([
    (0x8355AB30, .gadd ⟨5, 21, 42, 51⟩),
    (0x8555AB30, .gsub ⟨5, 21, 42, 51⟩),
    (0x8755AB30, .gmul ⟨5, 21, 42, 51⟩),
    (0x8955AB30, .gmin ⟨5, 21, 42, 51⟩),
    (0x8B55AB30, .gmax ⟨5, 21, 42, 51⟩),
    (0x8D55AB30, .gminn ⟨5, 21, 42, 51⟩),
    (0x8F55AB30, .gmaxn ⟨5, 21, 42, 51⟩),
    (0x9155AB30, .gand ⟨5, 21, 42, 51⟩),
    (0x9355AB30, .gor ⟨5, 21, 42, 51⟩),
    (0x9555AB30, .gxor ⟨5, 21, 42, 51⟩),
    (0x9755AB30, .gshl ⟨5, 21, 42, 51⟩),
    (0x9955AB30, .gshr ⟨5, 21, 42, 51⟩),
    (0x9B55AB30, .gsar ⟨5, 21, 42, 51⟩),
    (0x9D55AB30, .gmulh ⟨5, 21, 42, 51⟩),
    (0x9D55AB31, .gmulhn ⟨5, 21, 42, 51⟩),
    (0x9D55AB32, .gdiv ⟨5, 21, 42, 51⟩),
    (0x9D55AB33, .gdivn ⟨5, 21, 42, 51⟩),
    (0x9D55AB34, .grem ⟨5, 21, 42, 51⟩),
    (0x9D55AB35, .gremn ⟨5, 21, 42, 51⟩),
    (0x9D55A806, .gpopc ⟨5, 21, 42⟩),
    (0x9D55A807, .gclz ⟨5, 21, 42⟩),
    (0x9D55A808, .gctz ⟨5, 21, 42⟩),
    (0x9D55A809, .gnot ⟨5, 21, 42⟩),
    (0x9D55A80A, .gneg ⟨5, 21, 42⟩),
    (0xE355AB30, .dlaunch ⟨5, 21, 42, 51⟩)] : List (Nat × Instr)).all (fun x => decide (decode x.1 none = .ok x.2)) = true := by decide +kernel
/-- UI. -/
theorem test_words_uniform_immediate : ([
    (0x9F55AAC7, .gaddi ⟨5, 21, 42, 0x2C7⟩),
    (0xA155AAC7, .gandi ⟨5, 21, 42, 0x2C7⟩),
    (0xA355AAC7, .gori ⟨5, 21, 42, 0x2C7⟩),
    (0xA555AAC7, .gxori ⟨5, 21, 42, 0x2C7⟩),
    (0xA755A835, .gshli ⟨5, 21, 42, 53⟩),
    (0xA955A835, .gshri ⟨5, 21, 42, 53⟩),
    (0xAB5502C7, .gmovi ⟨5, 21, 0x2C7⟩),
    (0xAD5502C7, .gmovh ⟨5, 21, 0x2C7⟩)] : List (Nat × Instr)).all (fun x => decide (decode x.1 none = .ok x.2)) = true := by decide +kernel
/-- UQ, UC and GSEL. -/
theorem test_words_uniform_predicates : ([
    (0xAF5EAB33, .gcmp ⟨5, 3, .tst, 42, 51, .xor⟩),
    (0xB15E2000, .qlogPand ⟨5, 3, 6, 1⟩),
    (0xB15E2001, .qlogPor ⟨5, 3, 6, 1⟩),
    (0xB15E2002, .qlogPxor ⟨5, 3, 6, 1⟩),
    (0xB15E2003, .qlogPandn ⟨5, 3, 6, 1⟩),
    (0xB15E0004, .qlogPnot 5 3 6),
    (0xB1580005, .qlogPset 5 3),
    (0xB1580006, .qlogPclr 5 3),
    (0xB355AB3E, .gsel ⟨5, 21, 42, 51, 6, true⟩)] : List (Nat × Instr)).all (fun x => decide (decode x.1 none = .ok x.2)) = true := by decide +kernel
/-- UB, BD, JS, UL and the other control flow. -/
theorem test_words_flow : ([
    (0xB562C0D7, .bra 5 true 0x2C0D7),
    (0xB75EC0D7, .brd 5 3 true 0x2C0D7),
    (0xB95AC0D7, .jset 5 3 0x2C0D7),
    (0xB95EC0D7, .jsetAdd 5 3 0x2C0D7),
    (0xBB400000, .join 5),
    (0xBD55C0D7, .call 5 21 0xC0D7),
    (0xBF40A800, .ret 5 42),
    (0xC02AC0D7, .loop 42 0xC0D7),
    (0xC3400000, .lbrk 5),
    (0xC532C0D7, .brw 2 1 true 0x2C0D7),
    (0xC7600000, .exit 5 true),
    (0xC9400000, .pause 5),
    (0xC955AA00, .pauseWatch 5 21 42),
    (0xCB40A800, .brx 5 42)] : List (Nat × Instr)).all (fun x => decide (decode x.1 none = .ok x.2)) = true := by decide +kernel
/-- Engine commands: UK with qg 5, and their parameter words. -/
theorem test_words_commands : ([
    (0xE74255A8, 0x58F0F3C5, .shape ⟨5, 9, 21, 42, 0x2C7, 0x10F3, 0xC5⟩),
    (0xE9425500, 0x00000000, .texpect ⟨5, 9, 21⟩),
    (0xE9424001, 0x00000000, .tfree ⟨5, 9⟩),
    (0xE9425502, 0x00000000, .tstate ⟨5, 9, 21⟩),
    (0xEB602ACC, 0x56C00D07, .cpy ⟨5, 2, 42, 51, some 21, 0xC00D07⟩),
    (0xEB5A80CD, 0x00C00D07, .fill ⟨5, 1, 42, 51, none, 0xC00D07⟩),
    (0xED4AB334, 0x56004000, .cpyv ⟨5, 42, 51, 13, some 21, 0x4000⟩),
    (0xEF7AB334, 0x560EC0D7, .gath ⟨5, 3, 42, 51, 13, some 21, true, 6, 0xC0D7⟩),
    (0xEF7AB335, 0x560EC0D7, .scat ⟨5, 3, 42, 51, 13, some 21, true, 6, 0xC0D7⟩),
    (0xF1508938, 0x0000000D, .mma ⟨5, 1, 2, 9, 14, 0, 13⟩),
    (0xF1508939, 0x0000002D, .mmaH ⟨5, 1, 2, 9, 14, 2, 13⟩),
    (0xF34089A8, 0x0000001A, .mepi ⟨5, 2, 9, 42, 0, true, 2, true, false⟩),
    (0xF34089A9, 0x00000B1A, .mepiT2 ⟨5, 2, 9, 42, 11, true, 2, true, false⟩),
    (0xF34089AA, 0x0000001A, .mepiSend ⟨5, 2, 9, 42, 0, true, 2, true, false⟩),
    (0xF34089AB, 0x00000B1A, .mepiT2Send ⟨5, 2, 9, 42, 11, true, 2, true, false⟩),
    (0xF540AA00, 0x00000003, .mzero ⟨5, 2, some 42, true⟩),
    (0xF54A8001, 0x00000000, .mfence ⟨5, 42⟩),
    (0xF5402A02, 0x00000000, .mwait ⟨5, 42⟩),
    (0xF54A82CF, 0x00000000, .mget ⟨5, 42, 2, 51⟩),
    (0xF7626A00, 0x56000000, .collAr ⟨5, 2, 9, 42, some 21, 0⟩),
    (0xF7626A01, 0x56000000, .collRs ⟨5, 2, 9, 42, some 21, 0⟩),
    (0xF7626A02, 0x56000000, .collAg ⟨5, 2, 9, 42, some 21, 0⟩),
    (0xF7626A03, 0x560002C7, .collBc ⟨5, 2, 9, 42, some 21, 711⟩),
    (0xF9602A00, 0x0000013B, .easel ⟨5, 2, 42, none, 9, 13, true⟩),
    (0xFB40AACC, 0x00000006, .bind ⟨5, 2, 42, 51, true, 2⟩),
    (0xFB408001, 0x00000000, .unbind ⟨5, 2⟩)] : List (Nat × Nat × Instr)).all (fun x => decide (decode x.1 (some x.2.1) = .ok x.2.2)) = true := by
  decide +kernel
/-- Prefixes: ORD of a scope before each access, EXT of either side. -/
theorem test_words_prefixes : ([
    (0x7AC00000, 0x6F55AB39, .ord .acquire .pod (.ld ⟨5, 21, 42, 51, .own, .w16⟩)),
    (0x7AD00000, 0x7155AB39, .ord .acquire .system (.lds ⟨5, 21, 42, 51, .own, .w16⟩)),
    (0x7B200000, 0x7355AB39, .ord .release .gang (.st ⟨5, 21, 42, 51, .own, .w16⟩)),
    (0x7BB00000, 0x7755AB3E, .ord .acqRel .device (.atom32 ⟨5, 21, 42, 51, .decn⟩)),
    (0x7D2C0D07, 0x2D55AAC7, .ext 0x12C0D07 (.addi ⟨5, 21, 42, 0x2C7⟩)),
    (0xFD2C0D07, 0x9F55AAC7, .ext 0x12C0D07 (.gaddi ⟨5, 21, 42, 0x2C7⟩))]
    : List (Nat × Nat × Instr)).all (fun x => decide (decode x.1 (some x.2.1) = .ok x.2.2)) = true := by decide +kernel
/-- Words that the spec's listings print, with what they stand for (files 02 to 07, 11, 19, 21 of the spec). -/
theorem test_words_listed : ([
    (0x72030843, .st ⟨0, 3, 2, 4, .si, .w64⟩), (0x7009103D, .lds ⟨0, 9, 4, 3, .wt, .w16⟩), (0x7404086F, .stm ⟨0, 4, 2, 6, .wt, .w64⟩),
    (0x6C010050, .laneix 0 1), (0x36020402, .shli ⟨0, 2, 1, 2⟩), (0xAA010000, .gmovi ⟨0, 1, 0⟩), (0x3C060001, .movi ⟨0, 6, 1⟩),
    (0xB800000E, .jset 0 0 14), (0x3E0E0C34, .cmp ⟨0, 1, .tst, 3, 3, .w32, .set⟩), (0xB64C0009, .brd 1 1 true 9), (0xB6900008, .brd 2 2 false 8),
    (0x2A001876, .sel ⟨0, 0, 6, 7, 3, false⟩), (0xB4000004, .bra 0 false 4), (0x6C050040, .voteCnt ⟨0, 5, 0⟩), (0xC6000000, .exit 0 false),
    (0xBA800000, .join 2), (0x5206105C, .fdot ⟨0, 6, 4, 5, true, false, false⟩), (0x40121464, .fcmp ⟨0, 2, .lt, 5, 6, .f32, .set⟩),
    (0xCC00000E, .fence 0 .team .sc true), (0xCE008B00, .barArr ⟨0, 1, some 5⟩), (0xCE218000, .barSync ⟨0, 3, none⟩),
    (0xD0008518, .cachePub ⟨0, 2, 5, 6⟩), (0xC8031200, .pauseWatch 0 3 4), (0xDA090842, .hnarrow ⟨0, 9, 2, 4⟩ 2),
    (0xD6060440, .getc 0 6 .tstat), (0xE1000000, .tretReplay)] : List (Nat × Instr)).all (fun x => decide (decode x.1 none = .ok x.2)) = true := by
  decide +kernel
/-- Words that stand for nothing: all zero and ones, a zero field set, a reserved selector, LDS of 64 bits, BRD of p0, LOOP of no words. -/
theorem test_words_refused : ([0, 0x7FFFFFFF, 0xFFFFFFFF, 0x28000001, 0x28000070, 0x70000003, 0xB6000000, 0xC0010000, 0xB4200000, 0x80000001]
    : List Nat).all (fun w => match decode w (some 0) with | .ok _ => false | .error _ => true) = true := by decide +kernel
/-- R26, R33: EXT before a word of the other side, ORD before LD with a release, a CPYV of 16,385 units. -/
theorem test_words_pairs_refused :
    decode 0x7C000000 (some 0x9F55AAC7) = .error (.prefixBad 0x7C0000009F55AAC7) ∧
      decode 0x7B200000 (some 0x6F55AB39) = .error (.illop 0x7B2000006F55AB39) ∧
      (match decode 0xED4AB334 (some 0x4001) with | .error (.illop _) => true | _ => false) = true := by decide +kernel

/-! ### Single steps, with results worked out in the spec -/

/-- The state an outcome answers. -/
def stateOf (o : Host.Outcome State Fault Refusal) : State :=
  match o with
  | .next s => s
  | _ => State.reset
/-- The one team of a state. -/
def teamOf (s : State) : Team := (s.team? 0).getD wTeam
/-- Lanes with the given registers, every predicate register with the lanes of `p` in p1 to p7. -/
def wLanes (vs : List (Store Word)) (p : Nat) : Team :=
  { Team.start ⟨0, 0, 0, 0, 0, 0, vs.length, 64, 64, 32⟩ 0x100 0x8000 5 0 with
    lanes := vs.zipIdx.map fun x => { Lane.init with v := x.1, p := if p.testBit x.2 then 255 else 0 }, g := [(1, 6), (3, 0)] }
/-- Register `r` of the lanes after one instruction. -/
def lanesAfter (i : Instr) (t : Team) (r : Nat) : List Word := (teamOf (stateOf (exec i (wState t)))).lanes.map (·.reg r)
/-- The lanes' flags after it. -/
def flagsAfter (i : Instr) (t : Team) : List (BitVec 8) := (teamOf (stateOf (exec i (wState t)))).lanes.map (·.fpflags)

/-- R48: `?p2 DIVN.32` of a lane (100 / 8, 7 / 0) beside one whose guard is false. -/
theorem test_divn : lanesAfter (.divn ⟨2, 6, 4, 5, .w32⟩) (wLanes [[(4, 0x0000000700000064), (5, 8)], [(4, 9), (5, 3)]] 1) 6
    = [0xFFFFFFFF0000000C, 0] := by decide +kernel
/-- R49: bits [11:4] of 0xABCD, sign-extended. -/
theorem test_bfx : lanesAfter (.bfx ⟨0, 1, 2, 3, .w32⟩) (wLanes [[(2, 0xABCD), (3, 0x104)]] 0) 1 = [0xFFFFFFBC] := by decide +kernel
/-- R199: 300 and -256 to 8 bits, saturated or not. -/
theorem test_icvt : lanesAfter (.icvt ⟨0, 4, 3, true, true, .w32, .w8, false⟩) (wLanes [[(3, 0xFFFFFF000000012C)]] 0) 4 = [0x807F] ∧
    lanesAfter (.icvt ⟨0, 4, 3, false, true, .w32, .w8, false⟩) (wLanes [[(3, 0xFFFFFF000000012C)]] 0) 4 = [0x002C] := by decide +kernel
/-- R201: 0.375 and -0.59375 to SM4 with bound the format's and 0.5; the flags NX, and NX with CL. -/
theorem test_fcvtn :
    let t := fun v6 => wLanes [[(5, 0xBF1800003EC00000), (6, v6)]] 0
    lanesAfter (.fcvtn ⟨0, 7, 5, 6, .sm4⟩) (t 0x0000007F00000000) 7 = [0x10D03] ∧
      lanesAfter (.fcvtn ⟨0, 7, 5, 6, .sm4⟩) (t 0x0000007F3F000000) 7 = [0x10C03] := by decide +kernel
/-- R203: 01 + 10 does not carry, 01 + 11 does. -/
theorem test_fcvtr : lanesAfter (.fcvtr ⟨0, 1, 2, 3, true, false, false⟩) (wLanes [[(2, 0xBF8140003F814000), (3, 0x0200000030000002)]] 0) 1
    = [0xBF823F81] := by decide +kernel
/-- R204, R205: SHUP by one of lanes 1, 2, 4, 5 and 7. -/
theorem test_shup : lanesAfter (.shup ⟨1, 5, 3, 4, .w64⟩)
    (wLanes ((List.range 8).map fun L => [(3, BitVec.ofNat 64 (100 + L)), (4, 1)]) 0xB6) 5 = [0, 0, 101, 0, 102, 104, 0, 105] := by decide +kernel
/-- R206: (2^24 + 1) + (1 + 1), each sum rounded; NX in lane 0. -/
theorem test_xred :
    let t := wLanes [[(2, 0x3F8000004B800000)], [(2, 0x3F8000003F800000)]] 0
    (teamOf (stateOf (exec (.xred ⟨0, 4, 2, .fadd, 1, false⟩) (wState t)))).greg 4 = 0x4B800001 ∧
      lanesAfter (.xscan ⟨0, 3, 2, false, .fadd, 1, false⟩) t 3 = [0x4B8000004B800000, 0x4B8000004B800000] := by decide +kernel
/-- R52: signed 32-bit less-than of both sub-elements sets the predicate from sub-element 0. -/
theorem test_cmp : (teamOf (stateOf (exec (.cmp ⟨0, 1, .lt, 2, 3, .w32, .set⟩)
    (wState (wLanes [[(2, 0xFFFFFFFF), (3, 1)], [(2, 1), (3, 0xFFFFFFFF)]] 0))))).lanes.map (·.pred 1) = [true, false] := by decide +kernel
/-- R70: SRSEED 0 and G = 1: the generator's start and its first draw. -/
theorem test_draw : seedGen 0 1 = 0x9E3779B97F4A7C15 ∧ draw (seedGen 0 1) = 0xDC1B77AE0BF34DAD := by decide +kernel
/-- R66: a count of 0 skips the body; one of 4 enters it. -/
theorem test_loop :
    ((teamOf (stateOf (exec (.loop 3 2) (wState (wLanes [[]] 0))))).armT.map fun a => (a.pc, a.loops.length)) = some (0x10C, 0) ∧
      ((teamOf (stateOf (exec (.loop 1 2) (wState (wLanes [[]] 0))))).armT.map fun a => (a.pc, a.loops.length)) = some (0x104, 1) := by
  decide +kernel
/-- R61: BRD with p1 true in lanes 0 to 5 of 16: two arms, pending 0xFFFF in j2. -/
theorem test_brd :
    let t := teamOf (stateOf (exec (.brd 1 2 false 8) (wState (wLanes (List.replicate 16 []) 0x3F))))
    (t.armT.map (·.active), t.armF.map (·.active), (t.join 2).pending) = (some 0x3F, some 0xFFC0, 0xFFFF) := by decide +kernel
/-- R62: the F arm parks and is gone; the T arm's JOIN completes and goes on with all lanes. -/
theorem test_join :
    let t := { wLanes (List.replicate 16 []) 0x3F with
      armT := some (Arm.start 0x200 0x3F)
      joins := [(2, ⟨some 0x200, 0x3F, 0, 0xFFC0, false, 1⟩)] }
    ((teamOf (stateOf (exec (.join 2) (wState t)))).armT.map fun a => (a.pc, a.active)) = some (0x204, 0xFFFF) := by decide +kernel
/-- R111: lanes 0, 1 and 3 add 5, 1 and 7 to a scratchpad word; its bank gets the three in lane order. -/
theorem test_atom32 :
    let t := { wMem (wEnt 2) with lanes := ([(5, true), (1, true), (3, false), (7, true)] : List (Nat × Bool)).map fun x =>
      { Lane.init with v := [(2, 64), (4, BitVec.ofNat 64 x.1)], p := if x.2 then 2 else 0 } }
    ((stateOf (exec (.atom32 ⟨1, 4, 2, 5, .add⟩) ((wMemState (wEnt 2)).setTeam 0 t))).coh.net.map fun m =>
      match m.body with
      | .req (.atomic .add false _ b ..) => b
      | _ => 0) = [5, 1, 7] := by decide +kernel
/-- R73: of four lanes one offset is not a multiple of 4, or lies past the limit: ALIGN_ACCESS and BOUNDS with its bit in TRAPINFO. -/
theorem test_load_checks :
    let t := fun (o : Word) => { wMem (wEnt 5) with lanes := ([0, 8, o, 16] : List Word).map fun x => { Lane.init with v := [(6, x)] } }
    let r := fun o => let x := (teamOf (stateOf (exec (.ld ⟨0, 8, 6, 5, .wt, .w32⟩) ((wMemState (wEnt 5)).setTeam 0 (t o))))).trap
      (x.code, x.info)
    r 0x102 = (0x06, 4) ∧ r 0x1000 = (0x07, 4) := by decide +kernel
/-- R59, R309: a TRAP saves its own address and its number; a TRET goes on after it. -/
theorem test_trap :
    let t := teamOf (stateOf (exec (.trap 0 0x42) (wState (wLanes [[]] 0))))
    (t.trap.pc, t.trap.code, t.trap.info, t.armT.map fun a => (a.pc, a.inHandler)) = (0x100, 0x20, 0x42, some (0x8000, true)) := by
  decide +kernel

end Sys2Proof.Machine
end

section
/-! Arithmetic on one element: each of the model's operations on numbers as one on bit vectors of the element's width (R47 to R50). -/

namespace Sys2Proof.Machine

/-! ### Numbers and bit vectors of one width -/

theorem bits_pos (t : IW) : 0 < t.bits := by cases t <;> decide

@[simp] theorem signedOf_toNat {w : Nat} (a : BitVec w) : signedOf w a.toNat = a.toInt := by
  rcases w with _ | w
  · simp [signedOf, BitVec.of_length_zero]
  · simp only [signedOf, BitVec.toInt_eq_toNat_cond, Nat.add_sub_cancel, Nat.pow_succ]
    congr 1
    simp; omega

theorem wrapTo_eq_toNat_ofInt (w : Nat) (x : Int) : wrapTo w x = (BitVec.ofInt w x).toNat := by
  rw [wrapTo, BitVec.toNat_ofInt]

@[simp] theorem ofNat_wrapTo (w : Nat) (x : Int) : BitVec.ofNat w (wrapTo w x) = BitVec.ofInt w x := by
  rw [wrapTo_eq_toNat_ofInt, BitVec.ofNat_toNat, BitVec.setWidth_eq]

theorem ofNat_allOnes (w : Nat) : BitVec.ofNat w (2 ^ w - 1) = BitVec.allOnes w := by
  apply BitVec.eq_of_toNat_eq
  simp [Nat.mod_eq_of_lt]

/-! ### R47 -/

section
variable {w : Nat} (a b d : BitVec w)

theorem ofNat_iadd : BitVec.ofNat w (iadd w a.toNat b.toNat) = a + b := by
  apply BitVec.eq_of_toNat_eq; simp [iadd]

theorem ofNat_isub : BitVec.ofNat w (isub w a.toNat b.toNat) = a - b := by
  apply BitVec.eq_of_toNat_eq
  have := b.isLt
  rw [BitVec.toNat_sub, BitVec.toNat_ofNat, isub, Nat.mod_mod]
  congr 1; omega

theorem ofNat_imul : BitVec.ofNat w (imul w a.toNat b.toNat) = a * b := by
  apply BitVec.eq_of_toNat_eq; simp [imul]

theorem ofNat_imad : BitVec.ofNat w (imad w a.toNat b.toNat d.toNat) = a * b + d := by
  apply BitVec.eq_of_toNat_eq; simp [imad]

theorem ofNat_imin : BitVec.ofNat w (imin w a.toNat b.toNat) = if a.toInt ≤ b.toInt then a else b := by
  simp only [imin, signedOf_toNat]; split <;> simp

theorem ofNat_imax : BitVec.ofNat w (imax w a.toNat b.toNat) = if a.toInt ≤ b.toInt then b else a := by
  simp only [imax, signedOf_toNat]; split <;> simp

theorem ofNat_iminn : BitVec.ofNat w (iminn a.toNat b.toNat) = if a.toNat ≤ b.toNat then a else b := by
  simp only [iminn]; split <;> simp

theorem ofNat_imaxn : BitVec.ofNat w (imaxn a.toNat b.toNat) = if a.toNat ≤ b.toNat then b else a := by
  simp only [imaxn]; split <;> simp

theorem ofNat_ishl (n : Nat) : BitVec.ofNat w (ishl w a.toNat n) = a <<< (n % w) := by
  apply BitVec.eq_of_toNat_eq; simp [ishl, Nat.shiftLeft_eq]

theorem ofNat_shiftRight (n : Nat) : BitVec.ofNat w (a.toNat / 2 ^ n) = a >>> n := by
  apply BitVec.eq_of_toNat_eq
  rw [BitVec.toNat_ushiftRight, Nat.shiftRight_eq_div_pow, BitVec.toNat_ofNat,
    Nat.mod_eq_of_lt (Nat.lt_of_le_of_lt (Nat.div_le_self _ _) a.isLt)]

theorem ofNat_ishr (n : Nat) : BitVec.ofNat w (ishr w a.toNat n) = a >>> (n % w) :=
  ofNat_shiftRight a _

/-- An arithmetic shift is the floor of a quotient. -/
theorem ofInt_sshiftRight (n : Nat) : BitVec.ofInt w (a.toInt / ((2 ^ n : Nat) : Int)) = a.sshiftRight n := by
  rw [← Int.shiftRight_eq_div_pow, ← BitVec.toInt_sshiftRight, BitVec.ofInt_toInt]

theorem ofNat_isar (n : Nat) : BitVec.ofNat w (isar w a.toNat n) = a.sshiftRight (n % w) := by
  rw [isar, ofNat_wrapTo, signedOf_toNat, ofInt_sshiftRight]

/-! ### R48 -/

theorem ofNat_imulh : BitVec.ofNat w (imulh w a.toNat b.toNat) = BitVec.ofInt w (a.toInt * b.toInt / 2 ^ w) := by
  rw [imulh, ofNat_wrapTo, signedOf_toNat, signedOf_toNat]; norm_cast

theorem toNat_eq_zero_iff : b.toNat = 0 ↔ b = 0 := by
  rw [← BitVec.toNat_inj]; simp

theorem ofNat_idiv : BitVec.ofNat w (idiv w a.toNat b.toNat) = if b = 0 then BitVec.allOnes w else a.sdiv b := by
  simp only [idiv, toNat_eq_zero_iff]
  split
  · exact ofNat_allOnes w
  · rw [ofNat_wrapTo, signedOf_toNat, signedOf_toNat]
    apply BitVec.eq_of_toInt_eq
    rw [BitVec.toInt_sdiv, BitVec.toInt_ofInt]

theorem ofNat_idivn : BitVec.ofNat w (idivn w a.toNat b.toNat) = if b = 0 then BitVec.allOnes w else a / b := by
  simp only [idivn, toNat_eq_zero_iff]
  split
  · exact ofNat_allOnes w
  · apply BitVec.eq_of_toNat_eq
    rw [BitVec.toNat_udiv, BitVec.toNat_ofNat, Nat.mod_eq_of_lt (Nat.lt_of_le_of_lt (Nat.div_le_self _ _) a.isLt)]

theorem ofNat_irem : BitVec.ofNat w (irem w a.toNat b.toNat) = if b = 0 then a else a.srem b := by
  simp only [irem, toNat_eq_zero_iff]
  split
  · simp
  · rw [ofNat_wrapTo, signedOf_toNat, signedOf_toNat, ← BitVec.toInt_srem, BitVec.ofInt_toInt]

theorem ofNat_iremn : BitVec.ofNat w (iremn a.toNat b.toNat) = if b = 0 then a else a % b := by
  simp only [iremn, toNat_eq_zero_iff]
  split
  · simp
  · apply BitVec.eq_of_toNat_eq
    rw [BitVec.toNat_umod, BitVec.toNat_ofNat, Nat.mod_eq_of_lt (Nat.lt_of_le_of_lt (Nat.mod_le _ _) a.isLt)]
end


/-- The least signed number of w bits is the greatest plus one. -/
theorem ofInt_neg_half (n : Nat) : BitVec.ofInt (n + 1) (-2 ^ n) = BitVec.ofNat (n + 1) (2 ^ n) := by
  rw [show (-2 ^ n : Int) = ((2 ^ n : Nat) : Int) - ((2 ^ (n + 1) : Nat) : Int) by push_cast; ring]
  apply BitVec.eq_of_toNat_eq
  rw [BitVec.toNat_ofInt, Int.sub_emod_right, ← Int.natCast_emod, Int.toNat_natCast, BitVec.toNat_ofNat]

theorem ofNat_satS (w : Nat) (hw : 0 < w) (x : Int) : BitVec.ofNat w (satS w x) = clampS w x := by
  obtain ⟨n, rfl⟩ : ∃ n, w = n + 1 := ⟨w - 1, by omega⟩
  have hp : (0 : Int) < 2 ^ n := by positivity
  simp only [satS, clampS, Nat.add_sub_cancel]
  push_cast
  split
  · rw [min_eq_right (by omega), max_eq_left (by omega), ofInt_neg_half]
  · split
    · rw [min_eq_left (by omega), max_eq_right (by omega), ← BitVec.ofInt_natCast, Nat.cast_sub Nat.one_le_two_pow]
      norm_cast
    · rw [min_eq_right (by omega), max_eq_right (by omega), ofNat_wrapTo]

theorem ofNat_satU (w : Nat) (x : Int) : BitVec.ofNat w (satU w x) = clampU w x := by
  have hp : (0 : Int) < 2 ^ w := by positivity
  simp only [satU, clampU, ← BitVec.ofInt_natCast]
  push_cast
  split
  · rw [min_eq_right (by omega), max_eq_left (by omega)]
  · split
    · rw [min_eq_left (by omega), max_eq_right (by omega), Nat.cast_sub Nat.one_le_two_pow]
      norm_cast
    · rw [min_eq_right (by omega), max_eq_right (by omega), Int.toNat_of_nonneg (by omega)]

end Sys2Proof.Machine
end

section
/-! Lane arithmetic: the two-source forms and MAD (R47, R48). -/

namespace Sys2Proof.Machine

theorem ofNat_iadds {w : Nat} (hw : 0 < w) (a b : BitVec w) :
    BitVec.ofNat w (iadds w a.toNat b.toNat) = clampS w (a.toInt + b.toInt) := by
  rw [iadds, ofNat_satS w hw, signedOf_toNat, signedOf_toNat]

theorem ofNat_isubs {w : Nat} (hw : 0 < w) (a b : BitVec w) :
    BitVec.ofNat w (isubs w a.toNat b.toNat) = clampS w (a.toInt - b.toInt) := by
  rw [isubs, ofNat_satS w hw, signedOf_toNat, signedOf_toNat]

theorem ofNat_iaddsn {w : Nat} (a b : BitVec w) :
    BitVec.ofNat w (iaddsn w a.toNat b.toNat) = clampU w (a.toNat + b.toNat) := ofNat_satU w _

theorem ofNat_isubsn {w : Nat} (a b : BitVec w) :
    BitVec.ofNat w (isubsn w a.toNat b.toNat) = clampU w ((a.toNat : Int) - b.toNat) := ofNat_satU w _

theorem part_and (w : Nat) (x y : Word) (e : Nat) : part w (x &&& y) e = part w x e &&& part w y e :=
  BitVec.extractLsb'_and

theorem part_or (w : Nat) (x y : Word) (e : Nat) : part w (x ||| y) e = part w x e ||| part w y e :=
  BitVec.extractLsb'_or

theorem part_xor (w : Nat) (x y : Word) (e : Nat) : part w (x ^^^ y) e = part w x e ^^^ part w y e :=
  BitVec.extractLsb'_xor

theorem part_not (w : Nat) (x : Word) (e : Nat) (he : e < 64 / w) : part w (~~~x) e = ~~~part w x e := by
  have hb : w * e + w ≤ 64 := calc
    w * e + w = w * (e + 1) := by ring
    _ ≤ w * (64 / w) := Nat.mul_le_mul_left w he
    _ ≤ 64 := Nat.mul_div_le 64 w
  ext i hi
  simp [part, show w * e + i < 64 by omega]

theorem part_andn (w : Nat) (x y : Word) (e : Nat) (he : e < 64 / w) :
    part w (x &&& ~~~y) e = part w x e &&& ~~~part w y e := by
  rw [part_and, part_not w y e he]

/-- A two-source form whose operation is one on each element. -/
theorem laneElements_write (i : Instr) (k : Issue) (pg : BitVec 3) (vd va vb : BitVec 6) (ta tb : Bool) (w : Nat)
    (g : Nat → Nat → Nat) (r : BitVec w → BitVec w → BitVec w)
    (hg : ∀ a b : BitVec w, BitVec.ofNat w (g a.toNat b.toNat) = r a b)
    (hb : unitBytes i = 4) (he : exec i k.s = laneBin i pg vd va vb ta tb (ew2 w g) k.s)
    (h : k.Ready (use2 pg vd va vb ta tb)) :
    LaneWrites k (use2 pg vd va vb ta tb) i vd.toNat 4 w (fun L e =>
      r (part w (k.src L va.toNat) e) (part w (k.src L vb.toNat) e)) :=
  laneBin_writes i k pg vd va vb ta tb (ew2 w g) 4 w _ hb he h (fun _ e he => part_ew2 w g r hg _ _ e he)

/-- A two-source form whose operation on whole lanes is the same one on each element. -/
theorem laneWords_write (i : Instr) (k : Issue) (pg : BitVec 3) (vd va vb : BitVec 6) (ta tb : Bool) (w : Nat)
    (op : Word → Word → Word) (r : BitVec w → BitVec w → BitVec w)
    (ho : ∀ x y e, e < 64 / w → part w (op x y) e = r (part w x e) (part w y e))
    (hb : unitBytes i = 4) (he : exec i k.s = laneBin i pg vd va vb ta tb op k.s) (h : k.Ready (use2 pg vd va vb ta tb)) :
    LaneWrites k (use2 pg vd va vb ta tb) i vd.toNat 4 w (fun L e =>
      r (part w (k.src L va.toNat) e) (part w (k.src L vb.toNat) e)) :=
  laneBin_writes i k pg vd va vb ta tb op 4 w _ hb he h (fun _ => ho _ _)

/-- A form that also reads vd waits while vd is empty (R42). -/
theorem laneTer_waits (i : Instr) (k : Issue) (pg : BitVec 3) (vd va vb : BitVec 6) (ta tb : Bool)
    (op : Word → Word → Word → Word) (hexec : exec i k.s = laneTer i pg vd va vb ta tb op k.s) (hc : k.Current)
    (hi : (use3 pg vd va vb ta tb).illReg k.t = false) (hm : k.t.vMark vd.toNat = .empty)
    (he : (use3 pg vd va vb ta tb).emptyTrap k.t = none) : exec i k.s = .next k.s.blocked := by
  rw [hexec, laneTer]
  exact issueUnit_waits i (use3 pg vd va vb ta tb) k _ hc hi he (by simp [Use.waits, use3, hm])

/-- Settles O1: each form is an operation on elements, MAD one that reads vd as well; an empty vd makes it wait (R42). -/
theorem laneArithmeticWritesEveryElement : Obligations.LaneArithmeticWritesEveryElement := by
  intro k o
  refine ⟨fun p hp h => ?_, fun h => ?_, fun hc hi hm he => ?_⟩
  · have elements := fun (i : Instr) => laneElements_write i k o.pg o.vd o.va o.vb o.ta o.tb o.ty.bits
    have words := fun (i : Instr) => laneWords_write i k o.pg o.vd o.va o.vb o.ta o.tb o.ty.bits
    simp only [laneTwoSource, List.mem_cons, List.not_mem_nil, or_false] at hp
    rcases hp with rfl | rfl | rfl | rfl | rfl | rfl | rfl | rfl | rfl | rfl | rfl | rfl | rfl | rfl
    · exact elements (.add o) _ _ ofNat_iadd rfl rfl h
    · exact elements (.sub o) _ _ ofNat_isub rfl rfl h
    · exact elements (.mul o) _ _ ofNat_imul rfl rfl h
    · exact elements (.min o) _ _ ofNat_imin rfl rfl h
    · exact elements (.max o) _ _ ofNat_imax rfl rfl h
    · exact elements (.minn o) _ _ ofNat_iminn rfl rfl h
    · exact elements (.maxn o) _ _ ofNat_imaxn rfl rfl h
    · exact words (.and o) _ _ (fun x y e _ => part_and _ x y e) rfl rfl h
    · exact words (.or o) _ _ (fun x y e _ => part_or _ x y e) rfl rfl h
    · exact words (.xor o) _ _ (fun x y e _ => part_xor _ x y e) rfl rfl h
    · exact words (.andn o) _ _ (part_andn _) rfl rfl h
    · exact elements (.shl o) _ _ (fun a b => ofNat_ishl a b.toNat) rfl rfl h
    · exact elements (.shr o) _ _ (fun a b => ofNat_ishr a b.toNat) rfl rfl h
    · exact elements (.sar o) _ _ (fun a b => ofNat_isar a b.toNat) rfl rfl h
  · exact laneTer_writes (.mad o) k o.pg o.vd o.va o.vb o.ta o.tb _ 4 _ _ rfl rfl h
      (fun _ e he => part_ew3 _ _ _ ofNat_imad _ _ _ e he)
  · exact laneTer_waits (.mad o) k o.pg o.vd o.va o.vb o.ta o.tb _ rfl hc hi hm he

/-- Settles O2: each form is one operation on elements, a zero divisor and the bounds of a range among its cases. -/
theorem laneDivisionAndSaturationWriteEveryElement : Obligations.LaneDivisionAndSaturationWriteEveryElement := by
  intro k o p hp h
  have elements := fun (i : Instr) => laneElements_write i k o.pg o.vd o.va o.vb false false o.ty.bits
  simp only [laneFixed, List.mem_cons, List.not_mem_nil, or_false] at hp
  rcases hp with rfl | rfl | rfl | rfl | rfl | rfl | rfl | rfl | rfl | rfl
  · exact elements (.mulh o) _ _ ofNat_imulh rfl rfl h
  · exact elements (.mulhn o) _ _ (fun _ _ => rfl) rfl rfl h
  · exact elements (.div o) _ _ ofNat_idiv rfl rfl h
  · exact elements (.divn o) _ _ ofNat_idivn rfl rfl h
  · exact elements (.rem o) _ _ ofNat_irem rfl rfl h
  · exact elements (.remn o) _ _ ofNat_iremn rfl rfl h
  · exact elements (.adds o) _ _ (ofNat_iadds (bits_pos o.ty)) rfl rfl h
  · exact elements (.subs o) _ _ (ofNat_isubs (bits_pos o.ty)) rfl rfl h
  · exact elements (.addsn o) _ _ ofNat_iaddsn rfl rfl h
  · exact elements (.subsn o) _ _ ofNat_isubsn rfl rfl h

end Sys2Proof.Machine
end

section
/-! Bit fields and the choice of bytes (R49). -/

namespace Sys2Proof.Machine

/-! ### Fields of a number and of a bit vector -/

theorem testBit_bitsOf (x lo n i : Nat) : (bitsOf x lo n).testBit i = (decide (i < n) && x.testBit (lo + i)) := by
  rw [bitsOf, Nat.testBit_mod_two_pow, Nat.testBit_div_two_pow, Nat.add_comm]

theorem bfPos_eq {w : Nat} (b : BitVec w) : bfPos w b.toNat = fieldPos w b := by rw [bfPos, fieldPos]

/-- The model cuts a field off where it would pass the element's last bit; the statement takes a minimum. -/
theorem bfLen_eq {w : Nat} (b : BitVec w) : bfLen w b.toNat = fieldLen w b := by
  simp only [bfLen, fieldLen, bfPos_eq]
  generalize (if b.toNat / w % w = 0 then w else b.toNat / w % w) = n
  split <;> omega

theorem fieldPos_lt {w : Nat} (hw : 0 < w) (b : BitVec w) : fieldPos w b < w := Nat.mod_lt _ hw

theorem fieldPos_add_fieldLen_le {w : Nat} (hw : 0 < w) (b : BitVec w) : fieldPos w b + fieldLen w b ≤ w := by
  have := fieldPos_lt hw b
  simp only [fieldLen]
  omega

theorem fieldLen_pos {w : Nat} (hw : 0 < w) (b : BitVec w) : 0 < fieldLen w b := by
  have := fieldPos_lt hw b
  simp only [fieldLen]
  split <;> omega

theorem getLsbD_fieldMask {w : Nat} (b : BitVec w) (i : Nat) : (fieldMask w b).getLsbD i =
    (decide (i < w) && decide (fieldPos w b ≤ i) && decide (i < fieldPos w b + fieldLen w b)) := by
  simp only [fieldMask, BitVec.getLsbD_shiftLeft, BitVec.getLsbD_ofNat, Nat.testBit_two_pow_sub_one]
  grind

/-! ### R49 -/

section
variable {w : Nat} (a b d : BitVec w)

/-- The field's bits, from bit 0 on. -/
theorem testBit_ibfxn (i : Nat) : (ibfxn w a.toNat b.toNat).testBit i =
    (decide (i < fieldLen w b) && a.getLsbD (fieldPos w b + i)) := by
  rw [ibfxn, testBit_bitsOf, bfPos_eq, bfLen_eq, BitVec.testBit_toNat]

/-- The same bits, as the statement takes the field out. -/
theorem getLsbD_field (i : Nat) : ((a &&& fieldMask w b) >>> fieldPos w b).getLsbD i =
    (decide (i < fieldLen w b) && a.getLsbD (fieldPos w b + i)) := by
  have ha : a.getLsbD (fieldPos w b + i) = true → fieldPos w b + i < w := BitVec.lt_of_getLsbD
  simp only [BitVec.getLsbD_ushiftRight, BitVec.getLsbD_and, getLsbD_fieldMask]
  grind

theorem ofNat_ibfxn : BitVec.ofNat w (ibfxn w a.toNat b.toNat) = (a &&& fieldMask w b) >>> fieldPos w b := by
  apply BitVec.eq_of_getLsbD_eq
  intro i hi
  rw [getLsbD_field, BitVec.getLsbD_ofNat, testBit_ibfxn]
  simp [hi]

theorem ibfxn_lt : ibfxn w a.toNat b.toNat < 2 ^ fieldLen w b := by
  rw [ibfxn, bfLen_eq]; exact Nat.mod_lt _ (Nat.two_pow_pos _)

/-- The field as a signed number of its own length. -/
theorem toInt_ibfxn : signedOf (fieldLen w b) (ibfxn w a.toNat b.toNat) =
    (BitVec.ofNat (fieldLen w b) (ibfxn w a.toNat b.toNat)).toInt := by
  rw [← signedOf_toNat, BitVec.toNat_ofNat, Nat.mod_eq_of_lt (ibfxn_lt a b)]

/-- BFI's sum has vd's low bits, then the field, then vd's high bits. -/
theorem ibfi_eq_concat : ibfi w a.toNat b.toNat d.toNat = 2 ^ fieldPos w b *
    (2 ^ fieldLen w b * (d.toNat / 2 ^ (fieldPos w b + fieldLen w b)) + a.toNat % 2 ^ fieldLen w b)
      + d.toNat % 2 ^ fieldPos w b := by
  rw [ibfi, bfPos_eq, bfLen_eq, Nat.pow_add]
  ring

theorem testBit_ibfi (i : Nat) : (ibfi w a.toNat b.toNat d.toNat).testBit i =
    if i < fieldPos w b then d.getLsbD i
    else if i < fieldPos w b + fieldLen w b then a.getLsbD (i - fieldPos w b) else d.getLsbD i := by
  simp only [ibfi_eq_concat, Nat.testBit_two_pow_mul_add _ (Nat.mod_lt _ (Nat.two_pow_pos _)), Nat.testBit_mod_two_pow,
    Nat.testBit_div_two_pow, BitVec.testBit_toNat]
  grind

theorem ofNat_ibfi : BitVec.ofNat w (ibfi w a.toNat b.toNat d.toNat) =
    (d &&& ~~~(fieldMask w b)) ||| ((a <<< fieldPos w b) &&& fieldMask w b) := by
  apply BitVec.eq_of_getLsbD_eq
  intro i hi
  simp only [BitVec.getLsbD_ofNat, testBit_ibfi, BitVec.getLsbD_or, BitVec.getLsbD_and, BitVec.getLsbD_not,
    BitVec.getLsbD_shiftLeft, getLsbD_fieldMask]
  grind

/-- Bits above a field are its sign. -/
theorem getLsbD_ofNat_ibfx (hw : 0 < w) (i : Nat) (hi : i < w) : (BitVec.ofNat w (ibfx w a.toNat b.toNat)).getLsbD i =
    if i < fieldLen w b then a.getLsbD (fieldPos w b + i) else a.getLsbD (fieldPos w b + fieldLen w b - 1) := by
  have hl := fieldLen_pos hw b
  rw [ibfx, ofNat_wrapTo, bfLen_eq, toInt_ibfxn]
  change ((BitVec.ofNat (fieldLen w b) (ibfxn w a.toNat b.toNat)).signExtend w).getLsbD i = _
  rw [BitVec.getLsbD_signExtend, BitVec.msb_eq_getLsbD_last, BitVec.getLsbD_ofNat, BitVec.getLsbD_ofNat, testBit_ibfxn,
    testBit_ibfxn, Nat.add_sub_assoc hl]
  simp +contextual [hi, hl]

theorem ofNat_ibfx (hw : 0 < w) : BitVec.ofNat w (ibfx w a.toNat b.toNat) =
    if a.getLsbD (fieldPos w b + fieldLen w b - 1) then
      ((a &&& fieldMask w b) >>> fieldPos w b) ||| ~~~(fieldMask w b >>> fieldPos w b)
    else (a &&& fieldMask w b) >>> fieldPos w b := by
  have hp := fieldPos_add_fieldLen_le hw b
  apply BitVec.eq_of_getLsbD_eq
  intro i hi
  rw [getLsbD_ofNat_ibfx a b hw i hi]
  by_cases hs : a.getLsbD (fieldPos w b + fieldLen w b - 1) = true
  · rw [if_pos hs, BitVec.getLsbD_or, getLsbD_field, BitVec.getLsbD_not, BitVec.getLsbD_ushiftRight, getLsbD_fieldMask, hs]
    by_cases h : i < fieldLen w b
    · simp [h, show fieldPos w b + i < w by omega]
    · simp [h, hi]
  · rw [if_neg hs, getLsbD_field]
    by_cases h : i < fieldLen w b <;> simp [h, hs]

end

/-- PRMB's result, byte by byte: the selector's low three bits pick a byte, its top bit the register. -/
theorem part_iprmb (x y z : Word) (e : Nat) (he : e < 64 / 8) : part 8 (iprmb x y z) e =
    if (y.extractLsb' (4 * e) 4).toNat < 8 then part 8 x (y.extractLsb' (4 * e) 4).toNat
    else part 8 z ((y.extractLsb' (4 * e) 4).toNat - 8) := by
  have hsel : bitsOf y.toNat (4 * e) 4 = (y.extractLsb' (4 * e) 4).toNat := elem_part 4 y e
  rw [iprmb, part_pack _ _ _ he]
  simp only [hsel, elem_part]
  split <;> simp

/-- Settles O3: BFX and BFXN are operations on elements of two sources, BFI of three; PRMB builds bytes from whole registers. -/
theorem bitFieldsAndByteChoice : Obligations.BitFieldsAndByteChoice := by
  intro k o
  have hw := bits_pos o.ty
  refine ⟨fun h => ⟨?_, ?_⟩, fun h => ⟨?_, ?_⟩⟩
  · exact laneElements_write (.bfxn o) k o.pg o.vd o.va o.vb false false o.ty.bits _ _ ofNat_ibfxn rfl rfl h
  · exact laneElements_write (.bfx o) k o.pg o.vd o.va o.vb false false o.ty.bits _ _ (fun a b => ofNat_ibfx a b hw) rfl rfl h
  · exact laneTer_writes (.bfi o) k o.pg o.vd o.va o.vb false false _ 4 _ _ rfl rfl h
      (fun _ e he => part_ew3 _ _ _ ofNat_ibfi _ _ _ e he)
  · exact laneTer_writes (.prmb o) k o.pg o.vd o.va o.vb false false iprmb 4 8 _ rfl rfl h (fun _ => part_iprmb _ _ _)

end Sys2Proof.Machine
end

section
/-! Unary, immediate and shift forms of the lane side (R50, R51, R25). -/

namespace Sys2Proof.Machine

/-! ### R50 -/

section
variable {w : Nat} (a : BitVec w)

theorem ofNat_ineg : BitVec.ofNat w (ineg w a.toNat) = -a := by
  apply BitVec.eq_of_toNat_eq; simp [ineg]

theorem toInt_neg_iff_half_le : a.toInt < 0 ↔ 2 ^ (w - 1) ≤ a.toNat := by
  rw [← decide_eq_decide, ← BitVec.msb_eq_toInt, BitVec.msb_eq_decide]

theorem ofNat_iabs : BitVec.ofNat w (iabs w a.toNat) = if a.toInt < 0 then -a else a := by
  simp only [iabs, ← Nat.not_le, ← toInt_neg_iff_half_le, ite_not, ← ofNat_ineg, ineg]
  split <;> simp

theorem ofNat_inot : BitVec.ofNat w (inot w a.toNat) = ~~~a := by
  apply BitVec.eq_of_toNat_eq
  rw [BitVec.toNat_not, BitVec.toNat_ofNat, inot, Nat.mod_eq_of_lt a.isLt, Nat.mod_eq_of_lt (by have := a.isLt; omega)]
end

theorem popFrom_eq_length_filter (x n : Nat) : popFrom x n = ((List.range n).filter (fun i => x.testBit i)).length := by
  induction n with
  | zero => rfl
  | succ n ih =>
    rw [popFrom, ih, List.range_succ, List.filter_append, List.length_append, ← Nat.toNat_testBit]
    cases h : x.testBit n <;> simp [h]

/-- The first place at which a test holds: 0, or one more than the first of the test from 1 on. -/
theorem find?_range_succ_getD (p : Nat → Bool) (n : Nat) : ((List.range (n + 1)).find? p).getD (n + 1) =
    if p 0 then 0 else 1 + ((List.range n).find? (fun i => p (i + 1))).getD n := by
  rw [List.range_succ_eq_map, List.find?_cons, List.find?_map]
  cases p 0
  · cases h : (List.range n).find? (fun i => p (i + 1)) <;> simp [h, Nat.add_comm]
  · rfl

/-- Zeros counted from bit n - 1 down. -/
theorem iclz_eq_find? (x n : Nat) : iclz x n = ((List.range n).find? (fun i => x.testBit (n - (i + 1)))).getD n := by
  induction n with
  | zero => rfl
  | succ n ih =>
    simp only [iclz, ih, find?_range_succ_getD, Nat.add_sub_add_right, Nat.sub_zero, Nat.testBit_eq_decide_div_mod_eq,
      decide_eq_true_eq]

/-- Zeros counted from bit w - n up to bit w - 1. -/
theorem ictzFrom_eq_find? (x w n : Nat) (hn : n ≤ w) :
    ictzFrom x w n = ((List.range n).find? (fun i => x.testBit (w - n + i))).getD n := by
  induction n with
  | zero => rfl
  | succ n ih =>
    have hsub (i : Nat) : w - (n + 1) + (i + 1) = w - n + i := by omega
    simp only [ictzFrom, ih (by omega), find?_range_succ_getD, hsub, Nat.add_zero, Nat.testBit_eq_decide_div_mod_eq,
      decide_eq_true_eq]

/-- BREV's number is the low n bits in reverse order, moved to the top. -/
theorem testBit_ibrevFrom (x n : Nat) (hn : n ≤ 64) :
    ∃ q, ibrevFrom x n = 2 ^ (64 - n) * q ∧ ∀ j, q.testBit j = (decide (j < n) && x.testBit (n - 1 - j)) := by
  induction n with
  | zero => exact ⟨0, rfl, by simp⟩
  | succ n ih =>
    obtain ⟨q, hq, hbits⟩ := ih (by omega)
    refine ⟨2 * q + x / 2 ^ n % 2, ?_, fun j => ?_⟩
    · rw [ibrevFrom, hq, show 64 - n = 63 - n + 1 by omega, show 64 - (n + 1) = 63 - n by omega, Nat.pow_succ]
      ring
    · cases j with
      | zero => simp [Nat.testBit_eq_decide_div_mod_eq]
      | succ j =>
        have hdiv : (2 * q + x / 2 ^ n % 2) / 2 = q := by omega
        rw [Nat.testBit_succ, hdiv, hbits]
        simp [show n - (j + 1) = n - 1 - j by omega]

section
variable {w : Nat} (a : BitVec w)

theorem ofNat_ipopc : BitVec.ofNat w (ipopc w a.toNat) = BitVec.ofNat w ((List.range w).filter (fun i => a.getLsbD i)).length := by
  rw [ipopc, popFrom_eq_length_filter]; rfl

theorem ofNat_iclz : BitVec.ofNat w (iclz a.toNat w) = BitVec.ofNat w (((List.range w).find? (fun i => a.getMsbD i)).getD w) := by
  rw [iclz_eq_find?]
  congr 2
  apply List.find?_congr
  intro i hi
  rw [BitVec.testBit_toNat, BitVec.getMsbD, Nat.sub_sub, Nat.add_comm 1]
  simp [List.mem_range.mp hi]

theorem ofNat_ictz : BitVec.ofNat w (ictz w a.toNat) = BitVec.ofNat w (((List.range w).find? (fun i => a.getLsbD i)).getD w) := by
  rw [ictz, ictzFrom_eq_find? _ _ _ (Nat.le_refl w)]
  simp [BitVec.testBit_toNat]
end

theorem ibrev_eq_reverse (x : Word) : ibrev x = x.reverse := by
  obtain ⟨q, hq, hbits⟩ := testBit_ibrevFrom x.toNat 64 (Nat.le_refl _)
  apply BitVec.eq_of_getLsbD_eq
  intro i hi
  rw [ibrev, hq, BitVec.getLsbD_ofNat, BitVec.getLsbD_reverse]
  simp [hbits, hi, BitVec.getMsbD, BitVec.testBit_toNat]

/-! ### Whole lanes -/

/-- A unit whose effect is a write of a lane register. -/
theorem lanes_write (i : Instr) (u : Use) (k : Issue) (vd len w : Nat) (fn : Ctx → Nat → Lane → Word)
    (r : Nat → Nat → BitVec w) (hb : unitBytes i = len) (hexec : exec i k.s = issueUnit i u k.s (fun c s => writeLanes c s vd (fn c))) (h : k.Ready u)
    (hr : ∀ L e, e < 64 / w → part w (fn (k.ctx u len) L (k.t'.lane L)) e = r L e) : LaneWrites k u i vd len w r := by
  subst hb
  exact ⟨_, hexec.trans (issueUnit_writeLanes i u k vd _ fn h (fun _ _ => rfl)), fun L _ => hr L⟩

/-- A unit that writes whole lanes. -/
theorem wholeLanes_write (i : Instr) (u : Use) (k : Issue) (vd len : Nat) (fn : Ctx → Nat → Lane → Word) (val : Nat → Word)
    (hb : unitBytes i = len) (hexec : exec i k.s = issueUnit i u k.s (fun c s => writeLanes c s vd (fn c))) (h : k.Ready u)
    (hv : ∀ L, fn (k.ctx u len) L (k.t'.lane L) = val L) : LaneWrites k u i vd len 64 (fun L _ => part 64 (val L) 0) :=
  lanes_write i u k vd len 64 fn _ hb hexec h (fun L e hlt => by rw [hv, Nat.lt_one_iff.mp hlt])

/-- A form of one source that acts on whole lanes. -/
theorem wholeLanes_laneUn_write (i : Instr) (k : Issue) (pg : BitVec 3) (vd va : BitVec 6) (ta : Bool)
    (op : Word → Word) (len : Nat) (r : Word → Word) (hr : ∀ x, op x = r x) (hb : unitBytes i = len) (hexec : exec i k.s = laneUn i pg vd va ta op k.s)
    (h : k.Ready (use1 pg vd va ta)) :
    LaneWrites k (use1 pg vd va ta) i vd.toNat len 64 (fun L _ => part 64 (r (k.src L va.toNat)) 0) :=
  wholeLanes_write i (use1 pg vd va ta) k vd.toNat len (fun c L x => op (c.src L x va.toNat)) (fun L => r (k.src L va.toNat)) hb
    hexec h (fun _ => hr _)

/-- R51's shift counts are below 64, so that taking them modulo 64 changes nothing. -/
theorem shiftCount_mod (c : BitVec 6) : c.toNat % 64 = c.toNat := Nat.mod_eq_of_lt c.isLt

theorem w64u_ishl (c : BitVec 6) (x : Word) : w64u (fun a => ishl 64 a c.toNat) x = x <<< c.toNat := by
  rw [w64u, ofNat_ishl, shiftCount_mod]

theorem w64u_ishr (c : BitVec 6) (x : Word) : w64u (fun a => ishr 64 a c.toNat) x = x >>> c.toNat := by
  rw [w64u, ofNat_ishr, shiftCount_mod]

theorem w64u_isar (c : BitVec 6) (x : Word) : w64u (fun a => isar 64 a c.toNat) x = x.sshiftRight c.toNat := by
  rw [w64u, ofNat_isar, shiftCount_mod]

/-! ### The forms of R50 and R51 -/

/-- A form of one source whose operation is one on each element. -/
theorem laneUnary_write (i : Instr) (k : Issue) (o : LU) (g : Nat → Nat) (r : BitVec o.ty.bits → BitVec o.ty.bits)
    (hg : ∀ a : BitVec o.ty.bits, BitVec.ofNat o.ty.bits (g a.toNat) = r a) (hb : unitBytes i = 4)
    (he : exec i k.s = laneUn i o.pg o.vd o.va o.ta (ew1 o.ty.bits g) k.s) (h : k.Ready (use1 o.pg o.vd o.va o.ta)) :
    LaneWrites k (use1 o.pg o.vd o.va o.ta) i o.vd.toNat 4 o.ty.bits (fun L e => r (part o.ty.bits (k.src L o.va.toNat) e)) :=
  laneUn_writes i k o.pg o.vd o.va o.ta (ew1 o.ty.bits g) 4 o.ty.bits _ hb he h (fun _ e he => part_ew1 _ g r hg _ e he)

theorem laneUnaryForms_write (k : Issue) (o : LU) (h : k.Ready (use1 o.pg o.vd o.va o.ta)) (p) (hp : p ∈ laneUnary) :
    LaneWrites k (use1 o.pg o.vd o.va o.ta) (p.1 o) o.vd.toNat 4 o.ty.bits (fun L e =>
      p.2 o.ty.bits (part o.ty.bits (k.src L o.va.toNat) e)) := by
  simp only [laneUnary, List.mem_cons, List.not_mem_nil, or_false] at hp
  rcases hp with rfl | rfl | rfl | rfl | rfl | rfl
  · exact laneUnary_write (.abs o) k o _ _ ofNat_iabs rfl rfl h
  · exact laneUnary_write (.neg o) k o _ _ ofNat_ineg rfl rfl h
  · exact laneUnary_write (.not o) k o _ _ ofNat_inot rfl rfl h
  · exact laneUnary_write (.popc o) k o _ _ ofNat_ipopc rfl rfl h
  · exact laneUnary_write (.clz o) k o _ _ ofNat_iclz rfl rfl h
  · exact laneUnary_write (.ctz o) k o _ _ ofNat_ictz rfl rfl h

/-- The immediate forms, alone with `x` the ten bits sign-extended, under EXT with the 35 bits. -/
theorem laneImmediateForms_write (k : Issue) (hi : BitVec 25) (o : LI) (h : k.Ready (use1 o.pg o.vd o.va false)) (p)
    (hp : p ∈ laneImmediate) :
    LaneWrites k (use1 o.pg o.vd o.va false) (p.1 o) o.vd.toNat 4 64 (fun L _ =>
      part 64 (p.2.2 (k.src L o.va.toNat) (o.imm.signExtend 64)) 0) ∧
    LaneWrites k (use1 o.pg o.vd o.va false) (.ext hi (p.2.1 o)) o.vd.toNat 8 64 (fun L _ =>
      part 64 (p.2.2 (k.src L o.va.toNat) ((hi ++ o.imm).signExtend 64)) 0) := by
  have write := fun (i : Instr) op len => wholeLanes_laneUn_write i k o.pg o.vd o.va false op len op (fun _ => rfl)
  simp only [laneImmediate, List.mem_cons, List.not_mem_nil, or_false] at hp
  rcases hp with rfl | rfl | rfl | rfl | rfl
  · exact ⟨write (.addi o) (· + imm10 o.imm) 4 rfl rfl h, write (.ext hi (.addi o)) (· + imm35 hi o.imm) 8 rfl rfl h⟩
  · exact ⟨write (.muli o) (· * imm10 o.imm) 4 rfl rfl h, write (.ext hi (.muli o)) (· * imm35 hi o.imm) 8 rfl rfl h⟩
  · exact ⟨write (.andi o) (· &&& imm10 o.imm) 4 rfl rfl h, write (.ext hi (.andi o)) (· &&& imm35 hi o.imm) 8 rfl rfl h⟩
  · exact ⟨write (.ori o) (· ||| imm10 o.imm) 4 rfl rfl h, write (.ext hi (.ori o)) (· ||| imm35 hi o.imm) 8 rfl rfl h⟩
  · exact ⟨write (.xori o) (· ^^^ imm10 o.imm) 4 rfl rfl h, write (.ext hi (.xori o)) (· ^^^ imm35 hi o.imm) 8 rfl rfl h⟩

theorem laneShiftForms_write (k : Issue) (o : LSh) (h : k.Ready (use1 o.pg o.vd o.va false)) (p) (hp : p ∈ laneShift) :
    LaneWrites k (use1 o.pg o.vd o.va false) (p.1 o) o.vd.toNat 4 64 (fun L _ =>
      part 64 (p.2 (k.src L o.va.toNat) o.c.toNat) 0) := by
  have write := fun (i : Instr) op => wholeLanes_laneUn_write i k o.pg o.vd o.va false op 4
  simp only [laneShift, List.mem_cons, List.not_mem_nil, or_false] at hp
  rcases hp with rfl | rfl | rfl
  · exact write (.shli o) _ _ (w64u_ishl o.c) rfl rfl h
  · exact write (.shri o) _ _ (w64u_ishr o.c) rfl rfl h
  · exact write (.sari o) _ _ (w64u_isar o.c) rfl rfl h

/-- MOVI, alone and under EXT. -/
theorem movi_write (i : Instr) (k : Issue) (o : LMov) (x : Word) (len : Nat) (hb : unitBytes i = len)
    (hexec : exec i k.s = moviWith i o x k.s) (h : k.Ready (use0 o.pg o.vd)) :
    LaneWrites k (use0 o.pg o.vd) i o.vd.toNat len 64 (fun _ _ => part 64 x 0) :=
  wholeLanes_write i (use0 o.pg o.vd) k o.vd.toNat len (fun _ _ _ => x) (fun _ => x) hb hexec h (fun _ => rfl)

/-- Settles O4: the unary forms are operations on elements; BREV, the immediate forms, the shifts and MOVI write whole lanes. -/
theorem laneUnaryAndImmediateForms : Obligations.LaneUnaryAndImmediateForms :=
  ⟨fun k o h => ⟨laneUnaryForms_write k o h,
      wholeLanes_laneUn_write (.brev o) k o.pg o.vd o.va o.ta ibrev 4 _ ibrev_eq_reverse rfl rfl h⟩,
    fun k hi => ⟨fun o p hp h => laneImmediateForms_write k hi o h p hp, fun o p hp h => laneShiftForms_write k o h p hp,
      fun o h => ⟨movi_write (.movi o) k o (imm10 o.imm) 4 rfl rfl h,
        movi_write (.ext hi (.movi o)) k o (imm35 hi o.imm) 8 rfl rfl h⟩⟩⟩

end Sys2Proof.Machine
end

section
/-! Comparison, predicate logic and selection (R52 to R54). -/

namespace Sys2Proof.Machine

/-- A comparison at width w, of numbers and of elements. -/
theorem ccHolds_toNat {w : Nat} (c : CC) (a b : BitVec w) : ccHolds w c a.toNat b.toNat = ccSays c w a b := by
  cases c with
  | eq => simp [ccHolds, ccSays, BitVec.toNat_inj]
  | ne => simp [ccHolds, ccSays, BitVec.toNat_inj]
  | lt => simp [ccHolds, ccSays]
  | ge => simp [ccHolds, ccSays]
  | ltn => simp [ccHolds, ccSays]
  | gen => simp [ccHolds, ccSays]
  | tst => simp [ccHolds, ccSays, ← BitVec.toNat_inj]

theorem combine_eq_cmbSays (m : Cmb) (d c : Bool) : combine m d c = cmbSays m d c := by cases m <;> rfl

/-- A unit that writes a predicate of every executing lane. -/
theorem lanePreds_write (i : Instr) (u : Use) (k : Issue) (pd : Nat) (fn : Ctx → Nat → Lane → Bool) (val : Nat → Bool)
    (hb : unitBytes i = 4) (hexec : exec i k.s = issueUnit i u k.s (fun c s => writePreds c s pd (fn c))) (h : k.Ready u)
    (hv : ∀ L, fn (k.ctx u 4) L (k.t'.lane L) = val L) : PredWrites k u i pd val :=
  ⟨_, hexec.trans ((issueUnit_writePreds i u k pd _ fn h (fun _ _ => rfl)).trans (by rw [hb])), fun L _ => hv L⟩

theorem cmp_write (k : Issue) (o : LC) (h : k.Ready (useCmp o.pg o.pd o.va o.vb)) :
    PredWrites k (useCmp o.pg o.pd o.va o.vb) (.cmp o) o.pd.toNat (fun L => cmbSays o.cmb (k.pred L o.pd.toNat)
      (ccSays o.cc o.ty.bits (part o.ty.bits (k.src L o.va.toNat) 0) (part o.ty.bits (k.src L o.vb.toNat) 0))) :=
  lanePreds_write (.cmp o) (useCmp o.pg o.pd o.va o.vb) k o.pd.toNat
    (fun c L x => combine o.cmb (x.pred o.pd.toNat) (ccHolds o.ty.bits o.cc (elem o.ty.bits (c.src L x o.va.toNat) 0)
      (elem o.ty.bits (c.src L x o.vb.toNat) 0))) _ rfl rfl h (fun L => by
    rw [src_ctx, src_ctx, elem_part, elem_part, ccHolds_toNat, combine_eq_cmbSays, Issue.pred])

/-- The two-source forms of PLOG. -/
theorem plogBin_write (i : Instr) (k : Issue) (o : LQ) (op : Bool → Bool → Bool) (hb : unitBytes i = 4)
    (hexec : exec i k.s = plogBin i o op k.s) (h : k.Ready (usePred o.pg o.pd)) :
    PredWrites k (usePred o.pg o.pd) i o.pd.toNat (fun L => op (k.pred L o.pa.toNat) (k.pred L o.pb.toNat)) :=
  lanePreds_write i (usePred o.pg o.pd) k o.pd.toNat (fun _ _ x => op (x.pred o.pa.toNat) (x.pred o.pb.toNat)) _ hb hexec h
    (fun _ => rfl)

theorem predLogicForms_write (k : Issue) (o : LQ) (p) (hp : p ∈ predLogic) (h : k.Ready (usePred o.pg o.pd)) :
    PredWrites k (usePred o.pg o.pd) (p.1 o) o.pd.toNat (fun L => p.2 (k.pred L o.pa.toNat) (k.pred L o.pb.toNat)) := by
  simp only [predLogic, List.mem_cons, List.not_mem_nil, or_false] at hp
  rcases hp with rfl | rfl | rfl | rfl
  · exact plogBin_write (.pand o) k o (· && ·) rfl rfl h
  · exact plogBin_write (.por o) k o (· || ·) rfl rfl h
  · exact plogBin_write (.pxor o) k o xor rfl rfl h
  · exact plogBin_write (.pandn o) k o (fun a b => a && !b) rfl rfl h

/-- Settles O5: CMP, PLOG and SEL are each one write of every executing lane, of the value the statement names. -/
theorem lanePredicatesAndSelection : Obligations.LanePredicatesAndSelection := by
  refine ⟨cmp_write, fun k => ⟨predLogicForms_write k, fun pg pd pa h => ⟨?_, ?_, ?_⟩, fun o h => ?_⟩⟩
  · exact lanePreds_write (.pnot pg pd pa) (usePred pg pd) k pd.toNat (fun _ _ x => !x.pred pa.toNat) _ rfl rfl h (fun _ => rfl)
  · exact lanePreds_write (.pset pg pd) (usePred pg pd) k pd.toNat (fun _ _ _ => true) _ rfl rfl h (fun _ => rfl)
  · exact lanePreds_write (.pclr pg pd) (usePred pg pd) k pd.toNat (fun _ _ _ => false) _ rfl rfl h (fun _ => rfl)
  · exact wholeLanes_write (.sel o) (use2 o.pg o.vd o.va o.vb false false) k o.vd.toNat 4
      (fun c L x => if xor (x.pred o.ps.toNat) o.inv then c.src L x o.va.toNat else c.src L x o.vb.toNat) _ rfl rfl h (fun _ => rfl)

end Sys2Proof.Machine
end

section
/-! Moves between lanes and the uniform side, votes, cross-lane reads (R58, R59, R204, R205). -/

namespace Sys2Proof.Machine

/-! ### The lanes a unit executes in -/

theorem lanesOf_eq_filter (m : LaneMask) (n : Nat) : lanesOf m n = (List.range n).filter (fun L => m.getLsbD L) := by
  induction n with
  | zero => rfl
  | succ n ih => rw [lanesOf, ih, List.range_succ, List.filter_append, List.filter_singleton, cond_eq_ite]

/-- Each branch that gives elements gives the team as it was, or with the walker moved on. -/
theorem readWalker_geom (s : State) (l : Launch) (t t' : Team) (ex : LaneMask) (n : Nat) (w : Walker) (te : Bool)
    (els : List (Nat × List (Nat × Word))) (h : readWalker s l t ex n w te = .ok t' els) : t'.geom = t.geom := by
  simp only [readWalker] at h
  repeat' split at h
  all_goals cases h
  all_goals rfl

theorem orEmpty_ne_ok (r : WalkRes) (t : Team) (els : List (Nat × List (Nat × Word))) : r.orEmpty ≠ .ok t els := by
  unfold WalkRes.orEmpty
  repeat' split
  all_goals simp

theorem readWalkers_geom (s : State) (l : Launch) (ex : LaneMask) (vr : List (Nat × Bool)) (t t' : Team) (seen : List Nat)
    (els : List (Nat × List (Nat × Word))) (h : readWalkers s l ex t vr seen = .ok t' els) : t'.geom = t.geom := by
  induction vr generalizing t t' seen els with
  | nil =>
    simp only [readWalkers, WalkRes.ok.injEq] at h
    rw [h.1]
  | cons r rest ih =>
    simp only [readWalkers] at h
    split at h
    · exact ih _ _ _ _ h
    · split at h
      · exact ih _ _ _ _ h
      · split at h
        next hread =>
          split at h
          next hrest =>
            cases h
            exact (ih _ _ _ _ hrest).trans (readWalker_geom _ _ _ _ _ _ _ _ _ hread)
          next hne => exact absurd h (hne _ _)
        next => exact absurd h (orEmpty_ne_ok _ _ _)
        next hne _ => exact absurd h (hne _ _)

theorem readTeam_geom (k : Issue) (u : Use) (h : k.Ready u) : k.t'.geom = k.t.geom := readWalkers_geom _ _ _ _ _ _ _ _ h.walk

@[simp] theorem clearMarks_geom (u : Use) (t : Team) : (u.clearMarks t).geom = t.geom := by
  unfold Use.clearMarks
  induction u.vw generalizing t with
  | nil => rfl
  | cons r rest ih => exact ih (t.setVMark r .full)

@[simp] theorem clearMarks_g (u : Use) (t : Team) : (u.clearMarks t).g = t.g := by
  unfold Use.clearMarks
  induction u.vw generalizing t with
  | nil => rfl
  | cons r rest ih => exact ih (t.setVMark r .full)

theorem team'_geom (k : Issue) (u : Use) (h : k.Ready u) : (k.team' u).geom = k.t.geom := by
  unfold Issue.team'
  split <;> simp [readTeam_geom k u h]

/-- A unit that writes no v register clears no mark. -/
theorem team'_no_vw (k : Issue) (u : Use) (hw : u.vw = []) : k.team' u = k.t' := by
  rw [Issue.team', Use.clearMarks, hw, List.foldl_nil, ite_self]

/-- A unit that reads no v register finds the uniform registers as they stand. -/
theorem greg_team' (k : Issue) (u : Use) (h : k.Ready u) (hr : u.vr = []) (r : Nat) : (k.team' u).greg r = k.t.greg r := by
  have hwalk := h.walk
  simp only [hr, readWalkers, WalkRes.ok.injEq] at hwalk
  rw [Issue.team', ← hwalk.1]
  split
  · rfl
  · rw [Team.greg, clearMarks_g, Team.greg]

theorem lanesOf_ctx (k : Issue) (u : Use) (len : Nat) (h : k.Ready u) :
    lanesOf (k.ctx u len).ex (k.ctx u len).t.geom.lanes = k.lanes u := by
  rw [ctx_ex, ctx_t, team'_geom k u h, lanesOf_eq_filter, Issue.lanes]

theorem voters_ctx (k : Issue) (u : Use) (len p : Nat) (h : k.Ready u) : voters (k.ctx u len) p = k.voters u p := by
  rw [voters, lanesOf_ctx k u len h, Issue.voters]
  simp only [ctx_t, lane_team', Issue.pred]

theorem noteNolane_ctx (k : Issue) (u : Use) (len : Nat) (t : Team) : noteNolane (k.ctx u len) t = k.noLane u t := rfl

theorem lowestLane_ctx (k : Issue) (u : Use) (len : Nat) (h : k.Ready u) : lowestLane (k.ctx u len) = (k.lanes u).head? := by
  rw [lowestLane, lanesOf_ctx k u len h]

theorem countLanes_ctx (k : Issue) (u : Use) (len : Nat) (h : k.Ready u) :
    countLanes (k.ctx u len).ex (k.ctx u len).t.geom.lanes = (k.lanes u).length := by
  rw [countLanes, lanesOf_ctx k u len h]

theorem voters_length_eq_iff (k : Issue) (u : Use) (p : Nat) :
    (k.voters u p).length = (k.lanes u).length ↔ k.voters u p = k.lanes u := by
  rw [Issue.voters, List.length_filter_eq_length_iff, List.filter_eq_self]

/-! ### R58 and R59 -/

/-- A unit of one word that changes the arm's team alone. -/
theorem issueUnit_team (i : Instr) (u : Use) (k : Issue) (eff : Ctx → State → Res) (t : Team) (hb : unitBytes i = 4)
    (h : k.Ready u) (he : ∀ s, eff (k.ctx u 4) s = .done (s.setTeam k.tid t)) :
    issueUnit i u k.s eff = .next (k.done 4 t) := by
  rw [← hb]
  exact issueUnit_done i u k eff t h (by rw [hb, he, setTeam_setTeam])

theorem getl_next (k : Issue) (o : LMv) (h : k.Ready (useVG o.pg o.rd o.ra o.ta)) :
    exec (.getl o) k.s = .next (k.done 4 (((k.lanes (useVG o.pg o.rd o.ra o.ta)).head?).elim { k.t' with nolane := true }
      (fun L => k.t'.setG o.rd.toNat (k.src L o.ra.toNat)))) := by
  have ht := team'_no_vw k (useVG o.pg o.rd o.ra o.ta) rfl
  rw [show exec (.getl o) k.s = execGetl o k.s from rfl, execGetl]
  refine issueUnit_team (.getl o) (useVG o.pg o.rd o.ra o.ta) k _ _ rfl h (fun s => ?_)
  rw [lowestLane_ctx k _ _ h]
  cases (k.lanes (useVG o.pg o.rd o.ra o.ta)).head? with
  | none => simp [ht, Team.setNolane]
  | some L => simp [writeG, ht]

theorem voteAny_next (k : Issue) (o : LVote) (u : Use) (hu : u = { pg := some o.pg.toNat, badPred := o.qd = 0 }) (h : k.Ready u) :
    exec (.voteAny o) k.s = .next (k.done 4 (k.noLane u (k.t'.setQ o.qd.toNat (decide (k.voters u o.pa.toNat ≠ []))))) := by
  rw [show exec (.voteAny o) k.s = execVoteAny o k.s from rfl, execVoteAny, ← hu]
  refine issueUnit_team (.voteAny o) u k _ _ rfl h (fun s => ?_)
  rw [voters_ctx k u 4 _ h, ctx_t, team'_no_vw k u (by rw [hu]), noteNolane_ctx, ctx_tid]

theorem voteAll_next (k : Issue) (o : LVote) (u : Use) (hu : u = { pg := some o.pg.toNat, badPred := o.qd = 0 }) (h : k.Ready u) :
    exec (.voteAll o) k.s = .next (k.done 4 (k.noLane u (k.t'.setQ o.qd.toNat (decide (k.voters u o.pa.toNat = k.lanes u))))) := by
  rw [show exec (.voteAll o) k.s = execVoteAll o k.s from rfl, execVoteAll, ← hu]
  refine issueUnit_team (.voteAll o) u k _ _ rfl h (fun s => ?_)
  rw [voters_ctx k u 4 _ h, countLanes_ctx k u 4 h, ctx_t, team'_no_vw k u (by rw [hu]), noteNolane_ctx, ctx_tid]
  simp only [voters_length_eq_iff]

theorem voteCnt_next (k : Issue) (o : LVoteC) (u : Use) (hu : u = { pg := some o.pg.toNat, gw := [o.gd.toNat] }) (h : k.Ready u) :
    exec (.voteCnt o) k.s = .next (k.done 4 (k.noLane u (k.t'.setG o.gd.toNat
      (BitVec.ofNat 64 (k.voters u o.pa.toNat).length)))) := by
  rw [show exec (.voteCnt o) k.s = execVoteCnt o k.s from rfl, execVoteCnt, ← hu]
  refine issueUnit_team (.voteCnt o) u k _ _ rfl h (fun s => ?_)
  rw [voters_ctx k u 4 _ h, ctx_t, team'_no_vw k u (by rw [hu]), noteNolane_ctx, ctx_tid]

theorem bcast_write (k : Issue) (o : LMv) (u : Use)
    (hu : u = { pg := some o.pg.toNat, vw := [o.rd.toNat], gr := [(o.ra.toNat, o.ta)] }) (h : k.Ready u) :
    LaneWrites k u (.bcast o) o.rd.toNat 4 64 (fun _ _ => part 64 (k.t.greg o.ra.toNat) 0) := by
  subst hu
  refine wholeLanes_write (.bcast o) _ k o.rd.toNat 4 (fun c _ _ => c.t.greg o.ra.toNat) _ rfl rfl h (fun L => ?_)
  rw [ctx_t, greg_team' k _ h rfl]

/-! ### R204 and R205 -/

/-- In an ascending list the last element that is at most S is the last of those that are. -/
theorem lastAtMost_eq_getLast? (S : Nat) (l : List Nat) (h : l.Pairwise (· < ·)) :
    lastAtMost S l = (l.filter (fun L => L ≤ S)).getLast? := by
  induction l with
  | nil => rfl
  | cons L r ih =>
    obtain ⟨hlt, hr⟩ := List.pairwise_cons.mp h
    by_cases hL : L ≤ S
    · rw [lastAtMost, if_pos hL, ih hr, List.filter_cons_of_pos (by simpa using hL), List.getLast?_cons]
      cases (r.filter (fun L => L ≤ S)).getLast? <;> rfl
    · have hnone : r.filter (fun L => L ≤ S) = [] := List.filter_eq_nil_iff.mpr (fun x hx => by have := hlt x hx; simp; omega)
      rw [lastAtMost, if_neg hL, List.filter_cons_of_neg (by simpa using hL), hnone]
      rfl

theorem lanes_pairwise_lt (k : Issue) (u : Use) : (k.lanes u).Pairwise (· < ·) := List.pairwise_lt_range.filter _

/-- What a cross-lane read of element i finds (R204). -/
def Issue.crossPart (k : Issue) (u : Use) (w va i : Nat) : Option (BitVec w) :=
  if k.t.geom.lanes ≤ i / (64 / w) then none
  else (k.sourceLane u (i / (64 / w))).map (fun S => part w (k.src S va) (i % (64 / w)))

theorem crossRead_ctx (k : Issue) (u : Use) (len w va : Nat) (h : k.Ready u) :
    crossRead (k.ctx u len) w va = fun i => (k.crossPart u w va i).map BitVec.toNat := by
  funext i
  rw [crossRead, Issue.crossPart, lanesOf_ctx k u len h, lastAtMost_eq_getLast? _ _ (lanes_pairwise_lt k u), ctx_t,
    team'_geom k u h]
  split
  · rfl
  · simp only [lane_team', src_ctx, elem_part, Option.map_map, Issue.sourceLane]
    rfl

/-- The XLANE forms, given by the element index each reads. -/
theorem exec_crossIndex (o : LF) (s : State) (p) (hp : p ∈ crossIndex) :
    unitBytes (p.1 o) = 4 ∧ exec (p.1 o) s = crossLane (p.1 o) o p.2 s := by
  simp only [crossIndex, List.mem_cons, List.not_mem_nil, or_false] at hp
  rcases hp with rfl | rfl | rfl | rfl <;> exact ⟨rfl, rfl⟩

/-- A cross-lane form writes what its reads find, and the prior element where they find nothing. -/
theorem crossLane_write (i : Instr) (k : Issue) (o : LF) (idx : Nat → Nat → Option Nat) (hb : unitBytes i = 4)
    (hexec : exec i k.s = crossLane i o idx k.s) (h : k.Ready (use2 o.pg o.vd o.va o.vb false false)) :
    LaneWrites k (use2 o.pg o.vd o.va o.vb false false) i o.vd.toNat 4 o.ty.bits (fun L e =>
      ((idx (L * (64 / o.ty.bits) + e) (part o.ty.bits (k.src L o.vb.toNat) e).toNat).bind
        (k.crossPart (use2 o.pg o.vd o.va o.vb false false) o.ty.bits o.va.toNat)).getD
          (part o.ty.bits ((k.t'.lane L).reg o.vd.toNat) e)) := by
  refine lanes_write i (use2 o.pg o.vd o.va o.vb false false) k o.vd.toNat 4 o.ty.bits _ _ hb hexec h
    (fun L e he => ?_)
  rw [part_pack _ _ _ he, src_ctx, elem_part, elem_part, crossRead_ctx k _ 4 o.ty.bits o.va.toNat h]
  cases idx (L * (64 / o.ty.bits) + e) (part o.ty.bits (k.src L o.vb.toNat) e).toNat with
  | none => simp
  | some j =>
    rw [Option.bind_some, Option.bind_some]
    cases k.crossPart (use2 o.pg o.vd o.va o.vb false false) o.ty.bits o.va.toNat j <;> simp

/-- Settles O10: a read that finds no element, because its index names none or no lane holds it, keeps the prior one. -/
theorem laneMovesVotesAndCrossLaneReads : Obligations.LaneMovesVotesAndCrossLaneReads := by
  refine ⟨fun k => ⟨fun o => bcast_write k o _ rfl, fun o h => ?_, fun o h =>
    ⟨voteAny_next k o _ rfl h, voteAll_next k o _ rfl h⟩, fun o => voteCnt_next k o _ rfl, fun pg vd h => ?_⟩, fun k o p hp h => ?_⟩
  · rw [getl_next k o h]
    cases (k.lanes (useVG o.pg o.rd o.ra o.ta)).head? <;> rfl
  · exact wholeLanes_write (.laneix pg vd) (use0 pg vd) k vd.toNat 4 (fun _ L _ => BitVec.ofNat 64 L) _ rfl rfl h
      (fun _ => rfl)
  · obtain ⟨hb, hexec⟩ := exec_crossIndex o k.s p hp
    obtain ⟨val, hnext, hval⟩ := crossLane_write (p.1 o) k o p.2 hb hexec h
    refine ⟨val, hnext, fun L hL e he => (hval L hL e he).trans ?_⟩
    cases hj : p.2 (L * (64 / o.ty.bits) + e) (part o.ty.bits (k.src L o.vb.toNat) e).toNat with
    | none => simp only [hj]; rfl
    | some j =>
      simp only [hj, Option.bind_some, Issue.crossPart]
      split
      · rfl
      · cases k.sourceLane (use2 o.pg o.vd o.va o.vb false false) (j / (64 / o.ty.bits)) <;> rfl

end Sys2Proof.Machine
end

section
/-! Uniform arithmetic and immediates (R55, R56, R25). -/

namespace Sys2Proof.Machine

/-- A uniform unit that writes gd from the team's registers. -/
theorem uniform_writeG (i : Instr) (u : Use) (k : Issue) (gd len : Nat) (eff : Ctx → State → Res) (val : Team → Word)
    (hb : unitBytes i = len) (hexec : exec i k.s = issueUnit i u k.s eff) (he : ∀ c s, eff c s = writeG c s gd (val c.t))
    (h : k.Ready u) (hr : u.vr = []) (hw : u.vw = []) : exec i k.s = .next (k.done len (k.t.setG gd (val k.t))) := by
  subst hb
  exact hexec.trans (issueUnit_done i u k eff _ h (by simp [he, writeG, team'_plain k u h hr hw]))

/-- The two-source forms. -/
theorem uniTwoSource_writeG (i : Instr) (k : Issue) (o : UR) (op r : Word → Word → Word) (hr : ∀ a b, op a b = r a b)
    (hb : unitBytes i = 4) (hexec : exec i k.s = uniBin i o.qg o.gd o.ga o.gb op k.s) (h : k.Ready (useU2 o.qg o.gd o.ga o.gb)) :
    exec i k.s = .next (k.done 4 (k.t.setG o.gd.toNat (r (k.t.greg o.ga.toNat) (k.t.greg o.gb.toNat)))) := by
  rw [hexec, uniBin_next i k o.qg o.gd o.ga o.gb op h, hb, hr]

/-- The forms of one source. -/
theorem uniOneSource_writeG (i : Instr) (k : Issue) (qg : BitVec 3) (gd ga : BitVec 6) (op : Word → Word)
    (len : Nat) (r : Word → Word) (hr : ∀ a, op a = r a) (hb : unitBytes i = len)
    (hexec : exec i k.s = uniUn i qg gd ga op k.s) (h : k.Ready (useU1 qg gd ga)) :
    exec i k.s = .next (k.done len (k.t.setG gd.toNat (r (k.t.greg ga.toNat)))) := by
  rw [hexec, uniUn_next i k qg gd ga op h, hb, hr]

theorem uniTwoSourceForms_writeG (k : Issue) (o : UR) (p) (hp : p ∈ uniTwoSource) (h : k.Ready (useU2 o.qg o.gd o.ga o.gb)) :
    exec (p.1 o) k.s = .next (k.done 4 (k.t.setG o.gd.toNat (p.2 (k.t.greg o.ga.toNat) (k.t.greg o.gb.toNat)))) := by
  have write := fun (i : Instr) => uniTwoSource_writeG i k o
  simp only [uniTwoSource, List.mem_cons, List.not_mem_nil, or_false] at hp
  rcases hp with rfl | rfl | rfl | rfl | rfl | rfl | rfl | rfl | rfl | rfl | rfl | rfl | rfl | rfl | rfl | rfl | rfl | rfl | rfl
  · exact write (.gadd o) (· + ·) _ (fun _ _ => rfl) rfl rfl h
  · exact write (.gsub o) (· - ·) _ (fun _ _ => rfl) rfl rfl h
  · exact write (.gmul o) (· * ·) _ (fun _ _ => rfl) rfl rfl h
  · exact write (.gmin o) (w64 (imin 64)) _ ofNat_imin rfl rfl h
  · exact write (.gmax o) (w64 (imax 64)) _ ofNat_imax rfl rfl h
  · exact write (.gminn o) (w64 iminn) _ ofNat_iminn rfl rfl h
  · exact write (.gmaxn o) (w64 imaxn) _ ofNat_imaxn rfl rfl h
  · exact write (.gand o) (· &&& ·) _ (fun _ _ => rfl) rfl rfl h
  · exact write (.gor o) (· ||| ·) _ (fun _ _ => rfl) rfl rfl h
  · exact write (.gxor o) (· ^^^ ·) _ (fun _ _ => rfl) rfl rfl h
  · exact write (.gshl o) (w64 (ishl 64)) _ (fun a b => ofNat_ishl a b.toNat) rfl rfl h
  · exact write (.gshr o) (w64 (ishr 64)) _ (fun a b => ofNat_ishr a b.toNat) rfl rfl h
  · exact write (.gsar o) (w64 (isar 64)) _ (fun a b => ofNat_isar a b.toNat) rfl rfl h
  · exact write (.gmulh o) (w64 (imulh 64)) _ ofNat_imulh rfl rfl h
  · exact write (.gmulhn o) (w64 (imulhn 64)) _ (fun _ _ => rfl) rfl rfl h
  · exact write (.gdiv o) (w64 (idiv 64)) _ ofNat_idiv rfl rfl h
  · exact write (.gdivn o) (w64 (idivn 64)) _ ofNat_idivn rfl rfl h
  · exact write (.grem o) (w64 (irem 64)) _ ofNat_irem rfl rfl h
  · exact write (.gremn o) (w64 iremn) _ ofNat_iremn rfl rfl h

theorem uniUnaryForms_writeG (k : Issue) (o : UU) (p) (hp : p ∈ uniUnary) (h : k.Ready (useU1 o.qg o.gd o.ga)) :
    exec (p.1 o) k.s = .next (k.done 4 (k.t.setG o.gd.toNat (p.2 (k.t.greg o.ga.toNat)))) := by
  have write := fun (i : Instr) op => uniOneSource_writeG i k o.qg o.gd o.ga op 4
  simp only [uniUnary, List.mem_cons, List.not_mem_nil, or_false] at hp
  rcases hp with rfl | rfl | rfl | rfl | rfl
  · exact write (.gpopc o) (w64u (ipopc 64)) _ ofNat_ipopc rfl rfl h
  · exact write (.gclz o) (w64u (fun a => iclz a 64)) _ ofNat_iclz rfl rfl h
  · exact write (.gctz o) (w64u (ictz 64)) _ ofNat_ictz rfl rfl h
  · exact write (.gnot o) (fun a => ~~~a) _ (fun _ => rfl) rfl rfl h
  · exact write (.gneg o) (fun a => -a) _ (fun _ => rfl) rfl rfl h

/-- The immediate forms, alone with the ten bits sign-extended, under EXT with the 35 bits. -/
theorem uniImmediateForms_writeG (k : Issue) (hi : BitVec 25) (o : UI) (p) (hp : p ∈ uniImmediate)
    (h : k.Ready (useU1 o.qg o.gd o.ga)) :
    exec (p.1 o) k.s = .next (k.done 4 (k.t.setG o.gd.toNat (p.2.2 (k.t.greg o.ga.toNat) (o.imm.signExtend 64)))) ∧
    exec (.ext hi (p.2.1 o)) k.s =
      .next (k.done 8 (k.t.setG o.gd.toNat (p.2.2 (k.t.greg o.ga.toNat) ((hi ++ o.imm).signExtend 64)))) := by
  have write := fun (i : Instr) op len => uniOneSource_writeG i k o.qg o.gd o.ga op len op (fun _ => rfl)
  simp only [uniImmediate, List.mem_cons, List.not_mem_nil, or_false] at hp
  rcases hp with rfl | rfl | rfl | rfl
  · exact ⟨write (.gaddi o) (· + imm10 o.imm) 4 rfl rfl h, write (.ext hi (.gaddi o)) (· + imm35 hi o.imm) 8 rfl rfl h⟩
  · exact ⟨write (.gandi o) (· &&& imm10 o.imm) 4 rfl rfl h, write (.ext hi (.gandi o)) (· &&& imm35 hi o.imm) 8 rfl rfl h⟩
  · exact ⟨write (.gori o) (· ||| imm10 o.imm) 4 rfl rfl h, write (.ext hi (.gori o)) (· ||| imm35 hi o.imm) 8 rfl rfl h⟩
  · exact ⟨write (.gxori o) (· ^^^ imm10 o.imm) 4 rfl rfl h, write (.ext hi (.gxori o)) (· ^^^ imm35 hi o.imm) 8 rfl rfl h⟩

/-- GMOVI, alone and under EXT. -/
theorem gmovi_writeG (i : Instr) (k : Issue) (o : UMov) (x : Word) (len : Nat) (hb : unitBytes i = len)
    (hexec : exec i k.s = gmoviWith i o x k.s) (h : k.Ready { qg := o.qg.toNat, gw := [o.gd.toNat] }) :
    exec i k.s = .next (k.done len (k.t.setG o.gd.toNat x)) :=
  uniform_writeG i { qg := o.qg.toNat, gw := [o.gd.toNat] } k o.gd.toNat len _ (fun _ => x) hb hexec (fun _ _ => rfl) h rfl rfl

/-- GMOVH's number: the immediate's low half above the register's. -/
theorem ofNat_halves (x old : Word) : BitVec.ofNat 64 (old.toNat % 2 ^ 32 + x.toNat % 2 ^ 32 * 2 ^ 32) = movh x old := by
  have hlow : old.toNat % 2 ^ 32 < 2 ^ 32 := Nat.mod_lt _ (Nat.two_pow_pos 32)
  apply BitVec.eq_of_toNat_eq
  rw [movh, BitVec.toNat_append, BitVec.extractLsb'_toNat, BitVec.extractLsb'_toNat, Nat.shiftRight_zero, Nat.shiftRight_zero,
    ← Nat.shiftLeft_add_eq_or_of_lt hlow, Nat.shiftLeft_eq, BitVec.toNat_ofNat, Nat.mod_eq_of_lt (by omega), Nat.add_comm]

/-- GMOVH, alone and under EXT. -/
theorem gmovh_writeG (i : Instr) (k : Issue) (o : UMov) (x : Word) (len : Nat) (hb : unitBytes i = len)
    (hexec : exec i k.s = gmovhWith i o x k.s) (h : k.Ready (useMovh o.qg o.gd)) :
    exec i k.s = .next (k.done len (k.t.setG o.gd.toNat (movh x (k.t.greg o.gd.toNat)))) := by
  rw [← ofNat_halves]
  exact uniform_writeG i (useMovh o.qg o.gd) k o.gd.toNat len _
    (fun t => BitVec.ofNat 64 ((t.greg o.gd.toNat).toNat % 2 ^ 32 + x.toNat % 2 ^ 32 * 2 ^ 32)) hb hexec (fun _ _ => rfl) h rfl rfl

/-- Settles O12: every form is one write of gd, and no uniform unit reads a walker or clears a mark. -/
theorem uniformArithmeticAndImmediates : Obligations.UniformArithmeticAndImmediates := by
  refine ⟨fun k => ⟨uniTwoSourceForms_writeG k, uniUnaryForms_writeG k⟩, fun k hi =>
    ⟨uniImmediateForms_writeG k hi, fun o h => ?_, fun o h => ?_, fun o h => ?_⟩⟩
  · exact ⟨uniOneSource_writeG (.gshli o) k o.qg o.gd o.ga _ 4 _ (w64u_ishl o.c) rfl rfl h,
      uniOneSource_writeG (.gshri o) k o.qg o.gd o.ga _ 4 _ (w64u_ishr o.c) rfl rfl h⟩
  · exact ⟨gmovi_writeG (.gmovi o) k o (imm10 o.imm) 4 rfl rfl h,
      gmovi_writeG (.ext hi (.gmovi o)) k o (imm35 hi o.imm) 8 rfl rfl h⟩
  · exact ⟨gmovh_writeG (.gmovh o) k o (imm10 o.imm) 4 rfl rfl h,
      gmovh_writeG (.ext hi (.gmovh o)) k o (imm35 hi o.imm) 8 rfl rfl h⟩

end Sys2Proof.Machine
end

section
/-! Cache operations: their checks in order and what each form does to a sector (R129, R130). -/

namespace Sys2Proof.Machine

/-! ### What the passing of holds leaves -/

@[simp] theorem modTeam_eng (s : State) (t : Nat) (g : Team → Team) : (s.modTeam t g).eng = s.eng := by
  unfold State.modTeam
  split <;> rfl

@[simp] theorem modTeam_launches (s : State) (t : Nat) (g : Team → Team) :
    (s.modTeam t g).alloc.launches = s.alloc.launches := by
  unfold State.modTeam
  split <;> rfl

@[simp] theorem modArm_eng (s : State) (t : Nat) (f : Bool) (g : Arm → Arm) : (s.modArm t f g).eng = s.eng :=
  modTeam_eng s t _

@[simp] theorem modArm_launches (s : State) (t : Nat) (f : Bool) (g : Arm → Arm) :
    (s.modArm t f g).alloc.launches = s.alloc.launches := modTeam_launches s t _

@[simp] theorem dropLeases_eng (s : State) (c : Nat) : (s.dropLeases c).eng = s.eng := rfl

@[simp] theorem dropLeases_launches (s : State) (c : Nat) : (s.dropLeases c).alloc.launches = s.alloc.launches := rfl

@[simp] theorem passHolds_eng (s : State) (tid : Nat) (f load : Bool) : (s.passHolds tid f load).eng = s.eng := by
  simp only [State.passHolds]
  repeat' split
  all_goals simp

@[simp] theorem passHolds_launches (s : State) (tid : Nat) (f load : Bool) :
    (s.passHolds tid f load).alloc.launches = s.alloc.launches := by
  simp only [State.passHolds]
  repeat' split
  all_goals simp

/-- An entry is found through the launches alone. -/
theorem handle_congr (s s' : State) (t : Team) (h : Word) (hl : s.alloc.launches = s'.alloc.launches) :
    t.handle s h = t.handle s' h := by
  simp only [Team.handle, State.launch?, hl]

/-- Range locks are found through the engines' table and the launches alone. -/
theorem lockedRegion_congr (s s' : State) (c : Nat) (ps : List Span) (he : s.eng = s'.eng)
    (hl : s.alloc.launches = s'.alloc.launches) : lockedRegion s c ps = lockedRegion s' c ps := by
  simp only [lockedRegion, State.awake, State.launch?, he, hl]

theorem passHolds_start (k : Issue) (u : Use) (len : Nat) (load : Bool) :
    (k.read.setTeam k.tid (k.team' u)).passHolds (k.ctx u len).tid (k.ctx u len).f load = k.before u load := rfl

section
variable (k : Issue) (u : Use) (h : k.Ready u) (hr : u.vr = [])
include h hr

theorem before_eng (load : Bool) : (k.before u load).eng = k.s.eng := by
  simp [Issue.before, read_plain k u h hr]

theorem before_launches (load : Bool) : (k.before u load).alloc.launches = k.s.alloc.launches := by
  simp [Issue.before, read_plain k u h hr]

theorem launch?_before (load : Bool) : (k.before u load).launch? k.t.geom.launch = some k.l := by
  rw [State.launch?, before_launches k u h hr load]
  exact h.launch

theorem handle_before (load : Bool) (x : Word) : k.t.handle (k.before u load) x = k.t.handle k.s x :=
  handle_congr _ _ _ _ (before_launches k u h hr load)

/-- The start of a unit's effect holds an access back as the state of its issue does. -/
theorem held_start (t : Team) (load : Bool) : (k.read.setTeam k.tid t).held k.a load = k.s.held k.a load := by
  rw [read_plain k u h hr]
  rfl

/-- A unit that names no v register traps HANDLE when its handle names no entry (R73). -/
theorem withHandle_invalid (hw : u.vw = []) (len gh : Nat) (load : Bool) (fn : Launch → PalEntry → Res)
    (hn : k.t.handle k.s (k.t.greg gh) = none) :
    withHandle (k.ctx u len) (k.before u load) gh fn = .trap Code.handle (k.t.greg gh) := by
  simp only [withHandle, ctx_t, team'_plain k u h hr hw, launch?_before k u h hr, handle_before k u h hr, hn]

theorem withHandle_entry (hw : u.vw = []) (len gh : Nat) (load : Bool) (fn : Launch → PalEntry → Res) (e : PalEntry)
    (he : k.t.handle k.s (k.t.greg gh) = some e) : withHandle (k.ctx u len) (k.before u load) gh fn = fn k.l e := by
  simp only [withHandle, ctx_t, team'_plain k u h hr hw, launch?_before k u h hr, handle_before k u h hr, he]

end

/-! ### The checks of a cache operation (R129) -/

theorem canRead_eq_testBit (e : PalEntry) : e.canRead = e.perm.testBit 0 := by
  rw [PalEntry.canRead, Nat.testBit_zero]

theorem canWrite_eq_testBit (e : PalEntry) : e.canWrite = e.perm.testBit 1 := by
  rw [PalEntry.canWrite, bitsOf, Nat.testBit_eq_decide_div_mod_eq, pow_one]

/-- The first two checks, which both trap HANDLE. -/
theorem cacheRefused_iff (e : PalEntry) (op : CacheOp) :
    (e.space = 7 ∨ e.space = 9 ∨ e.space = 10 ∨ e.perm.testBit 0 = false ∨ (op = .drop ∧ e.perm.testBit 1 = false)) ↔
      (e.space = Sp.net ∨ e.space = Sp.gangcast ∨ e.space = Sp.mcast) ∨
        ((op = .drop ∧ e.canWrite = false) ∨ e.canRead = false) := by
  rw [canRead_eq_testBit, canWrite_eq_testBit, Sp.net, Sp.gangcast, Sp.mcast]
  tauto

section
variable (k : Issue) (o : UCache) (op : CacheOp) (h : k.Ready (cacheUse o)) (hheld : k.s.held k.a false = false)
include h hheld

theorem cacheEff_invalid (hn : k.t.handle k.s (k.t.greg o.gh.toNat) = none) :
    cacheEff o op (k.ctx (cacheUse o) 4) (k.read.setTeam k.tid (k.team' (cacheUse o))) =
      .trap Code.handle (k.t.greg o.gh.toNat) := by
  rw [cacheEff, if_neg (by simp [held_start k _ h rfl, hheld])]
  exact withHandle_invalid k _ h rfl rfl 4 o.gh.toNat false _ hn

/-- The checks of a cache operation on an entry in order, and what it does when it passes them. -/
theorem cacheEff_entry (e : PalEntry) (he : k.t.handle k.s (k.t.greg o.gh.toNat) = some e) :
    cacheEff o op (k.ctx (cacheUse o) 4) (k.read.setTeam k.tid (k.team' (cacheUse o))) =
      let go := k.t.greg o.go.toNat
      let gl := (k.t.greg o.gl.toNat).toNat
      let s1 := k.before (cacheUse o) false
      let c := k.t.geom.core
      if e.space = 7 ∨ e.space = 9 ∨ e.space = 10 ∨ e.perm.testBit 0 = false ∨ (op = .drop ∧ e.perm.testBit 1 = false) then
        .trap Code.handle (k.t.greg o.gh.toNat)
      else if e.limit < go.toNat + gl then .trap Code.bounds go
      else if op = .drop ∧ (go.toNat % 64 ≠ 0 ∨ gl % 64 ≠ 0) then .trap Code.alignIssue go
      else if (op = .drop ∨ op = .invl) ∧ lockedRegion k.s c (regionPieces k.l k.t.geom e go.toNat gl) = true then
        .trap Code.rangeLocked go
      else if rangeBusy s1 k.l c e go.toNat gl then .wait
      else .done ((rangeSectors s1 k.l c e go.toNat gl).foldl
        (fun s x => cacheSector (k.ctx (cacheUse o) 4) op e k.l.ctx s x.1 x.2) (rangeWalked s1 k.l c e go.toNat gl)) := by
  have ht : (k.ctx (cacheUse o) 4).t = k.t := team'_plain k _ h rfl rfl
  have hlock := fun ps => lockedRegion_congr (k.before (cacheUse o) false) k.s k.t.geom.core ps (before_eng k _ h rfl false)
    (before_launches k _ h rfl false)
  rw [cacheEff, if_neg (by simp [held_start k _ h rfl, hheld])]
  refine (withHandle_entry k _ h rfl rfl 4 o.gh.toNat false _ e he).trans ?_
  simp only [ht, passHolds_start, hlock, cacheRefused_iff, ite_or]

end

/-- A range that is empty or lies in a bank has no page to walk and no sector to act on. -/
theorem range_idle (s : State) (l : Launch) (c : Nat) (e : PalEntry) (off len : Nat) (h : len = 0 ∨ e.space ≤ 4) :
    rangeBusy s l c e off len = false ∧ rangeSectors s l c e off len = [] ∧ rangeWalked s l c e off len = s := by
  have hidle : len = 0 ∨ e.bank = true := h.imp id (fun h4 => by simp [PalEntry.bank, h4])
  have hpages : rangePages e off len = [] := if_pos (hidle.imp id Or.inl)
  exact ⟨by rw [rangeBusy, hpages]; rfl, if_pos hidle, by rw [rangeWalked, hpages]; rfl⟩

/-! ### What each form does to a sector (R130) -/

@[simp] theorem l1?_setL1_same (s : State) (c sec : Nat) (x : Option L1Sec) : (s.setL1 c sec x).l1? c sec = x :=
  sget_sset_same none s.coh.l1 (l1Key c sec) x

@[simp] theorem l1?_send (s : State) (toHome : Bool) (c sec : Nat) (b : MsgBody) (after : List Nat) (c' sec' : Nat) :
    (s.send toHome c sec b after).l1? c' sec' = s.l1? c' sec' := rfl

@[simp] theorem l1?_sendDrop (s : State) (c sec c' sec' : Nat) : (s.sendDrop c sec).l1? c' sec' = s.l1? c' sec' := rfl

@[simp] theorem l1?_modArm (s : State) (t : Nat) (f : Bool) (g : Arm → Arm) (c sec : Nat) :
    (s.modArm t f g).l1? c sec = s.l1? c sec := by
  unfold State.modArm State.modTeam
  split <;> rfl

@[simp] theorem l1?_newOp (s : State) (kind : OpKind) (tid : Nat) (f : Bool) (spans : List Span) (c sec : Nat) :
    (s.newOp kind tid f spans).2.l1? c sec = s.l1? c sec :=
  l1?_modArm (s.freshOp kind tid f spans).2 tid f _ c sec

@[simp] theorem l1?_writeBackOps (s : State) (ws : List (Nat × Bool)) (c sec : Nat) :
    (s.writeBackOps ws).2.l1? c sec = s.l1? c sec :=
  List.foldlRecOn ws _ (motive := fun (acc : List Nat × State) => acc.2.l1? c sec = s.l1? c sec) rfl
    (fun acc ih w _ => (l1?_newOp acc.2 .cache w.1 w.2 [] c sec).trans ih)

@[simp] theorem l1?_cacheOps (k : Ctx) (s : State) (x : L1Sec) (span : List Span) (c sec : Nat) :
    (cacheOps k s x span).2.l1? c sec = s.l1? c sec := by
  simp [cacheOps]

/-- A message that is sent is under way. -/
theorem send_mem_net (s : State) (toHome : Bool) (c sec : Nat) (b : MsgBody) :
    ∃ m ∈ (s.send toHome c sec b).coh.net, m.core = c ∧ m.sector = sec ∧ m.toHome = toHome ∧ m.body = b :=
  ⟨⟨s.newId.1, toHome, c, sec, b, []⟩, List.mem_append_right _ (List.mem_singleton.mpr rfl), rfl, rfl, rfl, rfl⟩

section
variable (k : Ctx) (e : PalEntry) (ctx : Nat) (s : State) (sec base : Nat) (x : L1Sec)
  (hx : s.l1? k.t.geom.core sec = some x)
include hx

theorem cacheSector_pub_clean (hst : x.st ≠ .m) : cacheSector k .pub e ctx s sec base = s := by
  simp only [cacheSector, hx]

/-- PUB leaves a modified sector owned and writes it back. -/
theorem cacheSector_pub_modified (hst : x.st = .m) :
    let o := cacheOps k s x ((Place.va base).span ctx 64).toList
    cacheSector k .pub e ctx s sec base =
      (o.2.setL1 k.t.geom.core sec (some { x with st := .o, dirty := 0, writers := [] })).send true k.t.geom.core sec
        (.publishWriteBack (dirtyCells sec x) o.1) := by
  simp only [cacheSector, hx, hst]

/-- INVL drops a modified sector and writes it back. -/
theorem cacheSector_invl_modified (hst : x.st = .m) :
    let o := cacheOps k (s.setL1 k.t.geom.core sec none) x ((Place.va base).span ctx 64).toList
    cacheSector k .invl e ctx s sec base = o.2.send true k.t.geom.core sec (.evictionWriteBack (dirtyCells sec x) o.1) := by
  simp only [cacheSector, hx, hst]

theorem cacheSector_invl_l1? : (cacheSector k .invl e ctx s sec base).l1? k.t.geom.core sec = none := by
  cases hst : x.st with
  | m => rw [cacheSector_invl_modified k e ctx s sec base x hx hst, l1?_send, l1?_cacheOps, l1?_setL1_same]
  | l => simp [cacheSector, hx, hst]
  | k => simp [cacheSector, hx, hst]
  | o => simp [cacheSector, hx, hst]

theorem cacheSector_drop_l1? : (cacheSector k .drop e ctx s sec base).l1? k.t.geom.core sec = none := by
  cases hst : x.st <;> simp [cacheSector, hx, hst]

theorem cacheSector_pref_valid (hv : x.valid s.sched.gtc = true) : cacheSector k .pref e ctx s sec base = s :=
  if_pos (.inr (.inr (.inl (by simp [hx, hv]))))

end

/-- Settles O33: on an entry the effect is one chain of checks that ends in the wait for a page (log 57, DESIGN CHOICE) or in the act
on each sector; what a form does to a sector the core holds follows from the sector's state. -/
theorem cacheOperationsCheckAndAct : Obligations.CacheOperationsCheckAndAct := by
  refine ⟨fun k o op h hheld => ?_, fun k e ctx s sec base x hx => ⟨cacheSector_pub_clean k e ctx s sec base x hx, fun hst => ?_,
    cacheSector_invl_l1? k e ctx s sec base x hx, cacheSector_drop_l1? k e ctx s sec base x hx,
    cacheSector_pref_valid k e ctx s sec base x hx, fun op j => by rw [cacheSector_mem], fun ⟨hst, _⟩ => ⟨?_, ?_⟩⟩⟩
  · intro i hd go gl s1
    have hb : unitBytes i = 4 := by cases op <;> rfl
    have hexec : exec i k.s = issueUnit i (cacheUse o) k.s (cacheEff o op) := by cases op <;> rfl
    have hout := hexec.trans (issueUnit_ready i _ k _ false h)
    have htrap := fun code info he => hexec.trans (issueUnit_trap i _ k (cacheEff o op) code info h he)
    rw [hb] at hout htrap
    refine ⟨fun hn => htrap _ _ (cacheEff_invalid k o op h hheld hn), fun e he => ?_⟩
    have heff := cacheEff_entry k o op h hheld e he
    intro bad odd lock
    refine ⟨fun hbad => htrap _ _ (heff.trans (if_pos hbad)),
      fun hok hlim => htrap _ _ (heff.trans ((if_neg hok).trans (if_pos hlim))), fun hok hlim hodd => ?_,
      fun hok hlim hodd hlock => ?_, fun hok hlim hodd hlock => ?_⟩
    all_goals replace heff := heff.trans ((if_neg hok).trans (if_neg (Nat.not_lt.mpr hlim)))
    · exact htrap _ _ (heff.trans (if_pos hodd))
    · exact htrap _ _ (heff.trans ((if_neg hodd).trans (if_pos hlock)))
    · replace heff := heff.trans ((if_neg hodd).trans (if_neg hlock))
      refine ⟨fun hbusy => ?_, fun hbusy => ?_, fun hidle => ?_⟩
      · rw [hout, heff, if_pos hbusy]
        rfl
      · rw [hout, heff, if_neg (Bool.eq_false_iff.mp hbusy)]
        rfl
      · obtain ⟨hbusy, hsectors, hwalked⟩ := range_idle s1 k.l k.t.geom.core e go.toNat gl hidle
        rw [hout, heff, if_neg (Bool.eq_false_iff.mp hbusy), hsectors, hwalked]
        rfl
  · rw [cacheSector_pub_modified k e ctx s sec base x hx hst, l1?_send, l1?_setL1_same, Option.map_some]
  · rw [cacheSector_pub_modified k e ctx s sec base x hx hst]
    obtain ⟨m, hm, hcore, hsec, hhome, hbody⟩ := send_mem_net _ true k.t.geom.core sec (.publishWriteBack (dirtyCells sec x) _)
    exact ⟨m, hm, hcore, hsec, hhome, _, hbody⟩
  · rw [cacheSector_invl_modified k e ctx s sec base x hx hst]
    obtain ⟨m, hm, hcore, hsec, hhome, hbody⟩ := send_mem_net _ true k.t.geom.core sec (.evictionWriteBack (dirtyCells sec x) _)
    exact ⟨m, hm, hcore, hsec, hhome, _, hbody⟩

end Sys2Proof.Machine
end

section
/-! Signs, classes and comparisons of floating-point elements (R193, R194). -/

namespace Sys2Proof.Machine

/-! ### The sign bit -/

theorem FF_bits_pos (c : FF) : 0 < c.bits := by cases c <;> decide

theorem FF_fmt_w (c : FF) : c.fmt.w = c.bits := by cases c <;> rfl

/-- The sign bit stands above a format's exponent and fraction. -/
theorem FF_eb_add_mb (c : FF) : c.fmt.eb + c.fmt.mb = c.bits - 1 := by cases c <;> rfl

/-- FABS's remainder is the element without its top bit. -/
theorem ofNat_fAbs (c : FF) (a : BitVec c.bits) :
    BitVec.ofNat c.bits (fAbs c.fmt a.toNat) = a &&& ~~~(BitVec.ofNat c.bits 1 <<< (c.bits - 1)) := by
  apply BitVec.eq_of_getLsbD_eq
  intro i hi
  rw [fAbs, FF_fmt_w, BitVec.getLsbD_ofNat, Nat.testBit_mod_two_pow, BitVec.testBit_toNat, BitVec.getLsbD_and,
    BitVec.getLsbD_not, ← BitVec.twoPow_eq, BitVec.getLsbD_twoPow]
  grind

/-- FNEG adds 2^(w-1) modulo 2^w, whichever way the sign goes. -/
theorem fNeg_mod (c : FF) (a : BitVec c.bits) : fNeg c.fmt a.toNat % 2 ^ c.bits = (2 ^ (c.bits - 1) + a.toNat) % 2 ^ c.bits := by
  have hpow : 2 ^ c.bits = 2 * 2 ^ (c.bits - 1) := by rw [← Nat.pow_succ', Nat.succ_eq_add_one, Nat.sub_add_cancel (FF_bits_pos c)]
  have hlt := a.isLt
  rw [fNeg, FF_fmt_w]
  split
  next hneg =>
    have hle : 2 ^ (c.bits - 1) ≤ a.toNat := by
      by_contra hsmall
      simp [Nat.div_eq_of_lt (Nat.lt_of_not_le hsmall)] at hneg
    rw [show 2 ^ (c.bits - 1) + a.toNat = a.toNat - 2 ^ (c.bits - 1) + 2 ^ c.bits by omega, Nat.add_mod_right]
  next => rw [Nat.add_comm]

theorem ofNat_fNeg (c : FF) (a : BitVec c.bits) :
    BitVec.ofNat c.bits (fNeg c.fmt a.toNat) = a ^^^ (1 <<< (c.bits - 1)) := by
  apply BitVec.eq_of_getLsbD_eq
  intro i hi
  rw [← BitVec.testBit_toNat, BitVec.toNat_ofNat, fNeg_mod, Nat.testBit_mod_two_pow, decide_eq_true hi, Bool.true_and,
    BitVec.getLsbD_xor, BitVec.natCast_eq_ofNat, BitVec.getLsbD_ofNat, decide_eq_true hi, Bool.true_and, Nat.one_shiftLeft,
    Nat.testBit_two_pow]
  rcases Nat.lt_or_eq_of_le (Nat.le_sub_one_of_lt hi) with h | rfl
  · rw [Nat.testBit_two_pow_add_gt h, BitVec.testBit_toNat, decide_eq_false (Nat.ne_of_gt h), Bool.xor_false]
  · rw [Nat.testBit_two_pow_add_eq, BitVec.testBit_toNat, decide_eq_true rfl, Bool.xor_true]

/-! ### Classes -/

/-- The bit of FCLASS's mask that stands for an element's class (R193). -/
def classBit (f : Fmt) (a : Nat) : Nat :=
  match unpack f false a with
  | .nan s => if s then 8 else 9
  | .inf s => if s then 0 else 7
  | .fin s m _ =>
    if m = 0 then (if s then 3 else 4)
    else if m < 2 ^ f.mb then (if s then 2 else 5) else (if s then 1 else 6)

theorem classBit_lt (f : Fmt) (a : Nat) : classBit f a < 10 := by
  unfold classBit
  repeat' split
  all_goals decide

theorem fClass_eq_two_pow_classBit (f : Fmt) (a : Nat) : fClass f a = 2 ^ classBit f a := by
  unfold fClass classBit
  cases unpack f false a with
  | nan s => cases s <;> rfl
  | inf s => cases s <;> rfl
  | fin s m e =>
    dsimp only
    repeat' split
    all_goals rfl

theorem ofNat_fClass (c : FF) (a : Nat) : BitVec.ofNat c.bits (fClass c.fmt a) = 1 <<< classBit c.fmt a := by
  apply BitVec.eq_of_toNat_eq
  simp [fClass_eq_two_pow_classBit, Nat.shiftLeft_eq]

/-- Decoding takes the sign from the bit above the exponent. -/
theorem neg?_unpack (f : Fmt) (daz : Bool) (x : Nat) (h : (unpack f daz x).isNan = false) :
    (unpack f daz x).neg? = x.testBit (f.eb + f.mb) := by
  rw [Nat.testBit_eq_decide_div_mod_eq]
  simp only [unpack] at h ⊢
  split
  · split
    · rfl
    · simp_all [FV.isNan]
  · split <;> rfl

/-- The class of an element, by its sign bit and its decoded value. -/
theorem classBit_cases (c : FF) (x : BitVec c.bits) :
    let neg := x.getLsbD (c.bits - 1)
    match unpack c.fmt false x.toNat with
    | .nan s => classBit c.fmt x.toNat = if s then 8 else 9
    | .inf _ => classBit c.fmt x.toNat = if neg then 0 else 7
    | .fin _ m _ =>
      if m = 0 then classBit c.fmt x.toNat = if neg then 3 else 4
      else if m < 2 ^ c.fmt.mb then classBit c.fmt x.toNat = if neg then 2 else 5
      else classBit c.fmt x.toNat = if neg then 1 else 6 := by
  have hsign := neg?_unpack c.fmt false x.toNat
  rw [FF_eb_add_mb, BitVec.testBit_toNat] at hsign
  cases hx : unpack c.fmt false x.toNat with
  | nan s => simp [classBit, hx]
  | inf s =>
    rw [hx] at hsign
    simp [classBit, hx, ← hsign rfl, FV.neg?]
  | fin s m e =>
    rw [hx] at hsign
    simp only [classBit, hx, ← hsign rfl, FV.neg?]
    repeat' split
    all_goals simp_all

/-! ### Comparison -/

theorem isNan_of_isSnan (x : FV) (h : x.isSnan = true) : x.isNan = true := by
  cases x with
  | nan s => rfl
  | inf s => exact h
  | fin s m e => exact h

/-- FCMP's outcome is its condition on the operands as read. -/
theorem fCmp_fst (f : Fmt) (daz : Bool) (c : FCC) (a b : Nat) : (fCmp f daz c a b).1 =
    fccSays c ((unpack f daz a).isNan || (unpack f daz b).isNan) (ltV false (unpack f daz a) (unpack f daz b))
      (ltV false (unpack f daz b) (unpack f daz a)) := by
  cases c <;> rfl

/-- The conditions that order their operands, which raise IV for a NaN of either kind (R194). -/
def orders (c : FCC) : Bool := c = .lt || c = .le || c = .gt || c = .ge

/-- Where every NaN raises IV, naming the signalling ones first adds nothing. -/
theorem snan_or_nan (x y : FV) : (x.isSnan || y.isSnan || (x.isNan || y.isNan)) = (x.isNan || y.isNan) := by
  have hx := isNan_of_isSnan x
  have hy := isNan_of_isSnan y
  grind

theorem fCmp_snd (f : Fmt) (daz : Bool) (c : FCC) (a b : Nat) :
    let x := unpack f daz a
    let y := unpack f daz b
    (fCmp f daz c a b).2 = (if x.isSnan || y.isSnan || ((x.isNan || y.isNan) && orders c) then 1 else 0) +
      (if x.special || y.special then 32 else 0) := by
  intro x y
  cases c with
  | lt | le | gt | ge => simp only [orders, decide_true, Bool.true_or, Bool.or_true, Bool.and_true, snan_or_nan]; rfl
  | eq | ne | un | od => simp only [orders, reduceCtorEq, decide_false, Bool.or_false, Bool.and_false]; rfl

/-- FCMP sets the predicate and raises the flags in one change of each executing lane (R30, R194). -/
theorem fcmp_next (k : Issue) (o : FC) (h : k.Ready (useCmp o.pg o.pd o.va o.vb)) :
    exec (.fcmp o) k.s = .next (k.done 4 { k.team' (useCmp o.pg o.pd o.va o.vb) with
      lanes := mapLanes (k.ex (useCmp o.pg o.pd o.va o.vb)) (fun L x =>
        let r := fCmp o.ty.fmt x.env.daz o.cc (part o.ty.bits (k.src L o.va.toNat) 0).toNat
          (part o.ty.bits (k.src L o.vb.toNat) 0).toNat
        (x.setPred o.pd.toNat (cmbSays o.cmb (x.pred o.pd.toNat) r.1)).raise r.2) 0
        (k.team' (useCmp o.pg o.pd o.va o.vb)).lanes }) :=
  issueUnit_mapLanes (.fcmp o) (useCmp o.pg o.pd o.va o.vb) k _
    (fun c L x =>
      let r := fCmp o.ty.fmt x.env.daz o.cc (elem o.ty.bits (c.src L x o.va.toNat) 0) (elem o.ty.bits (c.src L x o.vb.toNat) 0)
      (x.setPred o.pd.toNat (combine o.cmb (x.pred o.pd.toNat) r.1)).raise r.2) _ h (fun _ _ => rfl)
    (fun L => by simp only [src_ctx, elem_part, combine_eq_cmbSays])

/-! ### The forms -/

/-- A one-source form whose operation is one on each element. -/
theorem laneUnElements_write (i : Instr) (k : Issue) (pg : BitVec 3) (vd va : BitVec 6) (ta : Bool) (w : Nat)
    (g : Nat → Nat) (r : BitVec w → BitVec w) (hg : ∀ a : BitVec w, BitVec.ofNat w (g a.toNat) = r a)
    (hb : unitBytes i = 4) (he : exec i k.s = laneUn i pg vd va ta (ew1 w g) k.s) (h : k.Ready (use1 pg vd va ta)) :
    LaneWrites k (use1 pg vd va ta) i vd.toNat 4 w (fun L e => r (part w (k.src L va.toNat) e)) :=
  laneUn_writes i k pg vd va ta (ew1 w g) 4 w _ hb he h (fun _ e he => part_ew1 w g r hg _ e he)

/-- Settles O7: FABS and FNEG are operations on the sign bit, FCLASS names the bit of the class, and FCMP changes each executing
lane's predicate and flags from what it reads. -/
theorem signsClassesAndFloatCompares : Obligations.SignsClassesAndFloatCompares := by
  refine ⟨fun k o h => ?_, fun k o h => ?_⟩
  · have elements := fun (i : Instr) => laneUnElements_write i k o.pg o.vd o.va o.ta o.ty.bits
    refine ⟨elements (.fabs o) _ _ (ofNat_fAbs o.ty) rfl rfl h, elements (.fneg o) _ _ (ofNat_fNeg o.ty) rfl rfl h,
      fun L e => classBit o.ty.fmt (part o.ty.bits (k.src L o.va.toNat) e).toNat, fun _ _ => classBit_lt _ _, ?_,
      fun _ _ _ => classBit_cases o.ty _⟩
    exact elements (.fclass o) _ (fun a => 1 <<< classBit o.ty.fmt a.toNat) (fun a => ofNat_fClass o.ty a.toNat) rfl rfl h
  · rw [fcmp_next k o h]
    simp only [fCmp_fst, fCmp_snd]
    rfl

end Sys2Proof.Machine
end
